-- ==== Sys2Proof/Word.lean ====
section
/-! DEFINITION. The word types of the SV3 and their plainest arithmetic. -/

namespace Sys2Proof

/-- One byte. -/
abbrev Byte := BitVec 8
/-- A 16-bit field. -/
abbrev W16 := BitVec 16
/-- A register (every register is 32 bits wide, R446). -/
abbrev W32 := BitVec 32
/-- A 64-bit value, a register pair or a timeline position. -/
abbrev W64 := BitVec 64

end Sys2Proof
end

