-- ==== Sys2Proof/Syntax.lean ====
section
/-! DEFINITION. The commands of the block: one constructor per row of spec/opcode_table.json, in its order. The table
gives no operand; the operands below are what the row's rule needs from outside (the request, the written value, the
measured quantity). `r` is the reader that acts: a management session 0 to 7, or 8 for the SMBus port. -/

namespace Sys2Proof

/-- A received Suithen Transport message (R330): TYPE is the command's own. `ip`, `port`: where it came from. -/
structure Req where
  session : BitVec 8
  dstDev  : W16
  srcDev  : W16
  reqId   : W32
  arg     : W64
  ip      : BitVec 128
  port    : W16
  payload : List Byte
  deriving DecidableEq, Repr

/-- A physical upset: bits `mask` flip in byte `addr` of a tier before the command reads memory. `site` 0: the data;
1: the check byte of word `addr`; 2: page-parity byte `addr`; 3: the check byte of parity word `addr`; 4: tag byte `addr`; 5:
the check byte of tag word `addr` (R298, R300, R315). Tier 3 is state RAM, by tier-3 address (R188). -/
structure Upset where
  tier : Nat
  site : Nat
  addr : Nat
  mask : Byte
  deriving DecidableEq, Repr

/-- What a DIMM socket shows at the end of training (R291, R292). -/
structure Dimm where
  present   : Bool
  qualified : Bool
  trained   : Bool
  part      : BitVec 8
  ranks     : BitVec 4
  size      : BitVec 4
  deriving DecidableEq, Repr

/-- One Announce data set (R344): the fields the best-master algorithm compares, best first. -/
structure Announce where
  domain   : BitVec 8
  priority : List Nat
  identity : W64
  steps    : BitVec 8
  deriving DecidableEq, Repr

/-- Where the elements of one operand of an operation stand in the tiles its step takes on the operand's link, which the
spec leaves to the image: `planes` planes of `count` elements each, of format `fmt` (R12), from byte `off` of tile `tile`,
`stride` bytes apart (R103). Their scales and zero points: `pairs` (S_0, ZP_0, S_1, ZP_1, ...), or the 8-byte records from
byte `records` of the die's scale-record region (R48), one for each `group` elements of a plane, or for all (0). -/
structure Operand where
  fmt     : Nat
  tile    : Nat
  off     : Nat
  count   : Nat
  planes  : Nat
  stride  : Nat
  pairs   : List Nat
  group   : Nat
  records : Option Nat
  deriving DecidableEq, Repr

/-- Key/value state that a matrix product takes as its weight (R72, R73): from byte `off` of each position's entry, in the
stream's key/value area, or in hot state that begins at a tier-0 address. `value`: the value product. `span`: on a member
of a sequence-parallel ring, the first context position it holds and how many the row attends (R75). -/
structure KvRef where
  hot   : Option Nat
  off   : Nat
  value : Bool
  span  : Option (Nat × Nat)
  deriving DecidableEq, Repr

/-- What one record of the running step's program reads and where it writes beside its own fields, for one stream's row:
the positions of the chunk it covers, its link operands, its key/value weights, the byte of a position's key/value entry
it writes its result to (R317), the link of a result whose record names none (R75, R115), the place of its scale records
(R48), and its part in a ring's circulations (R75): 0 none, 1 the first, 2 the second, 3 the owner's completion. -/
structure OpInput where
  record    : Nat
  positions : Nat
  ins       : List Operand
  kv        : Option KvRef
  kvOut     : Option Nat
  out       : Option Nat
  scaleAt   : Option Nat
  ring      : Nat
  deriving DecidableEq, Repr

/-- One row of the running step: the offsets at which the tokens its chunk serves begin (R97, R99, R268), and its
records. -/
structure RowInput where
  stream : Nat
  marks  : List Nat
  recs   : List OpInput
  deriving DecidableEq, Repr

/-- The records that one selection of a step runs, those before `upto`, and what they read and write, row by row (R175). -/
structure Segment where
  upto : Nat
  rows : List RowInput
  deriving DecidableEq, Repr

/-- A register write, or what carries one, with the W1C flags that hardware sets in the write's own core cycle (R7). -/
structure Raced (α : Type) where
  value : α
  raced : W32
  deriving DecidableEq, Repr

/-- The commands. -/
inductive Instr where
  | registerWrite (r : Nat) (off : W32) (v : Raced W32)
  | sessionOpen (q : Req)
  | sessionClose (q : Req)
  | sessionLeaseExpiry (sess : Nat)
  | nop (q : Req)
  | stMessageRefused (ip : BitVec 128) (port : W16) (raw : List Byte)
  | regRead (q : Req)
  | regWrite (q : Raced Req)
  | memRead (q : Req) (ups : List Upset)
  | memWrite (q : Req) (ups : List Upset)
  | streamOpen (q : Req)
  | submit (q : Req)
  | streamBind (q : Req)
  | destWrite (q : Req)
  | destRead (q : Req)
  | coChallenge (q : Req)
  | coAuth (q : Req)
  | authLockoutEnd
  | coEnrol (q : Req)
  | attest (q : Req)
  | certRead (q : Req)
  | keyAgree (q : Req)
  | sakLoad (q : Req)
  | saCtrl (q : Req)
  | markKeyLoad (q : Req)
  | svnCommit (q : Req)
  | keyRevoke (q : Req)
  | fwWrite (q : Req)
  | zeroise (q : Req)
  | secZeroise (r : Nat) (v : W32)
  | zeroiseWipeComplete
  | selftest (q : Req)
  | random (q : Req)
  | tile (via : Option Nat) (q : Req)
  | signal (q : Req)
  | ringAdmit (via : Option Nat) (q : Req)
  | ringAbort (via : Option Nat) (q : Req)
  | ringClose (via : Option Nat) (q : Req)
  | ringLeaseExpiry (stream : Nat)
  | arp (senderMac : BitVec 48) (senderIp targetIp : W32)
  | neighbourSolicitation (source target : BitVec 128)
  | echoRequest (source dest : BitVec 128) (v6 : Bool) (data : List Byte)
  | udpOtherPort (dport : W16)
  | macsecDrop (sc : Nat) (an : Nat) (isProtected icvOk : Bool) (pn : Nat)
  | addressResolution (entry : Nat) (found : Option (BitVec 48))
  | ethLinkUp (at16 : Bool) (fails : Nat)
  | ethLinkDown
  | ptpSync (sec : BitVec 48) (ns : BitVec 30) (offset : Int)
  | ptpAnnounce (a : Announce)
  | announceReceiptTimeout
  | ethPtpCfg (r : Nat) (v : W32)
  | tlIncrement (tau : Nat) (sapStart : Bool) (cc : Nat)
  | wclkInEdge (since sinceInc : Nat)
  | wclkLoss (since : Nat)
  | ptpLoss (ms : Nat)
  | tlAutoStep (sec : BitVec 48) (ns : BitVec 30)
  | tlLoad (r : Nat)
  | tlStep (r : Nat) (sec : BitVec 48) (ns : BitVec 30)
  | tlCtrl (r : Nat) (v : W32)
  | tlStatLen (r : Nat) (v : W32)
  | quantLatch
  | tlPosLo (r : Nat)
  | tileArrival (link : Nat)
  | stepSelect (stage cc : Nat) (ups : List Upset) (seg : Segment)
  | stepStall (stage : Nat) (cc : Nat) (link : Nat)
  | stepComplete (stage : Nat) (cc : Nat) (consumed : List (Nat × Nat))
  | watchdogAbort (die : Nat) (steps : List (Nat × Nat)) (waited : Nat)
  | chSubmit (r : Nat)
  | chRestart (r : Nat)
  | descriptorCheck (ch : Nat)
  | bellowsUnitTransfer (ch : Nat) (ups : List Upset)
  | tileFetchStart (link : Nat) (head entries : List Byte) (ups : List Upset)
  | waitLimit (ch : Nat) (waited : Nat)
  | start (r : Nat)
  | stop (r : Nat)
  | park (r : Nat)
  | parkComplete (stream : Nat)
  | resume (r : Nat)
  | restoreComplete (stream : Nat) (ups : List Upset)
  | close (r : Nat)
  | closeComplete (stream : Nat)
  | abort (r : Nat)
  | streamLoHalfWrite (r : Nat) (off v : W32)
  | streamSeedHi (r : Nat) (v : W32)
  | streamInvT (r : Nat) (v : W32)
  | streamStartHi (r : Nat) (v : W32)
  | streamParkHi (r : Nat) (v : W32)
  | queueHead (r : Nat) (v : W32)
  | store (r : Nat) (profile : Nat)
  | delete (r : Nat) (profile : Nat)
  | prefetch (r : Nat) (profile : Nat)
  | profileCmdEnd (r : Nat)
  | profileFetchComplete (profile : Nat) (ups : List Upset)
  | txnAppend (r : Nat)
  | txnSubmit (r : Nat) (immediate rtppos : Bool)
  | txnClear (r : Nat)
  | txnCancel (r : Nat)
  | intEnable (r : Nat) (v : W32)
  | intDest (r : Nat) (v : W32)
  | imageLen (r : Nat) (v : W32)
  | verify (r : Nat)
  | verifyComplete
  | activate (r : Nat)
  | activateComplete (ups : List Upset)
  | deactivate (r : Nat)
  | discard (r : Nat)
  | hbmTrainingComplete (fail : W16)
  | ddrTrainingComplete (dimms : List Dimm)
  | tierFillComplete (tier : Nat)
  | dronePage (tier device : Nat) (ups : List Upset)
  | pageRepair (tier device : Nat) (ups : List Upset)
  | flitReceive (k : Nat) (bytes checks : List Byte)
  | flitSend (k : Nat)
  | tileMessageSend (k : Nat)
  | replayTimeout (k : Nat)
  | creditTimeout (k : Nat) (data : Bool)
  | laneLockLoss (k : Nat)
  | klCtrl (r : Nat) (v : W32)
  | trainingTimeout (k : Nat)
  | trainingRetry (k : Nat)
  | holdExpiry (link : Nat)
  | gapSend (link position : Nat)
  | klLinkPeer (r : Nat) (v : W32)
  | klRingMember (r : Nat) (v : W32)
  | ethDevAddr (r : Nat) (v : W32)
  | sapCmdStart (r port : Nat)
  | startExt (r port : Nat)
  | sapCmdStop (r port : Nat)
  | stopNow (r port : Nat)
  | sapCmdCancel (r port : Nat)
  | sapFrameStart (port : Nat)
  | slaveFrameStart (port bitClocks : Nat)
  | clkLost (port : Nat)
  | sapMask (r port : Nat) (v : W32) (lastTwoClocks : Bool)
  | sapSlotMap (r port slot : Nat) (v : W32)
  | rngTestOutLo (r : Nat)
  | evrecData0 (r : Nat)
  | evrecData7 (r : Nat)
  | evrecCtrl (r : Nat) (v : W32)
  | freezeExpiry (r : Nat)
  | evrecClear (r : Nat) (v : W32)
  | clearEraseComplete
  | slotProgramComplete
  | sectorEraseComplete
  | minuteTick
  | counterPersist
  | vinPresent (mv : Nat)
  | vinStable (mv : Nat)
  | vinFault (mv : Nat)
  | railRegulation (rail : Nat)
  | pwrGoodRise
  | railFault (rail mv : Nat)
  | railsOff
  | modRstNAssert
  | modRstNRelease (brdPos : BitVec 3)
  | resetEnd (brdPos : BitVec 3)
  | bootStageComplete (ms : Nat)
  | standby (r : Nat)
  | wake (r : Nat)
  | wakeComplete
  | pwrReset (r : Nat) (v : W32)
  | thermalSample (temps : List (Nat × W16))
  | telemetryUpdate (mv ma mw mj : Nat)
  | pwrEnergyLo (r : Nat)
  | setOffset (data : List Byte) (pecOk : Bool)
  | read
  | read8
  | write (data : Raced (List Byte)) (pecOk : Bool)
  | alertResponse
  | wclkOutFall
  | standbyDomainOff (mv : Nat)
  | railOutOfTolerance (rail : Nat)
  | smbusTimeout
  | boundaryScanAccess (ir : Nat)
  | igmpMldReport (v6 : Bool) (query : Bool)
  deriving DecidableEq, Repr

end Sys2Proof
end

