-- ==== Sys2Proof/Config.lean ====
section
/-! DEFINITION. What one implementation fixes, and the values the spec leaves open: each an opaque constant with no
body, so that no proof can see a value of it. -/

namespace Sys2Proof.Config

/-- Device serial (R447), from fuses. -/
opaque serial : W64
/-- MAC address (R347), from identity. -/
opaque mac : BitVec 48
/-- SHA-384 (named by R138, R146, R399; its function is its standard's). -/
opaque sha384 : List Byte → BitVec 384
/-- ECDSA P-384 verification: public key X then Y, message digest, r, s (R138, R396, R399). -/
opaque ecdsaVerify : BitVec 768 → BitVec 384 → BitVec 384 → BitVec 384 → Bool
/-- ECDSA P-384 signature r then s by the DIK over a digest, with the DRBG draw used (R403, R405). -/
opaque dikSign : BitVec 384 → Nat → BitVec 768
/-- The image-signing public key of a slot (R394). -/
opaque imageKey : Nat → BitVec 768
/-- The firmware-signing public key of a slot (R394). -/
opaque firmwareKey : Nat → BitVec 768
/-- Device ephemeral key pair drawn by the n-th KEY_AGREE: X then Y (R401). -/
opaque ephemeralPub : Nat → BitVec 768
/-- The session KEK of R403: draw number of the device key, host public key, session number. -/
opaque kek : Nat → BitVec 768 → Nat → BitVec 256
/-- AES-KW unwrap of 40 bytes under a KEK (R401, R403); none where its integrity check fails. -/
opaque aesKwUnwrap : BitVec 256 → List Byte → Option (BitVec 256)
/-- AES-256-GCM encryption: key, IV, AAD, plaintext; ciphertext and tag (R397). -/
opaque gcmSeal : BitVec 256 → List Byte → List Byte → List Byte → List Byte × BitVec 128
/-- AES-256-GCM decryption: key, IV, AAD, ciphertext, tag; none where the tag fails (R398). -/
opaque gcmOpen : BitVec 256 → List Byte → List Byte → List Byte → BitVec 128 → Option (List Byte)
/-- HMAC-SHA-384 under the mark key, its byte M[0] in the low bits (R407). -/
opaque markHmac : BitVec 256 → List Byte → BitVec 384
/-- The n-th byte of DRBG output (R394, RANDOM). -/
opaque drbgByte : Nat → Byte
/-- The n-th 48-byte challenge nonce (R401). -/
opaque drbgNonce : Nat → BitVec 384
/-- The profile key generated by the first CO_ENROL, by DRBG draw number (R394). -/
opaque profileKey : Nat → BitVec 256
/-- The key STORE and profile fetches use while no CO_ENROL has generated one: the spec names none. -/
opaque noProfileKey : BitVec 256
/-- Whether a run of the pre-operational tests fails, by free value, and which of them (R409). -/
opaque selfTestFails : Nat → Option Nat
/-- Whether a test that a draw, a key pair or a key-store write runs fails, by free value, and which of them (R409). -/
opaque useTestFails : Nat → Option Nat
/-- A firmware copy (0 A, 1 B) with the bytes FW_WRITE changed: its SVN, its KEY_ID, whether its signature verifies
(R396). -/
opaque fwSvn : Nat → List (Nat × Byte) → W32
opaque fwKeyId : Nat → List (Nat × Byte) → W32
opaque fwSigOk : Nat → List (Nat × Byte) → Bool
/-- SHA-384 of a firmware copy, signature block excluded (R405). -/
opaque fwDigest : Nat → List (Nat × Byte) → BitVec 384
/-- Bytes of the device certificate chain (R395). -/
opaque certChain : List Byte
/-- G.711 segment encoders of ITU-T G.711 over the truncated linear value (R343): mu-law of 14 bits, A-law of 13. -/
opaque ulaw : BitVec 14 → Byte
opaque alaw : BitVec 13 → Byte
/-- The rate the PTP servo sets, in parts per 10^9, by update number: R211 specifies no algorithm. -/
opaque servoRate : Nat → BitVec 32
/-- A value the spec leaves open, by number (State.free is the next number). -/
opaque freeValue : Nat → BitVec 64

end Sys2Proof.Config
end

