-- ==== Sys2Proof/Machine/State.lean ====
section
/-! DEFINITION. The state of the SV3 as plain data, and the state right after module reset. The default of a field is
its reset value: the spec's where the spec gives one, otherwise the value notes/assumptions/2.md names. A sparse table
(`Cells`) lists, keys rising, only the entries that differ from the table's default entry. -/

namespace Sys2Proof.Machine

/-- A sparse table: keys strictly rising, no entry equal to the table's default. -/
abbrev Cells (α : Type) := List (Nat × α)

/-- A stop of the machine. No rule of the spec stops the block: nothing raises this. -/
inductive Fault where
  /-- Raised by nothing (safe): kept so that the type is not empty. -/
  | none
  deriving DecidableEq, Repr

/-- A command the model does not carry out. -/
inductive Refusal where
  /-- Raised by exec for a command whose meaning is not written yet (safe). -/
  | notModelled (mnemonic : String)
  deriving DecidableEq, Repr

/-! ## Exact values and accumulators -/

/-- What an encoding of a number stands for (R12 to R14). -/
inductive Fp where
  | nan
  | inf (neg : Bool)
  /-- (-1)^neg × m × 2^e; m = 0 is a signed zero. -/
  | fin (neg : Bool) (m : Nat) (e : Int)
  deriving DecidableEq, Repr

/-- An accumulator as it reaches the gate pipeline: A_n, its flags, and what R38 needs beside it; `n`: output channel. -/
structure Acc where
  a : Fp
  sat : Bool := false
  nonFinite : Bool := false
  c : W32 := 0x3F800000
  o : W32 := 0
  sa : W32 := 0x3F800000
  n : Nat := 0
  deriving DecidableEq, Repr

/-! ## What leaves the device -/

/-- A Suithen Transport message the device sends (R330, R472). -/
structure Msg where
  typ     : Byte
  reply   : Bool
  error   : Bool
  session : Byte
  dstDev  : W16
  reqId   : W32
  arg     : W64
  payload : List Byte
  ip      : BitVec 128
  port    : W16
  deriving DecidableEq, Repr

/-- One RTP packet (R342). -/
structure Rtp where
  entry     : Nat
  seq       : W16
  timestamp : W32
  ssrc      : W32
  pt        : BitVec 7
  marker    : Bool
  payload   : List Byte
  /-- The packet as it is sent, and the ports and length of its UDP header, in network byte order (R3). -/
  packet    : List Byte := []
  udp       : List Byte := []
  deriving DecidableEq, Repr

/-- The pins of a serial audio port over a frame, bit clock by bit clock (R376, R377): FSYNC from the frame start on, empty where
the port does not drive it, and DOUT from `delay` bit clocks after it on (none: not driven). -/
structure Line where
  delay : Nat
  fsync : List Bool
  dout  : List (Option Bool)
  deriving DecidableEq, Repr

/-- Everything that leaves a port or pin of the device. -/
inductive Out where
  | st (m : Msg)
  /-- The error reply to a message whose CHECK failed: its bytes (R331). -/
  | stRaw (bytes : List Byte) (ip : BitVec 128) (port : W16)
  | rtp (p : Rtp)
  | arpReply (mac : BitVec 48) (ip : W32)
  | advertisement (dest target : BitVec 128)
  | echoReply (source dest : BitVec 128) (v6 : Bool) (data : List Byte)
  | resolve (entry : Nat)
  | groupReport (v6 : Bool)
  /-- A flit: Kryter link, its 256 bytes, and the 2 check bytes of each lane frame (R351). -/
  | flit (k : Nat) (bytes checks : List Byte)
  /-- A serial audio frame: port, position, one word per slot (none: not driven), and its pins. -/
  | sapFrame (port : Nat) (pos : W64) (slots : List (Option W32)) (line : Line)
  | smbus (data : List Byte)
  | smbusNack
  | tap (instruction : Nat)
  deriving DecidableEq, Repr

/-! ## Sessions and readers -/

/-- Interrupt and self registers of a session (R450 to R454). -/
structure SessInt where
  scratch   : W32 := 0
  reqs      : W32 := 0
  cmdErr    : Bool := false
  pend      : BitVec 11 := 0
  enable    : BitVec 11 := 0x3FF
  destValid : Bool := false
  destEntry : BitVec 12 := 0
  seq       : W32 := 0
  /-- Bits newly set while enabled, whose message is still to be sent (R452). -/
  fresh     : BitVec 11 := 0
  deriving DecidableEq, Repr

/-- Selects and held halves of a session (R56, R182, R203, R244, R255, R296, R312, R373). -/
structure SessSel where
  stream      : W16 := 0
  queue       : BitVec 21 := 0
  profile     : BitVec 20 := 0
  seedLo      : W32 := 0
  startLo     : W32 := 0
  parkLo      : W32 := 0
  queueCmdErr : Bool := false
  mon         : BitVec 12 := 0
  stage       : BitVec 8 := 0
  plan        : BitVec 6 := 0
  channel     : BitVec 8 := 0
  link        : W16 := 0
  descLo      : W32 := 0
  descHi      : W32 := 0
  ddr         : BitVec 3 := 0
  tier        : BitVec 2 := 0
  kl          : BitVec 3 := 0
  klLink      : W16 := 0
  ringMember  : BitVec 6 := 0
  ringPlan    : BitVec 6 := 0
  deriving DecidableEq, Repr

/-- Profile commands and staging buffer of a session (R251, R256). `busy`: CMD and profile in progress. -/
structure SessProf where
  busy    : Option (Nat × Nat) := none
  cmdErr  : Bool := false
  result  : BitVec 8 := 0
  staging : Cells Byte := []
  deriving DecidableEq, Repr

/-- Transaction registers and build buffer of a session (R275). An action is its 16 bytes, little-endian. -/
structure SessTxn where
  act0     : W32 := 0
  act1     : W32 := 0
  act2     : W32 := 0
  act3     : W32 := 0
  build    : List (BitVec 128) := []
  posLo    : W32 := 0
  posHi    : W32 := 0
  cmdErr   : Bool := false
  index    : BitVec 6 := 0
  code     : BitVec 8 := 0
  id       : W32 := 0
  cancelId : W32 := 0
  queryId  : W32 := 0
  deriving DecidableEq, Repr

/-- Counter-hash test registers of a session (R132, R133). -/
structure SessRng where
  seed   : W64 := 0
  stream : W16 := 0
  tensor : W16 := 0
  step   : BitVec 48 := 0
  elem   : W32 := 0
  outHi  : W32 := 0
  deriving DecidableEq, Repr

/-- A management session (R336). -/
structure Session where
  isOpen  : Bool := false
  role    : Bool := false
  co      : Bool := false
  nonce   : Option (BitVec 384) := none
  kek     : Option (BitVec 256) := none
  int     : SessInt := {}
  sel     : SessSel := {}
  prof    : SessProf := {}
  txn     : SessTxn := {}
  rng     : SessRng := {}
  /-- The last 16 executed requests and their replies, newest first (R335). -/
  replies : List (W32 × Msg) := []
  deriving DecidableEq, Repr

/-- What each of the nine readers keeps for itself: sessions 0 to 7 and SMBus 8 (R227, R424, R444). -/
structure Reader where
  tlHi     : W32 := 0
  cursor   : W16 := 0
  capture  : BitVec 256 := 0
  freeze   : Bool := false
  tsel     : BitVec 5 := 0
  energyHi : W32 := 0
  deriving DecidableEq, Repr

/-! ## Timeline and statistics -/

/-- States of the timeline (R213). -/
inductive TlState where
  | free | acquiring | locked | holdover
  deriving DecidableEq, Repr

/-- The timeline unit (R205 to R226). `tau` is the timebase in units of 2^-32 ns (R210). -/
structure Timeline where
  pos         : W64 := 0
  tau         : Nat := 0
  autoStep    : Bool := true
  src         : BitVec 2 := 0
  state       : TlState := .free
  lost        : Bool := false
  stepped     : Bool := false
  cmdErr      : Bool := false
  far         : Bool := false
  loadPending : Bool := false
  loadPos     : W64 := 0
  offset      : W32 := 0
  freq        : W32 := 0
  trim        : W32 := 0
  slew        : BitVec 10 := 200
  stepThresh  : BitVec 23 := 48
  lockCount   : W16 := 8
  lockThresh  : W16 := 1000
  loss        : W16 := 1000
  /-- A servo update has given a converted PTP position (R217). -/
  ptpKnown    : Bool := false
  /-- The PTP time less tau at the last servo update, in units of 2^-32 ns (R216). -/
  lead        : Int := 0
  /-- Consecutive servo updates below the threshold, or qualified edges (R213). -/
  consec      : Nat := 0
  /-- Servo updates so far: the number of the next rate of Config.servoRate (R211). -/
  servoCount  : Nat := 0
  /-- The last 48 periods of WCLK_IN in ns, newest first (R212). -/
  periods     : List Nat := []
  /-- A qualified edge awaits its increment, 3 cc later (R212). -/
  wclkDue     : Bool := false
  /-- WCLK is LOCKED and its first paced increment has not come (R214). -/
  realign     : Bool := false
  /-- WCLK_OUT level (R383). -/
  wclkOut     : Bool := false
  deriving DecidableEq, Repr

/-- Statistics periods (R220 to R223, R226): the registers and the live values of the period in progress. -/
structure Period where
  len          : BitVec 23 := 480
  /-- A length was written and takes effect at the next boundary (R221). -/
  lenWaits     : Bool := false
  activeLen    : BitVec 23 := 480
  anchor       : W64 := 0
  seq          : W32 := 0
  flags        : BitVec 3 := 0
  hold         : W32 := 0
  start        : W64 := 0
  liveStepped  : Bool := false
  liveHold     : W32 := 0
  liveHeld     : Bool := false
  liveUnlocked : Bool := false
  /-- The core cycle in which the period in progress began, as commands count them (R181). -/
  cc           : Nat := 0
  deriving DecidableEq, Repr

/-- The counts of R455 that restart each period. -/
structure StatCounts where
  tokens  : W64 := 0
  slots   : W32 := 0
  empty   : W32 := 0
  zeros   : W32 := 0
  rtp     : W32 := 0
  sap     : W32 := 0
  audio   : W32 := 0
  exec    : W32 := 0
  opens   : W32 := 0
  refused : W32 := 0
  aborts  : W32 := 0
  deriving DecidableEq, Repr

/-- The STATS block (R455): live counts, their shadows, and the rest of the shadow set. -/
structure Stats where
  live       : StatCounts := {}
  shadow     : StatCounts := {}
  seq        : W32 := 0
  energy     : W32 := 0
  openEnd    : BitVec 17 := 0
  peak       : BitVec 17 := 0
  livePeak   : BitVec 17 := 0
  energyBase : W64 := 0
  deriving DecidableEq, Repr

/-! ## Quantisation monitors, draws -/

/-- One monitor slot (R51 to R55, R76, R95, R112, R135). -/
structure QuantSlot where
  elems    : W64 := 0
  clip     : W32 := 0
  uflow    : W32 := 0
  nonfin   : W32 := 0
  degen    : W32 := 0
  raises   : W32 := 0
  sse      : W64 := 0
  maxobs   : W32 := 0
  expLo    : BitVec 8 := 0
  expHi    : BitVec 8 := 0
  ceil     : Bool := false
  expValid : Bool := false
  sseSat   : Bool := false
  cntSat   : Bool := false
  accsat   : W32 := 0
  accnf    : W32 := 0
  statenf  : W32 := 0
  padonly  : W32 := 0
  wnan     : W32 := 0
  draws    : W64 := 0
  drawnf   : W32 := 0
  /-- The stream of the period's first draw without a finite candidate (R136). -/
  drawBy   : W16 := 0
  deriving DecidableEq, Repr

/-- A period whose QUANT counts wait to latch: TL_STAT_SEQ, start, length, counts, whether monitors counted. -/
structure QuantPeriod where
  seq   : W32 := 0
  start : W64 := 0
  len   : BitVec 23 := 0
  valid : Bool := false
  slots : Cells QuantSlot := []
  deriving DecidableEq, Repr

/-- The QUANT block (R53 to R56). -/
structure Quant where
  monEn     : Bool := true
  monEff    : Bool := true
  numSlots  : BitVec 13 := 0
  live      : Cells QuantSlot := []
  closing   : List QuantPeriod := []
  shadow    : QuantPeriod := {}
  deriving DecidableEq, Repr

/-- The delayed-scale record of one stream and DELAYED conversion (R44 to R47): the 16 maxima newest first, the previous
exponent, and the raise in force. -/
structure ScaleRec where
  maxima : List W32 := []
  ePrev  : BitVec 8 := 0
  eRaise : Option (BitVec 8) := none
  deriving DecidableEq, Repr

/-! ## The structure image -/

/-- States of the IMAGE block (R160). -/
inductive ImgState where
  | empty | staged | verifying | verified | activating | active | rejected
  deriving DecidableEq, Repr

/-- STAGES entry (R142). -/
structure StageEnt where
  stage : Nat
  die   : Nat
  quads : W64
  wes   : Byte
  sus   : Byte
  stateWords : Nat
  maxRows : Nat
  name : BitVec 128 := 0
  deriving DecidableEq, Repr

/-- SRAM entry (R143). -/
structure SramEnt where
  die : Nat
  kind : Nat
  stage : Nat
  base : Nat
  tiles : Nat
  deriving DecidableEq, Repr

/-- ROUTES entry (R145). -/
structure RouteEnt where
  route : Nat
  die : Nat
  src : Nat
  dst : Nat
  yFirst : Bool
  vc : Nat
  share : Nat
  deriving DecidableEq, Repr

/-- TENSORS entry (R146). -/
structure TensorEnt where
  tid : Nat
  fmt : Nat
  tier : Nat
  role : Nat
  flags : Nat
  die : Nat
  n : Nat
  k : Nat
  scale : W32
  codes : Nat
  scales : Nat
  side : Nat
  digest : List Byte
  deriving DecidableEq, Repr

/-- RESCALE entry (R147). -/
structure RescaleEnt where
  table : Nat
  values : List W32
  deriving DecidableEq, Repr

/-- One operation record (R148): its header fields and its whole bytes. -/
structure Rec where
  cls : Nat
  unit : Nat
  route : Nat
  slot : Nat
  bytes : List Byte
  deriving DecidableEq, Repr

/-- PROGRAMS entry (R148). -/
structure ProgEnt where
  prog : Nat
  stage : Nat
  recs : List Rec
  deriving DecidableEq, Repr

/-- BUDGETS entry (R154). -/
structure BudgetEnt where
  prog : Nat
  kind : Nat
  rows : Nat
  budget : Nat
  deriving DecidableEq, Repr

/-- LINKS entry (R155). -/
structure LinkEnt where
  link : Nat
  prod : Nat
  cons : Nat
  transport : Nat
  ahead : Nat
  buffers : Nat
  chain : Nat
  mcast : Nat
  base : Nat
  hold : Nat
  deriving DecidableEq, Repr

/-- PLANS entry (R156). -/
structure PlanEnt where
  plan : Nat
  kind : Nat
  rate : Nat
  seqGroup : Nat
  maxStreams : Nat
  maxContext : Nat
  spt : Nat
  kinds : List Nat
  ctxBytes : Nat
  kvBytes : Nat
  name : W64
  deriving DecidableEq, Repr

/-- A decoded structure image. -/
structure Image where
  id : W64 := 0
  svn : W32 := 0
  numSlots : Nat := 0
  bellowsPerDie : Nat := 64
  stages : List StageEnt := []
  sram : List SramEnt := []
  routes : List RouteEnt := []
  tensors : List TensorEnt := []
  rescale : List RescaleEnt := []
  programs : List ProgEnt := []
  budgets : List BudgetEnt := []
  links : List LinkEnt := []
  plans : List PlanEnt := []
  /-- Its directory: type, offset, length and entry size of each section (R139). -/
  dir : List (Nat × Nat × Nat × Nat) := []
  deriving DecidableEq, Repr

/-- The IMAGE block (R159, R471). `active`: the image in force; `staged`: the image VERIFY accepted. -/
structure ImageBlk where
  state    : ImgState := .empty
  lock     : Bool := false
  cmdErr   : Bool := false
  /-- The staging region is locked: VERIFY was accepted and no DISCARD since (R161). -/
  held     : Bool := false
  len      : W32 := 0
  section_ : BitVec 8 := 0
  code     : W16 := 0
  entry    : W32 := 0
  op       : W16 := 0xFFFF
  staged   : Option Image := none
  active   : Option Image := none
  /-- SHA-384 of the active image's signed message (R405). -/
  digest   : BitVec 384 := 0
  deriving DecidableEq, Repr

/-! ## Steps -/

/-- States of a scoreboard entry (R175). -/
inductive StepState where
  | pend | ready | run | wait | done
  deriving DecidableEq, Repr

/-- One row of a step: its stream and row control word (R97, R174); `slot` is the output slot of its token, `base` the
position count its token starts from, `chunk` the positions its token has at level 0 (R98, R122), `ctx` the context
positions written before them. -/
structure Row where
  stream : Nat
  slot : Nat
  base : Nat := 0
  chunk : Nat := 1
  ctx : Nat := 0
  rst : Bool := false
  rstOff : Nat := 0
  voice : BitVec 20 := 0
  seed : W64 := 0
  invT : W32 := 0
  masked : Bool := false
  last : Bool := false
  deriving DecidableEq, Repr

/-- What one record of a step computed for one row, held until the step writes its results (R175). `plane`: elements of
one plane of its output (R103), or of one position; `pairs`: scale records, s and zp in turn (R48), from byte `scaleAt`;
`link`: the link it leaves on where the record names none. -/
structure OpResult where
  record : Nat
  stream : Nat
  words : List W32 := []
  codes : List Nat := []
  plane : Nat := 0
  pairs : List W32 := []
  scaleAt : Option Nat := none
  link : Option Nat := none
  deriving DecidableEq, Repr

/-- What the records of a row have given so far: lane registers, state words written
(one vector of 64 lanes for each position) and state words carried by unit × 65536 + index, accumulators by unit, the planes a CONVERT record is to write with their WINDOW record (R152), the key/value bytes written by chunk
position and offset in the position's entry, results. -/
structure RowEnv where
  stream : Nat := 0
  regs : Cells (List W32) := []
  accs : Cells (List Acc) := []
  words : Cells (List W32) := []
  carried : Cells (List W32) := []
  plane : Option (List W32 × Nat) := none
  kv : List (Nat × Nat × List Byte) := []
  out : List OpResult := []
  /-- Operand elements of the next record that earlier segments loaded: operand number, codes, scales and zero points. -/
  held : List (Nat × List Nat × List Nat) := []
  deriving DecidableEq, Repr

/-- A step on a scoreboard, or waiting for a free entry (R174, R175). -/
structure Step where
  plan : Nat
  kidx : Nat
  kind : Nat
  prog : Nat
  rep : Nat
  batch : Nat
  round : Nat
  /-- Which stream's step it is in a single-stream plan, by its order of admission (R178). -/
  run : Nat := 0
  rows : List Row
  state : StepState := .pend
  /-- The link whose tile the step awaits, or was readied by, and how many tiles it needs there (R175). -/
  await : Option Nat := none
  need : Nat := 1
  /-- The first tile of its stage's weight stream that is the step's, how many are, how many it has loaded, and the bytes of
  the present record's tensor loaded so far (R194). -/
  wfrom : Nat := 0
  wtiles : Nat := 0
  wdone : Nat := 0
  load : List Byte := []
  /-- The next record to run, the tiles held as link and handle, and what its rows have so far (R175, R195). -/
  op : Nat := 0
  bufs : List (Nat × W32) := []
  envs : List RowEnv := []
  /-- Its results are laid out in tiles, and those of them that no buffer has taken yet: link, first and last of the step's
  tiles on it, bytes (R175, R195). -/
  closed : Bool := false
  outs : List (Nat × Bool × Bool × List Byte) := []
  /-- TL_STAT_SEQ when the stage first selected it: the period its elements count in (R51). -/
  period : Option W32 := none
  deriving DecidableEq, Repr

/-- One stage: scoreboard, trap, and its busy and idle core cycles (R174 to R181). -/
structure Stage where
  trapped  : Bool := false
  trapProg : W16 := 0
  trapOp   : W16 := 0
  steps    : List Step := []
  mark     : Nat := 0
  busyLive : Nat := 0
  idleLive : Nat := 0
  busy     : W32 := 0
  idle     : W32 := 0
  deriving DecidableEq, Repr

/-- Per-die scheduler registers (R181). -/
structure Sched where
  wdogEn : Bool := true
  limit  : BitVec 24 := 0x1312D0
  aborts : W32 := 0
  deriving DecidableEq, Repr

/-! ## Bellows -/

/-- Channel states (R202). -/
inductive ChState where
  | idle | run | wait | halted
  deriving DecidableEq, Repr

/-- A descriptor on a channel's queue: where it stands, who it belongs to, and how far it has moved. `role`: 0 host or
firmware, 1 a MOVE's block, 2 park, 3 restore, 4 a stream's text records (R233), 5 a streamed tensor (R194). -/
structure Desc where
  role    : Nat := 0
  tier    : Nat := 0
  addr    : Nat := 0
  stream  : Nat := 0xFFFF
  noStream : Bool := true
  link    : Nat := 0xFFFF
  checked : Bool := false
  /-- The block list as the check read it. -/
  block   : List Byte := []
  /-- Entry and unit (or row) to move next, and bytes of that row already moved; granules made or checked so far (R190). -/
  entry   : Nat := 0
  unit    : Nat := 0
  off     : Nat := 0
  moved   : Nat := 0
  /-- Link data: the block's bytes, its tiles, tiles started and arrived; the tensor and the step a weight block is for. -/
  bytes   : Nat := 0
  tiles   : Nat := 0
  started : Nat := 0
  arrived : Nat := 0
  tid     : Nat := 0
  /-- The link buffer being filled or read, as a handle (R195, R196). -/
  buf     : Option W32 := none
  status  : BitVec 8 := 0
  deriving DecidableEq, Repr

/-- A Bellows channel (R184 to R202). -/
structure Channel where
  state      : ChState := .idle
  haltCode   : BitVec 8 := 0
  cmdErr     : Bool := false
  control    : List Desc := []
  data       : List Desc := []
  lastSeq    : W16 := 0
  lastStatus : BitVec 8 := 0
  haltAddr   : W64 := 0
  haltStream : W16 := 0
  haltLink   : W16 := 0
  bytesLive  : W64 := 0
  bytes      : W64 := 0
  mergedLive : W32 := 0
  merged     : W32 := 0
  restarts   : W32 := 0
  /-- The request that the last linear data unit is part of: both tiers, TAG, where it begins in the source, and where the unit
  ends in source and destination (R191). -/
  lastUnit   : Option (Nat × Nat × Nat × Nat × Nat) := none
  deriving DecidableEq, Repr

/-- A link of the active image in service (R192, R195, R196). -/
structure LinkSt where
  empty    : Nat := 0
  full     : Nat := 0
  /-- Next buffer to fill and its lap; next buffer to read and its lap (R195, R316). -/
  fillIdx  : Nat := 0
  fillLap  : Nat := 0
  readIdx  : Nat := 0
  readLap  : Nat := 0
  freeQ    : List W32 := []
  fullQ    : List W32 := []
  gens     : Cells W16 := []
  stale    : W32 := 0
  /-- Tiles started and released since activation, and the buffers of fetches in flight, oldest first (R192). -/
  started  : Nat := 0
  released : Nat := 0
  flight   : List W32 := []
  /-- Buffers that arrived as GAP records (R362). -/
  gaps     : List Nat := []
  /-- Headers of the granules of a buffer whose tags came from elsewhere, by buffer: STREAM, NOSTREAM, SEQ (R316). -/
  heads    : Cells (List (Nat × Bool × Nat)) := []
  /-- Tiles of a weight stream queued since activation (R194). -/
  queued   : Nat := 0
  deriving DecidableEq, Repr

/-- A die's spill pool (R197): who holds each tile, who waits, and the tiles reserved for waiters. -/
structure Spill where
  holders : List Nat := []
  waiting : List Nat := []
  deriving DecidableEq, Repr

/-- The BELLOWS block. -/
structure Bellows where
  waitLim  : BitVec 24 := 0x1312D0
  channels : Cells Channel := []
  links    : Cells LinkSt := []
  spill    : Cells Spill := []
  deriving DecidableEq, Repr

/-! ## Streams, queues, profiles, transactions -/

/-- States of a stream (R242). -/
inductive StState where
  | free | admitted | running | draining | stopped | parked | aborted | closing
  deriving DecidableEq, Repr

/-- A park or restore in progress (R243). -/
inductive Busy where
  | park | resume | openRestore
  deriving DecidableEq, Repr

/-- A token in the pipeline or the ring: its slot, the level-0 round it was created in, whether it is the last of a drain,
and the MARK entries that wait on its last sample as completion queue and cookie (R172, R234). -/
structure Token where
  slot : Nat
  round : Nat
  last : Bool := false
  empty : Bool := false
  written : Bool := false
  /-- Reset mark and profile the token carries; the level whose steps were created (single-stream plans). -/
  rst : Bool := false
  voice : BitVec 20 := 0
  level : Nat := 0
  /-- Position count and context positions it starts from, its positions at level 0 (R98, R122), and the seed and INV_T of
  its draws (R129). -/
  base : Nat := 0
  ctx : Nat := 0
  chunk : Nat := 1
  seed : W64 := 0
  invT : W32 := 0
  /-- Samples the token's last level has given so far (R171). -/
  samples : List W32 := []
  marks : List (Nat × W32) := []
  /-- Timeline position of its slot's first sample; number of that sample in the stream in a single-stream plan. -/
  pos : W64 := 0
  /-- A transaction's STOP and START came since: the token is of the run that the STOP ends (R267). -/
  old : Bool := false
  deriving DecidableEq, Repr

/-- A change that waits for the next level-0 token (R234, R267, R272). -/
inductive Attach where
  /-- `armed`: a transaction's VOICE, whose arm holds a pin on the profile (R266). -/
  | voice (profile : BitVec 20) (armed : Bool)
  | reset
  | stop
  deriving DecidableEq, Repr

/-- One queue of a stream (R229, R256). -/
structure Queue where
  page  : Nat := 0
  pages : Nat := 0
  depth : Nat := 0
  head  : W32 := 0
  tail  : W32 := 0
  seq   : W32 := 0
  lost  : W16 := 0
  deriving DecidableEq, Repr

/-- A binding to an RTP or ST destination entry from a position (R341, R342): the samples of the packet in progress, the
position of its first one, and whether the next packet carries the marker bit. -/
structure Binding where
  entry  : Nat
  from_  : W64
  buf    : List W32 := []
  first  : W64 := 0
  marker : Bool := true
  /-- SEC_MARK_CTRL.RTP as the packet in progress began (R408). -/
  mark   : Bool := false
  deriving DecidableEq, Repr

/-- The part of a ring stream that names its owner (R365, R368). -/
structure RingOf where
  owner  : W16
  stream : W16
  member : Nat
  deriving DecidableEq, Repr

/-- Input side of a stream: where its command queue stands (R230 to R235). -/
structure StIn where
  /-- Records of the head entry placed in the level-0 link, and consumed (R233). -/
  placed   : Nat := 0
  consumed : Nat := 0
  /-- TAIL_MAX left while DRAINING (R235). -/
  tailLeft : Option Nat := none
  /-- Completion queue and cookie of the END in force (R235). -/
  lookahead : BitVec 8 := 0
  stopClass : W16 := 0xFFFF
  cmdLog   : Nat := 0
  cplLog   : Nat := 0
  extraCq  : Nat := 0
  ringSlots : Nat := 0
  deriving DecidableEq, Repr

/-- Run side of a stream: slots and tokens since START (R170 to R172, R234, R235). -/
structure StRun where
  /-- Start position S in force and first round ρ (R170). -/
  pos0     : Option W64 := none
  rho      : Nat := 0
  slot     : W32 := 0
  created  : Nat := 0
  left     : Nat := 0
  tokens   : List Token := []
  attach   : List Attach := []
  /-- No level-0 token is created any more (R243 STOP, R267, R235). -/
  halt     : Bool := false
  /-- The slot before was empty: LATE is not posted again (R236). -/
  lateRun  : Bool := false
  /-- Slot of the last token created since START, and the position after its last sample (R234, R236). -/
  lastSlot : W32 := 0xFFFFFFFF
  lastEnd  : W64 := 0
  /-- A transaction's STOP halted it: it stops at the end of its last slot, empty or not (R267). -/
  stopAll  : Bool := false
  /-- Slots of the run before that have left, while a STOP of it has not posted DRAINED (R267). -/
  oldLeft  : Option Nat := none
  /-- Round number of the next token of a single-stream plan. -/
  round    : Nat := 0
  deriving DecidableEq, Repr

/-- A stream context (R239 to R257). -/
structure Stream where
  state     : StState := .free
  busy      : Option Busy := none
  plan      : BitVec 6 := 0
  keyId     : W16 := 0
  cmdErr    : Bool := false
  detail    : BitVec 8 := 0
  result    : BitVec 8 := 0
  voice     : BitVec 20 := 0
  seed      : W64 := 0
  invT      : W32 := 0
  startPos  : W64 := 0
  earliest  : W64 := 0
  park      : W64 := 0
  /-- Where the park or restore in progress writes or reads: tier and address as in STREAM_PARK (the model's latch). -/
  ctxAddr   : W64 := 0
  /-- The header of the context a restore reads, as its check read it (R254). -/
  ctxHead   : List Byte := []
  step      : BitVec 48 := 0
  ctxTokens : W32 := 0
  emptyLive : W32 := 0
  emptySl   : W32 := 0
  zeroLive  : W32 := 0
  zeroSl    : W32 := 0
  emptyTot  : W32 := 0
  openPos   : W64 := 0
  /-- Admission order number and key/value area (R174, R283). -/
  order     : Nat := 0
  area      : Option Nat := none
  /-- The number by which the carved regions of its plan's stages give it a place: the lowest that no admitted stream has. -/
  place     : Nat := 0
  /-- Number of its open among all opens (R179). -/
  opened    : Nat := 0
  holdsLoad : Bool := false
  pinned    : Bool := false
  cplDest   : Option Nat := none
  audioDest : Option Nat := none
  bind      : Option Binding := none
  /-- Transaction that holds the stream (R270). -/
  held      : Option W32 := none
  ring      : Option RingOf := none
  inp       : StIn := {}
  run       : StRun := {}
  /-- By exit (0 RTP, 1 + 32 × port + slot), the slot last checked there and its samples (R323). -/
  exits     : Cells (Nat × List W32) := []
  deriving DecidableEq, Repr

/-- A voice profile (R246 to R251). `slot`: its voice-cache slot when RESIDENT; `freed`: order of its last release. -/
structure Profile where
  stored   : Bool := false
  len      : Nat := 0
  version  : W64 := 0
  slot     : Option Nat := none
  fetching : Option Nat := none
  armPins  : Nat := 0
  freed    : Nat := 0
  deriving DecidableEq, Repr

/-- States of a transaction (R274). -/
inductive TxnState where
  | pending | armed | done | aborted | cancelled | refused
  deriving DecidableEq, Repr

/-- A transaction in the pending set (R259 to R273). `pos`: its commit position, none under IMMEDIATE; `deadlines`: D
of each action; `applied`: actions that took effect or lapsed. -/
structure Txn where
  id        : W32
  actions   : List (BitVec 128)
  pos       : Option W64
  deadlines : List W64
  applied   : List Bool
  armed     : Bool := false
  lost      : Option Nat := none
  deriving DecidableEq, Repr

/-- An outcome TXN_QUERY reports (R274). -/
structure TxnOutcome where
  id    : W32
  state : TxnState
  code  : BitVec 8
  index : BitVec 6
  deriving DecidableEq, Repr

/-- The transaction unit, shared part (R263 to R275). -/
structure TxnUnit where
  nextId   : W32 := 1
  set      : List Txn := []
  outcomes : List TxnOutcome := []
  aborts   : W32 := 0
  deriving DecidableEq, Repr

/-! ## Memory and its protection -/

/-- One memory tier: data bytes, granule tags, and where the stored check bytes (by word) and page parity (by page × 128
+ offset) differ from the ones the data asks for (R298, R300, R315). Unlisted: 0. -/
structure Tier where
  bytes : List Host.Cell := []
  tags  : Cells W32 := []
  chk   : Cells Byte := []
  par   : Cells Byte := []
  /-- Bits standing flipped in the stored parity and tag words, each with its own check byte in the top bits. -/
  aux   : Cells (BitVec 72) := []
  /-- Pages whose parity is recomputed before their next decode (R305). -/
  stale : List Nat := []
  deriving DecidableEq, Repr

/-- The MEM block and the tiers (R277 to R296). -/
structure Mem where
  t0       : Tier := {}
  t1       : Tier := {}
  t2       : Tier := {}
  /-- State RAM, by tier-3 address (R91, R188). -/
  t3       : Tier := {}
  ready    : Bool := false
  fault    : Bool := false
  hbmFail  : W16 := 0
  sramDone : Bool := false
  hbmDone  : Bool := false
  ddrDone  : Bool := false
  /-- HBM4 and DDR5 have trained since reset (R432). -/
  hbmTrained : Bool := false
  ddrTrained : Bool := false
  dimms    : List Dimm := []
  used     : List Nat := []
  deriving DecidableEq, Repr

/-- Counts of one tier (R311). -/
structure ProtCounts where
  ce     : W32 := 0
  repair : W32 := 0
  ue     : W32 := 0
  poisoned : W32 := 0
  poisonReads : W32 := 0
  drop   : W32 := 0
  passes : W32 := 0
  deriving DecidableEq, Repr

/-- A memory device: repair queue, next page of Drone's walk, whole walks done (R308, R309). -/
structure MemDev where
  queue : List Nat := []
  walk  : Nat := 0
  walks : Nat := 0
  deriving DecidableEq, Repr

/-- The PROT block (R311). -/
structure Prot where
  ctrl     : BitVec 3 := 7
  status   : BitVec 3 := 0
  scrub0   : W16 := 10
  scrub1   : W16 := 60
  scrub2   : W16 := 240
  counts   : Cells ProtCounts := []
  lastAddr : W64 := 0
  lastInfo : W32 := 0
  devs     : Cells MemDev := []
  deriving DecidableEq, Repr

/-- The TAG block (R325). -/
structure TagBlk where
  status      : BitVec 3 := 0
  ingressBad  : W32 := 0
  consumerBad : W32 := 0
  exitBad     : W32 := 0
  exitZero    : W32 := 0
  lastAddr    : W64 := 0
  lastInfo    : W32 := 0
  lastSeq     : W32 := 0
  deriving DecidableEq, Repr

/-! ## Ethernet, Kryter, serial audio -/

/-- PTP engine states (R347). -/
inductive PtpState where
  | initializing | listening | uncalibrated | slave | faulty
  deriving DecidableEq, Repr

/-- A MACsec secure association: key, suite, SSCI, salt, next packet number (R345, R403). -/
structure Assoc where
  key  : BitVec 256 := 0
  xpn  : Bool := false
  ssci : W32 := 0
  salt : BitVec 96 := 0
  sci  : W64 := 0
  pn   : Nat := 0
  near : Bool := false
  deriving DecidableEq, Repr

/-- MACsec (R345, R346). `tx` by AN; `rx` by SC × 4 + AN. -/
structure Macsec where
  en       : Bool := false
  txAn     : BitVec 2 := 0
  rxEnable : BitVec 4 := 0
  window   : W32 := 0
  tx       : Cells Assoc := []
  rx       : Cells Assoc := []
  drop     : W32 := 0
  deriving DecidableEq, Repr

/-- The ETH block (R347), the destination table (R338) and the kept SESSION_OPEN replies (R335). -/
structure Eth where
  speed     : BitVec 2 := 0
  linkEn    : Bool := true
  lost      : Bool := false
  rate800   : Bool := false
  up        : Bool := false
  devAddr   : W16 := 0xFFFF
  ip4       : W32 := 0
  ip6       : BitVec 128 := 0
  stPort    : W16 := 0xB900
  lease     : W16 := 10000
  dscpPtp   : BitVec 6 := 46
  dscpSt    : BitVec 6 := 0
  ptpDomain : BitVec 8 := 0
  ptpV6     : Bool := false
  ptpProf   : BitVec 2 := 0
  ptpState  : PtpState := .initializing
  master    : Option Announce := none
  rxBad     : W32 := 0
  rxDrop    : W32 := 0
  txDrop    : W32 := 0
  macsec    : Macsec := {}
  dest      : Cells (BitVec 512) := []
  resolved  : Cells (BitVec 48) := []
  opens     : List (W32 × BitVec 128 × W16 × Nat × Msg) := []
  deriving DecidableEq, Repr

/-- Kryter link states (R356, R357). -/
inductive KlState where
  | disabled | down | training | up
  deriving DecidableEq, Repr

/-- One Kryter link (R351 to R358). -/
structure KLink where
  state    : KlState := .disabled
  reason   : BitVec 4 := 0
  leftUp   : Bool := false
  peerAddr : W16 := 0xFFFF
  peerPos  : BitVec 3 := 0
  valid    : Bool := false
  crcErr   : W32 := 0
  replays  : W32 := 0
  retrains : W32 := 0
  dataLive : W32 := 0
  data     : W32 := 0
  fseq     : BitVec 12 := 0
  acked    : BitVec 12 := 0xFFF
  ack      : BitVec 12 := 0xFFF
  ackDirty : Bool := false
  credD    : Nat := 0
  credC    : Nat := 0
  retD     : Nat := 0
  retC     : Nat := 0
  retry    : List (BitVec 12 × List Byte) := []
  oldest   : Nat := 0
  resend   : Nat := 0
  ctrlQ    : List (List Byte) := []
  /-- Records at the front of ctrlQ that hold a RING message whose RING record has been sent. -/
  ringLeft : Nat := 0
  sendQ    : List (List Byte) := []
  asm      : List Byte := []
  ringAsm  : List Byte := []
  lastLink : Nat := 0
  deriving DecidableEq, Repr

/-- Another end of an image link: the peer of a Kryter link, a device reached by Ethernet (its KL_RING_MEMBER word), or
this device itself. -/
inductive Peer where
  | kryter (k : Nat)
  | dev (w : W32)
  | here
  deriving DecidableEq, Repr

/-- A receiver of an image link (R359 to R363): its board position (8: the ring's next member or the owner), whether it
is live, the buffers it has free as the producer counts them, and the GAPs queued for it as LAP and BUFFER. -/
structure Branch where
  pos    : Nat
  live   : Bool := true
  /-- It was dropped at the tile that waits now, whose block it does not rejoin (R363). -/
  barred : Bool := false
  empty  : Nat := 0
  gapQ   : List (Nat × Nat) := []
  deriving DecidableEq, Repr

/-- A tile a stage has produced for another device: its granules' bytes and tags (R322, R353). -/
structure OutTile where
  first : Bool
  last  : Bool
  bytes : List Byte
  tags  : List W32
  deriving DecidableEq, Repr

/-- A tile message on its way to Kryter links: LINK, BUFFER, LAP, the tile, and the Kryter links it still has to start on
(R353, R360). -/
structure TileMsg where
  link   : Nat
  buffer : Nat
  lap    : Nat
  tile   : OutTile
  ports  : List Nat
  deriving DecidableEq, Repr

/-- An image link that travels between devices (R359 to R363). `tiles`: tiles produced and not yet filled into a buffer;
`msgs`: those that are; `holding`: the hold of the next buffer has started; `src`: where the last tile received on the
link came from, which its signals go back to. -/
structure KImg where
  mode     : BitVec 2 := 0
  mask     : BitVec 8 := 0
  drops    : W32 := 0
  gaps     : W32 := 0
  branches : List Branch := []
  holding  : Bool := false
  tiles    : List OutTile := []
  msgs     : List TileMsg := []
  src      : Option Peer := none
  deriving DecidableEq, Repr

/-- An open of a ring plan that waits for its ADMIT to return (R366). -/
structure RingWait where
  stream : Nat
  req    : Req
  deriving DecidableEq, Repr

/-- The LINK block (R349 to R373). -/
structure Kryter where
  en      : BitVec 7 := 0x7F
  cmdErr  : Bool := false
  pos     : BitVec 3 := 0
  links   : Cells KLink := []
  imgs    : Cells KImg := []
  ring    : Cells W32 := []
  lease   : W16 := 10000
  gaps    : W32 := 0
  mseqTx  : Cells W32 := []
  mseqRx  : Cells W32 := []
  waits   : List RingWait := []
  deriving DecidableEq, Repr

/-- Port states (R384). -/
inductive SapState where
  | stopped | armed | runin | running | runout
  deriving DecidableEq, Repr

/-- A serial audio port (R375 to R390). -/
structure Sap where
  master   : Bool := true
  tristate : Bool := false
  format   : BitVec 2 := 0
  delay    : Bool := true
  rate     : BitVec 2 := 3
  width    : BitVec 2 := 1
  slotBits : BitVec 2 := 2
  slip     : BitVec 8 := 4
  slots    : BitVec 6 := 2
  clkLost  : Bool := false
  frameErr : Bool := false
  cmdErr   : Bool := false
  state    : SapState := .stopped
  pos      : W64 := 0
  runout   : W16 := 48
  runin    : W16 := 48
  mask     : W32 := 0
  late     : Option W32 := none
  active   : W32 := 0
  underrun : W32 := 0
  overrun  : W32 := 0
  map      : Cells W32 := []
  /-- P0, P1, position of the next frame, armed by START_EXT, last SAP_START level, inside an underrun run. -/
  p0       : W64 := 0
  p1       : Option W64 := none
  next     : W64 := 0
  ext      : Bool := false
  lastPin  : Bool := false
  inUnder  : Bool := false
  /-- A host write of the mask took effect since the last frame start (R388). -/
  wrote    : Bool := false
  txnMask  : Option W64 := none
  deriving DecidableEq, Repr

/-! ## Security, Bureau, power -/

/-- LIFECYCLE (R392). -/
inductive Lifecycle where
  | provisioning | secure | zeroised
  deriving DecidableEq, Repr

/-- MODE (R392). -/
inductive SecMode where
  | selftest | operational | error
  deriving DecidableEq, Repr

/-- The security block (R392 to R411). -/
structure Sec where
  lifecycle  : Lifecycle := .provisioning
  mode       : SecMode := .selftest
  errCode    : BitVec 8 := 0
  creds      : Cells (BitVec 768) := []
  cmdErr     : Bool := false
  authFail   : Bool := false
  error      : Bool := false
  zeroised   : Bool := false
  fwSvn      : W32 := 0
  fwFloor    : W32 := 0
  imgFloor   : W32 := 0
  fwCopy     : Bool := false
  fwRevoked  : BitVec 8 := 0
  imgRevoked : BitVec 8 := 0
  markSap    : Bool := false
  markRtp    : Bool := false
  markKey    : Option (BitVec 256) := none
  /-- The block of 384 samples that an exit of a stream marks at present, and the key it began with (R408). -/
  marks      : Cells (Option (Nat × Option (BitVec 256))) := []
  profileKey : Option (BitVec 256) := none
  failTotal  : BitVec 24 := 0
  failRun    : BitVec 8 := 0
  lockout    : Bool := false
  storeCtr   : Nat := 0
  wiping     : Bool := false
  drbg       : Nat := 0
  /-- Bytes FW_WRITE changed in firmware copies A and B (flash). -/
  fwA        : Cells (Option Byte) := []
  fwB        : Cells (Option Byte) := []
  deriving DecidableEq, Repr

/-- An event on its way to Bureau (R412). -/
structure Event where
  code : W16
  p0   : W32
  p1   : W32
  p2   : W32
  p3   : W32
  /-- TL_STAT_SEQ when it happened: its statistics period (R204). -/
  period : W32 := 0
  deriving DecidableEq, Repr

/-- Bureau (R412 to R424). `ring`: 32-byte slots, erased 0xFF.. by default; `openRec`: slot, code, PARAM0, live count and
period of the open record. -/
structure Bureau where
  ring     : Cells (BitVec 256) := []
  next     : W16 := 0
  head     : Option W16 := none
  openRec  : Option (W16 × W16 × W32 × W16 × W32) := none
  queue    : List Event := []
  /-- Events of the present cycle, not yet taken (R417). -/
  arriving : List Event := []
  programming : Option Event := none
  erasing  : Option Nat := none
  /-- A sector whose erase waits for a freeze to end (R421). -/
  eraseDue : Option Nat := none
  cmdErr   : Bool := false
  lostFlag : Bool := false
  clearing : Option Nat := none
  lost     : W32 := 0
  minutes  : W32 := 0
  pwrcyc   : W32 := 0
  keptMin  : W32 := 0
  deriving DecidableEq, Repr

/-- STATE of PWR_STATUS (R433). -/
inductive PwrState where
  | boot | on | standby | shutdown
  deriving DecidableEq, Repr

/-- Why the main domain is down (R428). -/
inductive DownCause where
  | vin | rail | thermal
  deriving DecidableEq, Repr

/-- The PWR block and the supply pins (R425 to R445). -/
structure Pwr where
  state    : PwrState := .boot
  cmdErr   : Bool := false
  vinFlag  : Bool := false
  twarn    : Bool := false
  ttrip    : Bool := false
  railf    : Bool := false
  cause    : BitVec 3 := 1
  stage    : BitVec 3 := 0
  bootMs   : W16 := 0
  /-- BOOT_MS of the boot before the last reset (event 0x0A03). -/
  lastMs   : W16 := 0
  vin      : BitVec 24 := 0
  iin      : BitVec 24 := 0
  pin      : BitVec 24 := 0
  energy   : W64 := 0
  alertEn  : BitVec 5 := 0x0F
  pecErr   : Bool := false
  denied   : Bool := false
  /-- Last and highest sample of each sensor since reset (R438). -/
  temps    : Cells (Option W16) := []
  peaks    : Cells (Option W16) := []
  /-- Sockets in which the last DDR5 training found a DIMM: the sensors that exist (R443). -/
  fitted   : BitVec 8 := 0
  /-- Sensors whose warning has fired and not re-armed (R436). -/
  warned   : List Nat := []
  rails    : Nat := 6
  pwrGood  : Bool := true
  rstLow   : Bool := false
  inReset  : Bool := false
  /-- The 10 µs of the reset have passed while MOD_RST_N was low (R429). -/
  resetDue : Bool := false
  waking   : Bool := false
  standbyOn : Bool := true
  down     : Option DownCause := none
  /-- MOD_RST_N was asserted (thermal trip: with every sensor below its warning) since the shutdown (R428). -/
  cleared  : Bool := false
  thermTrip : Bool := false
  /-- A PWR_CMD RESET was accepted and its message is still being executed (R429). -/
  resetReq : Bool := false
  deriving DecidableEq, Repr

/-- RNG block (R132). -/
structure RngBlk where
  lock : Bool := false
  seed : W64 := 0
  deriving DecidableEq, Repr

/-! ## The whole machine -/

/-- The state of the block. -/
structure State where
  /-- Commands that wait, first in, first out. -/
  pending  : List Instr := []
  sessions : Cells Session := []
  readers  : Cells Reader := []
  smbOff   : W32 := 0
  tl       : Timeline := {}
  period   : Period := {}
  stats    : Stats := {}
  quant    : Quant := {}
  /-- By (stream × 65536 + program) × 65536 + record: the positions of a streaming history that a reset set to +0 (R118),
  and the last class indices of a SAMPLE record with DEST bit 0 (R252). -/
  cleared  : Cells Nat := []
  fed      : Cells (List Nat) := []
  /-- Carried state that is not resident in state RAM, by (stream × 256 + quad) × 65536 + state word: the word's 64 lanes;
  an empty list is the INIT state (R91). -/
  cells    : Cells (List W32) := []
  /-- The stream whose state a row of a stage's state RAM holds, plus 1, by stage × 4096 + row (R91). -/
  resident : Cells Nat := []
  rng      : RngBlk := {}
  image    : ImageBlk := {}
  scheds   : Cells Sched := []
  stages   : Cells Stage := []
  /-- Streams admitted and not released, in admission order, by plan (R173, R174). -/
  admitted : Cells (List Nat) := []
  orders   : Nat := 0
  bellows  : Bellows := {}
  streams  : Cells Stream := []
  queues   : Cells Queue := []
  profiles : Cells Profile := []
  profCap  : BitVec 21 := 0
  txn      : TxnUnit := {}
  mem      : Mem := {}
  prot     : Prot := {}
  tag      : TagBlk := {}
  eth      : Eth := {}
  kl       : Kryter := {}
  saps     : Cells Sap := []
  wclkEn   : Bool := true
  sec      : Sec := {}
  bureau   : Bureau := {}
  pwr      : Pwr := {}
  /-- What has left the device, oldest first (the model's own record). -/
  outbox   : List Out := []
  /-- Number of the next free value (the model's own counter). -/
  free     : Nat := 0
  deriving DecidableEq, Repr

/-- What a command answers. -/
abbrev Result := Host.Outcome State Fault Refusal

/-- The machine right after module reset (R430), its queue empty. -/
def State.reset : State := {}

end Sys2Proof.Machine
end

