-- ==== Sys2Proof/Machine/Operands.lean ====
section
/-! DEFINITION. Operand forms: bit fields, little-endian byte strings (R3) and sparse tables. -/

namespace Sys2Proof.Machine

/-- Bits [lo + w - 1 : lo] of a number. -/
def bitsOf (v lo w : Nat) : Nat := (v >>> lo) % 2 ^ w

/-- A Bool as bit n of a register value. -/
def bitAt (n : Nat) (b : Bool) : W32 := if b then (1 : W32) <<< n else 0

/-- A field value at bit lo of a register value. -/
def at_ (lo : Nat) (v : Nat) : W32 := BitVec.ofNat 32 (v <<< lo)

/-- The number a little-endian byte string spells (R3). -/
def leNat : List Byte → Nat
  | [] => 0
  | b :: t => b.toNat + 256 * leNat t

/-- The n bytes of a number, least significant first (R3). -/
def leBytes : Nat → Nat → List Byte
  | 0, _ => []
  | n + 1, v => BitVec.ofNat 8 v :: leBytes n (v / 256)

/-- The n bytes of a number, most significant first (network order). -/
def beBytes (n v : Nat) : List Byte := (leBytes n v).reverse

/-- Bytes [o, o + n) of a byte string, zeros past its end. -/
def slice (o n : Nat) (l : List Byte) : List Byte :=
  let t := (l.drop o).take n
  t ++ List.replicate (n - t.length) 0

/-- The little-endian number in bytes [o, o + n). -/
def field (l : List Byte) (o n : Nat) : Nat := leNat (slice o n l)

/-- Bytes of zeros only. -/
def allZero (l : List Byte) : Bool := l.all (· == 0)

/-- The low and high words of a 64-bit value. -/
def lo32 (v : W64) : W32 := v.setWidth 32
def hi32 (v : W64) : W32 := (v >>> 32).setWidth 32
/-- A 64-bit value from its words. -/
def join (hi lo : W32) : W64 := (hi.setWidth 64 <<< 32) ||| lo.setWidth 64

/-- The entry of a sparse table at a key, or the default. -/
def cget {α : Type} (d : α) : Cells α → Nat → α
  | [], _ => d
  | (a, v) :: t, k => if a = k then v else if k < a then d else cget d t k

/-- The table with the entry at a key set; setting the default removes it. -/
def cput {α : Type} [DecidableEq α] (d : α) (k : Nat) (v : α) : Cells α → Cells α
  | [] => if v = d then [] else [(k, v)]
  | (a, w) :: t =>
    if k < a then (if v = d then (a, w) :: t else (k, v) :: (a, w) :: t)
    else if a = k then (if v = d then t else (k, v) :: t)
    else (a, w) :: cput d k v t

/-- Apply a function to every listed entry, keeping the canonical form. -/
def cmap {α : Type} [DecidableEq α] (d : α) (f : Nat → α → α) (m : Cells α) : Cells α :=
  m.filterMap fun (k, v) => let w := f k v; if w = d then none else some (k, w)

/-- Set consecutive keys from k on. -/
def cputs {α : Type} [DecidableEq α] (d : α) (k : Nat) (vs : List α) (m : Cells α) : Cells α :=
  match vs with
  | [] => m
  | v :: t => cputs d (k + 1) t (cput d k v m)

/-- The canonical form: keys strictly rising, no entry equal to the default. -/
def Canon {α : Type} (d : α) (m : Cells α) : Prop :=
  m.Pairwise (fun a b => a.1 < b.1) ∧ ∀ e ∈ m, e.2 ≠ d

/-- The first free number below a bound that a list does not hold. -/
def lowestFree (used : Nat → Bool) : Nat → Nat → Option Nat
  | 0, _ => none
  | n + 1, k => if used k then lowestFree used n (k + 1) else some k

/-- Ceiling division. -/
def ceilDiv (a b : Nat) : Nat := (a + b - 1) / b

end Sys2Proof.Machine
end

