-- ==== Sys2Proof/Machine/Fp.lean ====
section
/-! DEFINITION. Number formats and their arithmetic (R12 to R27, R81 to R87, R124): exact values as ±m × 2^e, one rounding
(R18), the conversions, and the functions of the gate pipelines. -/

namespace Sys2Proof.Machine

/-! ## Exact values -/

/-- An exact number m × 2^e. -/
abbrev Dy := Int × Int

def Dy.add (a b : Dy) : Dy :=
  let e := min a.2 b.2
  (a.1 * 2 ^ (a.2 - e).toNat + b.1 * 2 ^ (b.2 - e).toNat, e)
def Dy.mul (a b : Dy) : Dy := (a.1 * b.1, a.2 + b.2)
def Dy.neg (a : Dy) : Dy := (-a.1, a.2)
def Dy.le (a b : Dy) : Bool := decide (0 ≤ (Dy.add b a.neg).1)
def Dy.lt (a b : Dy) : Bool := decide (0 < (Dy.add b a.neg).1)
def Dy.sum (l : List Dy) : Dy := l.foldl Dy.add (0, 0)

/-- The exact number of a finite value, 0 for the others. -/
def Fp.dy : Fp → Dy
  | .fin n m e => (if n then -(m : Int) else m, e)
  | _ => (0, 0)
def Fp.isFin : Fp → Bool
  | .fin .. => true
  | _ => false
def Fp.isNan : Fp → Bool
  | .nan => true
  | _ => false
def Fp.isZero : Fp → Bool
  | .fin _ 0 _ => true
  | _ => false
def Fp.isNeg : Fp → Bool
  | .nan => false
  | .inf n => n
  | .fin n _ _ => n

/-- m / 2^k to the nearest integer, ties to even (R18). -/
def rneShift (m k : Nat) : Nat :=
  let q := m / 2 ^ k
  let r := m % 2 ^ k
  if 2 * r < 2 ^ k then q
  else if 2 ^ k < 2 * r then q + 1
  else if k = 0 then q else q + q % 2

/-- The nearest integer, ties to even. -/
def Dy.rne (a : Dy) : Int :=
  let mag := if 0 ≤ a.2 then a.1.natAbs * 2 ^ a.2.toNat else rneShift a.1.natAbs (-a.2).toNat
  if a.1 < 0 then -(mag : Int) else mag

/-- The largest integer at or below. -/
def Dy.floor (a : Dy) : Int := if 0 ≤ a.2 then a.1 * 2 ^ a.2.toNat else a.1 / 2 ^ (-a.2).toNat

/-! ## Formats (R12 to R14) -/

/-- A floating-point layout: exponent and mantissa widths, bias, whether it has an infinity, whether subnormals are
flushed (R13), the code of its largest finite value, its canonical NaN. -/
structure Layout where
  ebits : Nat
  mbits : Nat
  bias : Nat
  hasInf : Bool
  flush : Bool
  maxCode : Nat
  nanCode : Nat

def fp32 : Layout := ⟨8, 23, 127, true, true, 0x7F7FFFFF, 0x7FC00000⟩
/-- The layout of a floating-point format code. -/
def layout? (fmt : Nat) : Option Layout :=
  match fmt with
  | 0 => some fp32
  | 1 => some ⟨8, 7, 127, true, true, 0x7F7F, 0x7FC0⟩
  | 2 => some ⟨5, 10, 15, true, false, 0x7BFF, 0x7E00⟩
  | 3 => some ⟨4, 3, 7, false, false, 0x7E, 0x7F⟩
  | 4 => some ⟨5, 2, 15, true, false, 0x7B, 0x7E⟩
  | _ => none
def fmtBits (fmt : Nat) : Nat :=
  match fmt with
  | 0 => 32 | 1 => 16 | 2 => 16 | 3 => 8 | 4 => 8 | 5 => 16 | 6 => 8 | 7 => 4 | 8 => 4 | 9 => 3 | _ => 2

/-- The value of a code, subnormals read under R13 or R14. -/
def Layout.decode (f : Layout) (code : Nat) : Fp :=
  let neg := bitsOf code (f.ebits + f.mbits) 1 == 1
  let ex := bitsOf code f.mbits f.ebits
  let man := code % 2 ^ f.mbits
  if ex = 2 ^ f.ebits - 1 && f.hasInf then (if man = 0 then .inf neg else .nan)
  else if ex = 2 ^ f.ebits - 1 && man = 2 ^ f.mbits - 1 then .nan
  else if ex = 0 then (if f.flush then .fin neg 0 0 else .fin neg man (1 - f.bias - f.mbits))
  else .fin neg (2 ^ f.mbits + man) ((ex : Int) - f.bias - f.mbits)

/-- The magnitude m × 2^e (m ≠ 0) rounded once to the layout's grid, its exponent range unbounded above, as a code; the
code of a flushed result is 0 (R13, R18). -/
def Layout.roundMag (f : Layout) (m : Nat) (e : Int) : Nat :=
  let emin : Int := 1 - f.bias
  let ex := max ((Nat.log2 m : Int) + e) emin
  let stp := ex - f.mbits
  let q := if stp ≤ e then m * 2 ^ (e - stp).toNat else rneShift m (stp - e).toNat
  let code := (ex - emin).toNat * 2 ^ f.mbits + q
  if f.flush && code < 2 ^ f.mbits then 0 else code

def Layout.sign (f : Layout) (neg : Bool) : Nat := if neg then 2 ^ (f.ebits + f.mbits) else 0

/-! ## FP32 (R81) -/

def qnan : W32 := 0x7FC00000
def fval (x : W32) : Fp := fp32.decode x.toNat
def finf (neg : Bool) : W32 := if neg then 0xFF800000 else 0x7F800000
def fzero (neg : Bool) : W32 := if neg then 0x80000000 else 0

/-- An exact number in FP32, rounded once; `negz`: the sign of an exact zero (R18, R13, R20). -/
def toF32 (a : Dy) (negz : Bool) : W32 :=
  if a.1 = 0 then fzero negz
  else
    let neg := decide (a.1 < 0)
    let code := fp32.roundMag a.1.natAbs a.2
    if fp32.maxCode < code then finf neg else fzero neg ||| BitVec.ofNat 32 code

/-- A value written in FP32 (R19, R21). -/
def Fp.f32 : Fp → W32
  | .nan => qnan
  | .inf n => finf n
  | .fin n m e => toF32 ((Fp.fin n m e).dy) n

/-- An FP32 input read under R13; NaN canonical. -/
def fread (x : W32) : W32 := (fval x).f32
def fneg (x : W32) : W32 := match fval x with | .nan => qnan | _ => fread x ^^^ 0x80000000
def fabs (x : W32) : W32 := match fval x with | .nan => qnan | _ => fread x &&& 0x7FFFFFFF
def fint (i : Int) : W32 := toF32 (i, 0) false

def fadd (x y : W32) : W32 :=
  match fval x, fval y with
  | .nan, _ => qnan
  | _, .nan => qnan
  | .inf a, .inf b => if a = b then finf a else qnan
  | .inf a, _ => finf a
  | _, .inf b => finf b
  | a, b => toF32 (Dy.add a.dy b.dy) (a.isNeg && b.isNeg)

def fsub (x y : W32) : W32 := fadd x (fneg y)

def fmul (x y : W32) : W32 :=
  match fval x, fval y with
  | .nan, _ => qnan
  | _, .nan => qnan
  | .inf a, b => if b.isZero then qnan else finf (a != b.isNeg)
  | a, .inf b => if a.isZero then qnan else finf (a.isNeg != b)
  | a, b => toF32 (Dy.mul a.dy b.dy) (a.isNeg != b.isNeg)

/-- The integer square root, one result bit a step. -/
def isqrt (m : Nat) : Nat → Nat → Nat
  | 0, r => r
  | k + 1, r => isqrt m k (if (r + 2 ^ k) * (r + 2 ^ k) ≤ m then r + 2 ^ k else r)

def fsqrt (x : W32) : W32 :=
  match fval x with
  | .nan => qnan
  | .inf n => if n then qnan else finf false
  | .fin n m e =>
    if m = 0 then fzero n
    else if n then qnan
    else
      let odd := e % 2 = 1
      let m2 := (if odd then 2 * m else m) * 2 ^ 32
      let e2 := (if odd then e - 1 else e) - 32
      let r := isqrt m2 29 0
      toF32 ((2 * r + (if r * r = m2 then 0 else 1) : Nat), e2 / 2 - 1) false

/-- Order of R81 and R115: -0 below +0. -/
def forder (x : W32) : Int :=
  let v := (fread x).toNat
  if v < 2 ^ 31 then v else -((v - 2 ^ 31 : Nat) : Int) - 1
def fmax (x y : W32) : W32 :=
  if (fval x).isNan || (fval y).isNan then qnan else if forder x < forder y then fread y else fread x
def fmin (x y : W32) : W32 :=
  if (fval x).isNan || (fval y).isNan then qnan else if forder y < forder x then fread y else fread x
/-- x < y as values; false for NaN. -/
def flt (x y : W32) : Bool :=
  match fval x, fval y with
  | .nan, _ => false
  | _, .nan => false
  | .inf a, .inf b => a && !b
  | .inf a, _ => a
  | _, .inf b => !b
  | a, b => Dy.lt a.dy b.dy

/-! ## The functions (R83 to R87, R124) -/

def log2e : W32 := 0x3FB8AA3B
def c1 : W32 := 0x3F317218
def c2 : W32 := 0x3E75FDF0
def c3 : W32 := 0x3D635847
def one : W32 := 0x3F800000
def two : W32 := 0x40000000

/-- T[i] = 2^(i/64) (R83). -/
def tTable : List W32 :=
  [0x3F800000, 0x3F8164D2, 0x3F82CD87, 0x3F843A29, 0x3F85AAC3, 0x3F871F62, 0x3F88980F, 0x3F8A14D5] ++
  [0x3F8B95C2, 0x3F8D1ADF, 0x3F8EA43A, 0x3F9031DC, 0x3F91C3D3, 0x3F935A2B, 0x3F94F4F0, 0x3F96942D] ++
  [0x3F9837F0, 0x3F99E046, 0x3F9B8D3A, 0x3F9D3EDA, 0x3F9EF532, 0x3FA0B051, 0x3FA27043, 0x3FA43516] ++
  [0x3FA5FED7, 0x3FA7CD94, 0x3FA9A15B, 0x3FAB7A3A, 0x3FAD583F, 0x3FAF3B79, 0x3FB123F6, 0x3FB311C4] ++
  [0x3FB504F3, 0x3FB6FD92, 0x3FB8FBAF, 0x3FBAFF5B, 0x3FBD08A4, 0x3FBF179A, 0x3FC12C4D, 0x3FC346CD] ++
  [0x3FC5672A, 0x3FC78D75, 0x3FC9B9BE, 0x3FCBEC15, 0x3FCE248C, 0x3FD06334, 0x3FD2A81E, 0x3FD4F35B] ++
  [0x3FD744FD, 0x3FD99D16, 0x3FDBFBB8, 0x3FDE60F5, 0x3FE0CCDF, 0x3FE33F89, 0x3FE5B907, 0x3FE8396A] ++
  [0x3FEAC0C7, 0x3FED4F30, 0x3FEFE4BA, 0x3FF28177, 0x3FF5257D, 0x3FF7D0DF, 0x3FFA83B3, 0x3FFD3E0C]

/-- num / den as an FP32 value, rounded once. -/
def ratF32 (num den : Nat) (e : Int) : W32 :=
  if num = 0 || den = 0 then 0 else
    let n := num * 2 ^ (Nat.log2 den + 32)
    let q := n / den
    toF32 ((2 * q + (if n % den = 0 then 0 else 1) : Nat), e - (Nat.log2 den + 32) - 1) false

/-- S[i] = 256 / (257 + 2i) (R83). -/
def sTable (i : Nat) : W32 := ratF32 256 (257 + 2 * i) 0

/-- Multiply by 2^q, rounded once. -/
def fldexp (x : W32) (q : Int) : W32 :=
  match fval x with
  | .fin n m e => (Fp.fin n m (e + q)).f32
  | v => v.f32

def exp2 (x : W32) : W32 :=
  match fval x with
  | .nan => qnan
  | .inf n => if n then 0 else finf false
  | v =>
    if Dy.le (128, 0) v.dy then finf false
    else if Dy.lt v.dy (-126, 0) then 0
    else
      let t := fmul x 0x42800000
      let i := (Dy.mul v.dy (64, 0)).floor
      let tj := (tTable[(i % 64).toNat]?).getD 0
      let f := fmul (fsub t (fint i)) 0x3C800000
      let p := fmul (fadd (fmul (fadd (fmul c3 f) c2) f) c1) f
      fldexp (fadd tj (fmul tj p)) (i / 64)

def recip (d : W32) : W32 :=
  match fval d with
  | .nan => qnan
  | .inf n => fzero n
  | .fin n m e =>
    if m = 0 then finf n
    else
      let ex := (Nat.log2 m : Int) + e
      let mant := d.toNat % 2 ^ 23
      let y := if mant = 0 then one else
        let mm := toF32 ((m : Int), e - ex) false
        let newton := fun y => fmul y (fsub two (fmul mm y))
        newton (newton (sTable (mant / 2 ^ 16)))
      let r := fldexp y (-ex)
      if n then fneg r else r

def fexp (x : W32) : W32 := exp2 (fmul x log2e)
def sigmoid (x : W32) : W32 := fmin (recip (fadd one (exp2 (fneg (fmul x log2e))))) one
def ftanh (x : W32) : W32 := fsub (fmul two (sigmoid (fmul two x))) one

/-- z + z × (K3 w + K5 w^2 + ... + K13 w^6), w = z × z, in the order of R87 and R124. -/
def oddSeries (z : W32) : W32 :=
  let w := fmul z z
  let h := [(0x3DBA2E8C : W32), 0x3DE38E39, 0x3E124925, 0x3E4CCCCD, 0x3EAAAAAB].foldl (fun h k => fadd (fmul h w) k) 0x3D9D89D9
  fadd z (fmul z (fmul h w))

def softplus (x : W32) : W32 :=
  let u := exp2 (fneg (fmul (fabs x) log2e))
  let z := fmul u (recip (fadd two u))
  fadd (fmax x 0) (fmul two (oddSeries z))

def fln (x : W32) : W32 :=
  match fval x with
  | .nan => qnan
  | .inf n => if n then qnan else finf false
  | .fin n m e =>
    if m = 0 then finf true
    else if n then qnan
    else
      let ex := (Nat.log2 m : Int) + e
      let q := toF32 ((m : Int), e - ex) false
      let z := fmul (fsub q one) (recip (fadd q one))
      fadd (fmul (fint ex) c1) (fmul two (oddSeries z))

/-! ## Conversions (R15, R17, R19 to R26) -/

/-- What one conversion reports to the monitors (R25). -/
inductive Report where
  | plain | clip | underflow | nonFinite
  deriving DecidableEq, Repr

/-- Levels × 128 of the bell grids, upper boundaries × 128, and the code a tie goes to (R17). -/
def bgLevels (fmt : Nat) : List Int :=
  match fmt with
  | 8 => [-128, -88, -64, -48, -36, -24, -12, 0, 10, 20, 30, 40, 54, 72, 96, 128]
  | 9 => [-128, -64, -32, 0, 24, 56, 88, 128]
  | _ => [-128, -40, 40, 128]
def bgBounds (fmt : Nat) : List (Int × Nat) :=
  match fmt with
  | 8 => [(-108, 0), (-76, 2), (-56, 2), (-42, 4), (-30, 4), (-18, 6), (-6, 6), (5, 8), (15, 8), (25, 10), (35, 10),
      (47, 12), (63, 12), (84, 14), (112, 14)]
  | 9 => [(-96, 0), (-48, 2), (-16, 2), (12, 4), (40, 4), (72, 6), (108, 6)]
  | _ => [(-84, 0), (0, 2), (84, 2)]
def bgZero (fmt : Nat) : Nat := match fmt with | 8 => 7 | 9 => 3 | _ => 2
def bgLevel (fmt code : Nat) : Int := ((bgLevels fmt)[code]?).getD 0

/-- A two's-complement field. -/
def signed (w code : Nat) : Int := if code % 2 ^ w < 2 ^ (w - 1) then (code % 2 ^ w : Nat) else ((code % 2 ^ w : Nat) : Int) - 2 ^ w
def unsigned (w : Nat) (i : Int) : Nat := (i % 2 ^ w).toNat

/-- The value of a stored code, widened exactly (R19); a bell-grid level is its level / 128. -/
def decodeFmt (fmt code : Nat) : Fp :=
  match layout? fmt with
  | some f => f.decode code
  | none =>
    let i := if 8 ≤ fmt then bgLevel fmt code else signed (fmtBits fmt) code
    .fin (decide (i < 0)) i.natAbs (if 8 ≤ fmt then -7 else 0)

/-- Conversion to a floating-point format narrower than FP32, or to FP32 (R18, R20, R21, R25). A write into FP32 reports like
the others, an infinity clip and a NaN non-finite, and egress reports the sample again under R26 (DESIGN CHOICE: R25 speaks of
narrowing conversions only; notes/assumptions/65.md). -/
def narrowFp (fmt : Nat) (x : Fp) : Nat × Report :=
  match layout? fmt with
  | none => (0, .plain)
  | some f =>
    let big := if fmt = 0 then 0x7F800000 else f.maxCode
    match x with
    | .nan => (f.nanCode, .nonFinite)
    | .inf n => (f.sign n + big, .clip)
    | .fin n m e =>
      if m = 0 then (f.sign n, .plain)
      else
        let c := f.roundMag m e
        if f.maxCode < c then (f.sign n + big, .clip)
        else (f.sign n + c, if c = 0 then .underflow else .plain)

/-- An integer saturated to w bits, with an offset added first; the report of R25 and R50. -/
def satInt (w : Nat) (nonzero : Bool) (r zp : Int) : Int × Report :=
  let v := r + zp
  if 2 ^ (w - 1) ≤ v then (2 ^ (w - 1) - 1, .clip)
  else if v < -2 ^ (w - 1) then (-2 ^ (w - 1), .clip)
  else (v, if nonzero && r == 0 then .underflow else .plain)

/-- Conversion to an integer of w bits (R23), with a zero point (R50). -/
def narrowInt (w : Nat) (zp : Int) (x : Fp) : Int × Report :=
  match x with
  | .nan => ((satInt w false 0 zp).1, .nonFinite)
  | .inf n => (if n then -2 ^ (w - 1) else 2 ^ (w - 1) - 1, .clip)
  | .fin n m e => satInt w (m != 0) (Dy.rne (Fp.fin n m e).dy) zp

/-- The comparison ladder of R24. -/
def bgSelect (a : Dy) : List (Int × Nat) → Nat → Nat
  | [], k => k
  | (b, t) :: r, k => if Dy.lt a (b, -7) then k else if Dy.le a (b, -7) then t else bgSelect a r (k + 1)

/-- Conversion to a bell grid (R24, R25). -/
def narrowBg (fmt : Nat) (x : Fp) : Nat × Report :=
  let top := (bgLevels fmt).length - 1
  match x with
  | .nan => (bgZero fmt, .nonFinite)
  | .inf n => (if n then 0 else top, .clip)
  | v =>
    if Dy.lt (1, 0) v.dy then (top, .clip)
    else if Dy.lt v.dy (-1, 0) then (0, .clip)
    else
      let c := bgSelect v.dy (bgBounds fmt) 0
      (c, if !v.isZero && bgLevel fmt c == 0 then .underflow else .plain)

/-- An FP32 PCM sample as a w-bit wire word (R26). -/
def wireWord (w : Nat) (x : W32) : Int × Report :=
  match fval x with
  | .fin n m e => narrowInt w 0 (.fin n m (e + w - 1))
  | v => narrowInt w 0 v

/-- Bytes of n packed codes (R15): BG3 in units of 12 bytes. -/
def packedBytes (fmt n : Nat) : Nat := if fmt = 9 then ceilDiv n 32 * 12 else ceilDiv (n * fmtBits fmt) 8

/-- Code j of packed bytes given as one little-endian number: elements lie one after another from bit 0 in every format,
BG3's 32 codes filling 96 bits exactly (R15). -/
def codeAt (fmt : Nat) (v j : Nat) : Nat := bitsOf v (j * fmtBits fmt) (fmtBits fmt)

/-- Codes packed into bytes (R15). -/
def packCodes (fmt : Nat) (codes : List Nat) : List Byte :=
  let b := fmtBits fmt
  leBytes (packedBytes fmt codes.length) (codes.foldr (fun c v => v * 2 ^ b + c % 2 ^ b) 0)

end Sys2Proof.Machine
end

