-- ==== Sys2Proof/Machine/Flags.lean ====
section
/-! DEFINITION. Flag and counter computations: saturating counts, write-one-to-clear flags (R4). -/

namespace Sys2Proof.Machine

/-- A saturating count plus n. -/
def satAdd {w : Nat} (v : BitVec w) (n : Nat) : BitVec w :=
  if v.toNat + n < 2 ^ w then BitVec.ofNat w (v.toNat + n) else BitVec.allOnes w

/-- A saturating count plus one. -/
def satInc {w : Nat} (v : BitVec w) : BitVec w := satAdd v 1

/-- A W1C flag after a write: bit n of the value clears it (R4). -/
def w1c (flag : Bool) (v : W32) (n : Nat) : Bool := flag && !v.getLsbD n

/-- W1C flags of a vector after a write (R4). -/
def w1cBits {w : Nat} (flags : BitVec w) (v : W32) : BitVec w := flags &&& ~~~ (v.setWidth w)

end Sys2Proof.Machine
end

