-- ==== Sys2Proof/Machine/Ops.lean ====
section
/-! DEFINITION. The operations every meaning shares: entries of the state's tables, events (R416, R417), interrupts
(R451 to R454), messages out of the port (R329, R345, R346, R472), statistics, streams' and queues' entries. -/

namespace Sys2Proof.Machine

/-! ## Entries of the state's tables -/

def State.sess (s : State) (i : Nat) : Session := cget {} s.sessions i
def State.setSess (s : State) (i : Nat) (x : Session) : State := { s with sessions := cput {} i x s.sessions }
/-- Only sessions 0 to 7 exist; the SMBus port (8) has no session state. -/
def State.modSess (s : State) (i : Nat) (f : Session → Session) : State :=
  if i < 8 then s.setSess i (f (s.sess i)) else s
def State.reader (s : State) (i : Nat) : Reader := cget {} s.readers i
def State.modReader (s : State) (i : Nat) (f : Reader → Reader) : State :=
  { s with readers := cput {} i (f (s.reader i)) s.readers }
def State.stream (s : State) (i : Nat) : Stream := cget {} s.streams i
def State.modStream (s : State) (i : Nat) (f : Stream → Stream) : State :=
  { s with streams := cput {} i (f (s.stream i)) s.streams }
/-- Queues are numbered by queue ID (R229). -/
def State.queue (s : State) (i : Nat) : Queue := cget {} s.queues i
def State.modQueue (s : State) (i : Nat) (f : Queue → Queue) : State :=
  { s with queues := cput {} i (f (s.queue i)) s.queues }
def State.profile (s : State) (i : Nat) : Profile := cget {} s.profiles i
def State.modProfile (s : State) (i : Nat) (f : Profile → Profile) : State :=
  { s with profiles := cput {} i (f (s.profile i)) s.profiles }
def State.sched (s : State) (d : Nat) : Sched := cget {} s.scheds d
def State.modSched (s : State) (d : Nat) (f : Sched → Sched) : State :=
  { s with scheds := cput {} d (f (s.sched d)) s.scheds }
def State.stage (s : State) (i : Nat) : Stage := cget {} s.stages i
def State.modStage (s : State) (i : Nat) (f : Stage → Stage) : State :=
  { s with stages := cput {} i (f (s.stage i)) s.stages }
def State.channel (s : State) (c : Nat) : Channel := cget {} s.bellows.channels c
def State.modChannel (s : State) (c : Nat) (f : Channel → Channel) : State :=
  { s with bellows := { s.bellows with channels := cput {} c (f (s.channel c)) s.bellows.channels } }
def State.linkSt (s : State) (l : Nat) : LinkSt := cget {} s.bellows.links l
def State.modLink (s : State) (l : Nat) (f : LinkSt → LinkSt) : State :=
  { s with bellows := { s.bellows with links := cput {} l (f (s.linkSt l)) s.bellows.links } }
def State.klink (s : State) (k : Nat) : KLink := cget {} s.kl.links k
def State.modKlink (s : State) (k : Nat) (f : KLink → KLink) : State :=
  { s with kl := { s.kl with links := cput {} k (f (s.klink k)) s.kl.links } }
def State.kimg (s : State) (l : Nat) : KImg := cget {} s.kl.imgs l
def State.modKimg (s : State) (l : Nat) (f : KImg → KImg) : State :=
  { s with kl := { s.kl with imgs := cput {} l (f (s.kimg l)) s.kl.imgs } }
def State.sap (s : State) (n : Nat) : Sap := cget {} s.saps n
def State.modSap (s : State) (n : Nat) (f : Sap → Sap) : State :=
  { s with saps := cput {} n (f (s.sap n)) s.saps }
def State.counts (s : State) (t : Nat) : ProtCounts := cget {} s.prot.counts t
def State.modCounts (s : State) (t : Nat) (f : ProtCounts → ProtCounts) : State :=
  { s with prot := { s.prot with counts := cput {} t (f (s.counts t)) s.prot.counts } }
def State.onPlan (s : State) (p : Nat) : List Nat := cget [] s.admitted p
def State.setOnPlan (s : State) (p : Nat) (l : List Nat) : State := { s with admitted := cput [] p l s.admitted }

/-- Live counts of STATS (R455). -/
def State.modLive (s : State) (f : StatCounts → StatCounts) : State :=
  { s with stats := { s.stats with live := f s.stats.live } }

/-- Apply an operation for each element of a list, in order. -/
def State.each {α : Type} (s : State) (l : List α) (f : State → α → State) : State := l.foldl f s

/-- A fresh free value's number (the value is Config.freeValue of it). -/
def State.takeFree (s : State) : W64 × State := (Config.freeValue s.free, { s with free := s.free + 1 })

/-- 256 bits of free values. -/
def State.freeBits (s : State) : BitVec 256 × State :=
  (Config.freeValue s.free ++ Config.freeValue (s.free + 1) ++ Config.freeValue (s.free + 2) ++ Config.freeValue (s.free + 3),
    { s with free := s.free + 4 })

/-! ## Events (R416, R417) -/

/-- An event of this cycle; Bureau takes the cycle's events when the command ends. -/
def record (code : W16) (p0 p1 p2 p3 : W32) (s : State) : State :=
  { s with bureau := { s.bureau with arriving := s.bureau.arriving ++ [⟨code, p0, p1, p2, p3, s.period.seq⟩] } }

/-! ## Interrupts (R451, R452) -/

/-- A source of R451 fires: its bit is set in every open session, and noted where newly set while enabled (R452). -/
def fire (n : Nat) (s : State) : State :=
  { s with sessions := cmap {} (fun _ x =>
      if x.isOpen && !x.int.pend.getLsbD n then
        { x with int := { x.int with
            pend := x.int.pend ||| (1 <<< n : BitVec 11)
            fresh := x.int.fresh ||| ((1 <<< n : BitVec 11) &&& x.int.enable) } }
      else x) s.sessions }

/-! ## Destination entries (R338) -/

def State.dest (s : State) (e : Nat) : BitVec 512 := cget 0 s.eth.dest e
/-- The n-byte little-endian field at byte o of a destination entry. -/
def destField (e : BitVec 512) (o n : Nat) : Nat := bitsOf e.toNat (8 * o) (8 * n)
/-- KIND: 0 unused, 1 RTP, 2 ST. -/
def destKind (e : BitVec 512) : Nat := destField e 0 1
/-- The n-byte field at byte o of an entry in network byte order. -/
def destNet (e : BitVec 512) (o n : Nat) : Nat := leNat (leBytes n (destField e o n)).reverse

/-- A multicast ADDR (R338). -/
def destMulticast (e : BitVec 512) : Bool :=
  if destField e 2 1 % 2 = 1 then destField e 24 1 == 0xFF
  else decide (0xE0 ≤ destField e 24 1) && decide (destField e 24 1 ≤ 0xEF)
/-- An entry in use whose address must be resolved, and is not (R338). -/
def State.unresolved (s : State) (entry : Nat) : Bool :=
  let e := s.dest entry
  destField e 40 6 == 0 && !destMulticast e && (s.eth.resolved.find? (·.1 = entry)).isNone

/-! ## Frames out of the Ethernet port (R329, R345, R346) -/

/-- Limit of a packet number: 2^32 - 1, or 2^64 - 1 with XPN. -/
def pnLimit (a : Assoc) : Nat := if a.xpn then 2 ^ 64 - 1 else 2 ^ 32 - 1

def State.modEth (s : State) (f : Eth → Eth) : State := { s with eth := f s.eth }
def State.modMacsec (s : State) (f : Macsec → Macsec) : State := s.modEth fun e => { e with macsec := f e.macsec }

/-- A frame that cannot be sent is discarded and counted (R329, R346). -/
def txDrop (s : State) : State := s.modEth fun e => { e with txDrop := satInc e.txDrop }

/-- Use the transmit association for one frame: its packet number rises, and 3/4 of the limit and the limit are reported
(R346). None: no key, or the limit is reached. -/
def macsecSend (s : State) : Option State :=
  if s.eth.macsec.en then
    if s.sec.mode == .error then none else
    match s.eth.macsec.tx.find? (·.1 = s.eth.macsec.txAn.toNat) with
    | none => none
    | some (an, a) =>
      if pnLimit a ≤ a.pn then none else
        let near := 3 * pnLimit a ≤ 4 * (a.pn + 1) && !a.near
        let full := pnLimit a ≤ a.pn + 1
        let used := { a with pn := a.pn + 1, near := a.near || near }
        let s := s.modMacsec fun m => { m with tx := cput {} an used m.tx }
        let s := if near then fire 5 (record 0x0605 (BitVec.ofNat 32 an) 1 0 0 s) else s
        some (if full then fire 5 (record 0x0605 (BitVec.ofNat 32 an) 2 0 0 s) else s)
  else some s

/-- Send a frame out of the Ethernet port, or discard and count it. -/
def sendOut (o : Out) (s : State) : State :=
  if s.eth.up then
    match macsecSend s with
    | some s => { s with outbox := s.outbox ++ [o] }
    | none => txDrop s
  else txDrop s

/-- What leaves by another port or pin. -/
def emit (o : Out) (s : State) : State := { s with outbox := s.outbox ++ [o] }

/-- A message the device sends to an ST destination entry (R329, R472); a packet before resolution completes is
discarded (R338). -/
def sendTo (entry : Nat) (typ : Byte) (session : Byte) (dst : W16) (arg : W64) (payload : List Byte) (s : State) : State :=
  let e := s.dest entry
  if s.unresolved entry then txDrop s
  else sendOut (.st ⟨typ, false, false, session, dst, 0, arg, payload, BitVec.ofNat 128 (destNet e 24 (if destField e 2 1 = 1 then 16 else 4)),
    BitVec.ofNat 16 (destNet e 8 2)⟩) s

/-- Send the INTERRUPT message a session is due (R452, R454). -/
def flushInt (s : State) (i : Nat) : State :=
  let x := s.sess i
  if x.int.fresh = 0 then s else
    let new := x.int.fresh
    let s := s.modSess i fun x => { x with int := { x.int with fresh := 0 } }
    if x.isOpen && x.int.destValid then
      let seq := x.int.seq + 1
      let s := s.modSess i fun x => { x with int := { x.int with seq := seq } }
      sendTo x.int.destEntry.toNat 0x42 (BitVec.ofNat 8 i) 0xFFFF (seq.setWidth 64)
        (leBytes 4 x.int.pend.toNat ++ leBytes 4 new.toNat ++ leBytes 8 s.tl.pos.toNat) s
    else s

/-- Every INTERRUPT message due at the end of a command. -/
def flushInts (s : State) : State := (List.range 8).foldl flushInt s

/-! ## Stream and queue helpers -/

/-- A stream counts as open in every state but FREE (R163, R242). -/
def Stream.isOpen (x : Stream) : Bool := x.state != .free

/-- The number of open streams (R163). -/
def State.openStreams (s : State) : Nat := (s.streams.filter (·.2.isOpen)).length

/-- The image in force. -/
def State.img (s : State) : Image := s.image.active.getD {}

/-- A plan of the active image. -/
def State.plan? (s : State) (p : Nat) : Option PlanEnt := s.img.plans.find? (·.plan = p)

/-- 48,000 / rate of a RATE code (R208). -/
def ratioOf (rate : Nat) : Nat := match rate with | 0 => 6 | 1 => 3 | 2 => 2 | _ => 1

/-- Round length T in ts (R166). -/
def PlanEnt.period (p : PlanEnt) : Nat := p.spt * ratioOf p.rate

/-- LEVEL, REPS of a STEP_KIND (R165). -/
def kindLevel (k : Nat) : Nat := k / 4096
def kindReps (k : Nat) : Nat := bitsOf k 4 8 + 1
/-- NLEVELS of a plan (R165). -/
def PlanEnt.nlevels (p : PlanEnt) : Nat := (p.kinds.map kindLevel).foldl max 0 + 1

/-- The timeline is idle: no stream open, no transaction pending, no port running (R215). -/
def State.idle (s : State) : Bool :=
  s.openStreams == 0 && s.txn.set.isEmpty &&
    s.saps.all fun (_, p) => p.state == .stopped || p.state == .armed

/-- TL of the present cycle (R206). -/
def State.pos (s : State) : Nat := s.tl.pos.toNat

/-- Queue ID of queue index q of a stream (R229). -/
def qid (stream q : Nat) : Nat := stream * 32 + q

/-- Entries (or slots) a queue holds (R256). -/
def Queue.held (q : Queue) : Nat := (q.tail - q.head).toNat
/-- A queue exists while it has storage (R229). -/
def Queue.present (q : Queue) : Bool := q.depth != 0

/-- First address of the queue pool (R281). -/
def qpoolBase : Nat := 0xBA00000000
/-- First address of a queue. -/
def Queue.base (q : Queue) : Nat := qpoolBase + 4096 * q.page

/-- A fresh reset-like session that opens (R336). -/
def freshSession (role : Bool) : Session := { isOpen := true, role := role }

end Sys2Proof.Machine
end

