-- ==== Sys2Proof/Machine/Bureau.lean ====
section
/-! DEFINITION. Bureau, the event recorder (R412 to R424), and the end of every command: its interrupts and events. -/

namespace Sys2Proof.Machine

def State.modBureau (s : State) (f : Bureau → Bureau) : State := { s with bureau := f s.bureau }

/-- An erased slot. -/
def erased : BitVec 256 := BitVec.allOnes 256

/-- The 32 bytes of a record (R412), its REPEAT count given. -/
def recordBytes (e : Event) (minutes pwrcyc : W32) (rep slot : W16) : BitVec 256 :=
  BitVec.ofNat 256 (leNat (leBytes 2 e.code.toNat ++ leBytes 4 minutes.toNat ++ leBytes 4 pwrcyc.toNat ++
    leBytes 2 rep.toNat ++ leBytes 4 e.p0.toNat ++ leBytes 4 e.p1.toNat ++ leBytes 4 e.p2.toNat ++
    leBytes 4 e.p3.toNat ++ leBytes 2 slot.toNat ++ [0x00, 0xA5]))

/-- A slot with its REPEAT count (bytes 10 to 11) replaced. -/
def withRepeat (v : BitVec 256) (n : W16) : BitVec 256 :=
  (v &&& ~~~((0xFFFF : BitVec 256) <<< 80)) ||| (n.setWidth 256 <<< 80)

/-- The codes whose chapter lays down a repeat count (R57, R78, R96, R136, R204, R258, R313, R326, R348, R374, R391,
R411, R445). -/
def repeats (c : W16) : Bool :=
  let n := c.toNat
  n / 256 == 1 || n / 256 == 5 || (0x601 ≤ n && n ≤ 0x606) || n / 256 == 7 || n / 256 == 8 ||
    [0x205, 0x302, 0x404, 0x405, 0x406, 0x903, 0xA04].contains n

/-- The event is a recurrence of the open record (R416); 0x0302 only within one statistics period (R204). -/
def recurs (e : Event) (b : Bureau) : Bool :=
  match b.openRec with
  | none => false
  | some (_, code, p0, n, per) =>
    code == e.code && p0 == e.p0 && repeats e.code && decide (n.toNat < 0xFFFE) && (e.code != 0x0302 || per == e.period)

/-- The open record closes: its count is programmed (R414, R416). -/
def closeRec (b : Bureau) : Bureau :=
  match b.openRec with
  | none => b
  | some (slot, _, _, n, _) =>
    { b with openRec := none
             ring := cput erased slot.toNat (withRepeat (cget erased b.ring slot.toNat) n) b.ring }

/-- Count a recurrence in the open record; at 0xFFFE the record closes (R416). -/
def countRec (b : Bureau) : Bureau :=
  match b.openRec with
  | none => b
  | some (slot, code, p0, n, per) =>
    let b := { b with openRec := some (slot, code, p0, n + 1, per) }
    if (n + 1).toNat = 0xFFFE then closeRec b else b

/-- Bureau may start programming or erasing: nothing in progress, no freeze, no CLEAR (R417, R421, R423). -/
def mayStart (frozen : Bool) (b : Bureau) : Bool :=
  b.programming.isNone && b.erasing.isNone && !frozen && b.clearing.isNone

/-- Take waiting work: an erase that is due, else the next queued event (R417). -/
def pump (frozen : Bool) : Nat → Bureau → Bureau
  | 0, b => b
  | fuel + 1, b =>
    if mayStart frozen b then
      match b.eraseDue with
      | some sec => { b with erasing := some sec, eraseDue := none }
      | none =>
        match b.queue with
        | [] => b
        | e :: q =>
          if recurs e b then pump frozen fuel (countRec { b with queue := q })
          else { closeRec { b with queue := q } with programming := some e }
    else b

/-- An event reaches Bureau (R416, R417). -/
def arrive (frozen : Bool) (b : Bureau) (e : Event) : Bureau :=
  if recurs e b then countRec b
  else
    let b := closeRec b
    if mayStart frozen b && b.eraseDue.isNone && b.queue.isEmpty then { b with programming := some e }
    else if b.queue.length < 256 then { b with queue := b.queue ++ [e] }
    else { b with lost := satInc b.lost, lostFlag := true }

/-- Some reader holds a freeze (R421). -/
def State.frozen (s : State) : Bool := s.readers.any (·.2.freeze)

/-- Ascending CODE, then ascending PARAM0 (R417). -/
def eventBefore (a b : Event) : Bool :=
  decide (a.code.toNat < b.code.toNat) || (a.code == b.code && decide (a.p0.toNat ≤ b.p0.toNat))

def insertEvent (e : Event) : List Event → List Event
  | [] => [e]
  | x :: t => if eventBefore x e then x :: insertEvent e t else e :: x :: t

/-- Bureau takes the events of the cycle, in the order of R417. -/
def flushEvents (s : State) : State :=
  if s.bureau.arriving.isEmpty then s else
    let es := s.bureau.arriving.foldl (fun l e => insertEvent e l) []
    s.modBureau fun b => es.foldl (arrive s.frozen) { b with arriving := [] }

/-- The largest number of streams RUNNING or DRAINING in the period so far (R455). -/
def trackPeak (s : State) : State :=
  let n := (s.streams.filter fun e => e.2.state == .running || e.2.state == .draining).length
  if s.stats.livePeak.toNat < n then { s with stats := { s.stats with livePeak := BitVec.ofNat 17 n } } else s

/-- The end of every command: the running peak, the INTERRUPT messages of the cycle, then its events. -/
def State.settle (s : State) : State := flushEvents (flushInts (trackPeak s))

/-- A command that took effect. -/
def done (s : State) : Result := .next s.settle

/-! ## Readers (R4, R431, R441) -/

/-- Which readers reach a register: sessions alone; the SMBus port too outside reset and SHUTDOWN; the SMBus port
always. -/
inductive Reach where
  | session | subset | always
  deriving DecidableEq, Repr

/-- The SMBus port reaches only the PWR and EVREC blocks now (R431, R441). -/
def State.smbLimited (s : State) : Bool := s.pwr.rstLow || s.pwr.inReset || s.pwr.state == .shutdown

def State.smbReach (s : State) : Reach → Bool
  | .session => false
  | .subset => !s.smbLimited
  | .always => true

/-- The endpoint receives: the link is up and the main domain runs (R329, R429, R433). -/
def State.receives (s : State) : Bool := s.eth.up && !s.pwr.inReset && s.pwr.state != .shutdown

/-- Reader r can make an access of that reach: an open session, through the Ethernet port (R9), or the SMBus port (8) while the
standby domain runs. -/
def State.actsAs (s : State) (w : Reach) (r : Nat) : Bool :=
  if r < 8 then (s.sess r).isOpen && s.receives else r == 8 && s.pwr.standbyOn && s.smbReach w

/-- An SMBus access outside the subset (R431, R441). -/
def denied (s : State) : State := { s with pwr := { s.pwr with denied := true } }

/-- A register access by a reader: what it does where the reader reaches the register, DENIED for the SMBus port where it
does not. -/
def byReader (w : Reach) (r : Nat) (f : State → State) (s : State) : Result :=
  if s.actsAs w r then done (f s)
  else if r = 8 && s.pwr.standbyOn then done (denied s) else .next s

/-- Waiting work starts when a freeze, a program or an erase ends. -/
def pumpAll (s : State) : State := s.modBureau (pump s.frozen 257)

/-- Program a record into the next slot, which opens it; the first slot of a sector makes the next sector's erase due
(R413, R414, R416). -/
def putRecord (e : Event) (b : Bureau) : Bureau :=
  let slot := b.next
  let b := closeRec b
  { b with
    ring := cput erased slot.toNat (recordBytes e b.minutes b.pwrcyc 0xFFFF slot) b.ring
    head := some slot
    openRec := some (slot, e.code, e.p0, 0, e.period)
    next := slot + 1
    eraseDue := if slot.toNat % 128 = 0 then some ((slot.toNat / 128 + 1) % 512) else b.eraseDue }

/-- A slot program in progress ends. -/
def endProgram (b : Bureau) : Bureau :=
  match b.programming with
  | none => b
  | some e => putRecord e { b with programming := none }

/-- A shutdown's record is programmed ahead of the queue, overriding freezes and suspending an erase (R428). -/
def recordNow (code : W16) (p0 p1 p2 p3 : W32) (s : State) : State :=
  s.modBureau fun b => putRecord ⟨code, p0, p1, p2, p3, s.period.seq⟩ (endProgram b)

/-- A sector's slots become erased. -/
def eraseSector (sec : Nat) (b : Bureau) : Bureau :=
  { b with ring := b.ring.filter fun e => e.1 / 128 != sec }

/-- The record being programmed as the standby domain loses power stands in its slot in part: some of its bits, byte 31 and
REPEAT still erased (R414). -/
def cutRecord (bits : BitVec 256) (b : Bureau) : Bureau :=
  match b.programming with
  | none => b
  | some e =>
    let part := recordBytes e b.minutes b.pwrcyc 0xFFFF b.next ||| bits ||| ((0xFF : BitVec 256) <<< 248)
    { b with programming := none, ring := cput erased b.next.toNat part b.ring }

/-- Bureau finds its ring (R415): records alone, those whose byte 31 is 0xA5 (R414), have MINUTES; the last of the slots with
the highest one is taken. -/
def findRing (b : Bureau) : Bureau :=
  match b.ring.getLast? with
  | none => { b with head := none, next := 0 }
  | some (top, _) =>
    match lowestFree (fun k => b.ring.any fun e => e.1 / 128 == k) 512 0 with
    | some sec =>
      let last := ((b.ring.filter fun e => e.1 < 128 * sec).getLast?.map (·.1)).getD top
      { b with head := some (BitVec.ofNat 16 last), next := BitVec.ofNat 16 (last + 1) }
    | none =>
      let records := b.ring.filter fun e => bitsOf e.2.toNat 248 8 = 0xA5
      let newest := records.foldl (fun m e => if bitsOf m.2.toNat 16 32 ≤ bitsOf e.2.toNat 16 32 then e else m) (top, 0)
      let sec := (newest.1 / 128 + 1) % 512
      { b with head := some (BitVec.ofNat 16 newest.1), next := BitVec.ofNat 16 (128 * sec), eraseDue := some sec }

/-- Bureau at a module reset: flash kept, a program in progress ends, registers to reset, the ring found (R415, R430). -/
def resetBureau (b : Bureau) : Bureau :=
  let b := endProgram b
  findRing { ring := b.ring, minutes := b.minutes, pwrcyc := b.pwrcyc, keptMin := b.keptMin }

/-! ## Commands -/

/-- EVREC_CTRL (R421): FREEZE set, renewed or ended for the reader. -/
def writeFreeze (r : Nat) (v : W32) (s : State) : State :=
  pumpAll (s.modReader r fun x => { x with freeze := v.getLsbD 0 })

def execEvrecCtrl (r : Nat) (v : W32) (s : State) : Result := byReader .always r (fun s => writeFreeze r v s) s

/-- A freeze lapses 10 s after its last renewal (R421). -/
def execFreezeExpiry (r : Nat) (s : State) : Result :=
  done (pumpAll (s.modReader r fun x => { x with freeze := false }))

def evrecErr (s : State) : State := s.modBureau fun b => { b with cmdErr := true }

/-- EVREC_CLEAR (R422, R423): accepted from a session with Crypto Officer rights, code 0x434C_4541, no CLEAR running. -/
def writeClear (r : Nat) (v : W32) (s : State) : State :=
  if v = 0x434C4541 && decide (r < 8) && (s.sess r).co && s.bureau.clearing.isNone then
    { (s.modBureau fun b => { closeRec (endProgram b) with clearing := some r, erasing := none, eraseDue := none }) with
      readers := cmap {} (fun _ x => { x with freeze := false }) s.readers }
  else evrecErr s

def execEvrecClear (r : Nat) (v : W32) (s : State) : Result :=
  if r = 8 && s.pwr.standbyOn then done (denied (evrecErr s)) else byReader .session r (fun s => writeClear r v s) s

/-- The ring erase of a CLEAR ends: event 0x0909 in slot 0, CLEARING ends, the queued events follow (R423). -/
def execClearEraseComplete (s : State) : Result :=
  match s.bureau.clearing with
  | none => .next s
  | some r => done (pumpAll (s.modBureau fun b =>
      putRecord ⟨0x0909, BitVec.ofNat 32 r, (b.head.getD 0).setWidth 32, b.lost, lo32 s.tl.pos, s.period.seq⟩
        { b with ring := [], next := 0, clearing := none, openRec := none }))

/-- Bureau finishes programming a slot and takes the next queued event (R414, R417). -/
def execSlotProgramComplete (s : State) : Result :=
  if s.bureau.programming.isNone then .next s
  else done (pumpAll (s.modBureau endProgram))

/-- Bureau finishes erasing a sector (R413). -/
def execSectorEraseComplete (s : State) : Result :=
  match s.bureau.erasing with
  | none => .next s
  | some sec => done (pumpAll (s.modBureau fun b => eraseSector sec { b with erasing := none }))

/-- 60 s of power: MINUTES rises by one, wrapping (R418). -/
def execMinuteTick (s : State) : Result :=
  if s.pwr.standbyOn then done (s.modBureau fun b => { b with minutes := b.minutes + 1 }) else .next s

/-- Every 16 minutes MINUTES is persisted (R419). -/
def execCounterPersist (s : State) : Result :=
  if s.pwr.standbyOn then done (s.modBureau fun b => { b with keptMin := b.minutes }) else .next s

/-- A read of EVREC_DATA0 captures the 32 bytes of the cursor's slot; the open record shows its live count, and data reads
during a CLEAR return all ones (R420, R423). -/
def readData0 (r : Nat) (s : State) : W32 × State :=
  let slot := (s.reader r).cursor
  let stored := cget erased s.bureau.ring slot.toNat
  let v := if s.bureau.clearing.isSome then erased else
    match s.bureau.openRec with
    | some (o, _, _, n, _) => if o = slot then withRepeat stored n else stored
    | none => stored
  (v.setWidth 32, s.modReader r fun x => { x with capture := v })

/-- Word n of the reader's capture (R420); all ones during a CLEAR (R423). -/
def captureWord (s : State) (r n : Nat) : W32 :=
  if s.bureau.clearing.isSome then 0xFFFFFFFF else ((s.reader r).capture >>> (32 * n)).setWidth 32

/-- A read of EVREC_DATA7 returns its captured word and advances the cursor, modulo 65,536 (R420). -/
def readData7 (r : Nat) (s : State) : W32 × State :=
  (captureWord s r 7, s.modReader r fun x => { x with cursor := x.cursor + 1 })

def execEvrecData0 (r : Nat) (s : State) : Result := byReader .always r (fun s => (readData0 r s).2) s
def execEvrecData7 (r : Nat) (s : State) : Result := byReader .always r (fun s => (readData7 r s).2) s

/-- Reads of the EVREC block (R424). -/
def readEvrec (r off : Nat) (s : State) : W32 × State :=
  let b := s.bureau
  match off with
  | 0x00 => (bitAt 0 (s.reader r).freeze, s)
  | 0x04 => (bitAt 19 b.cmdErr ||| bitAt 18 b.lostFlag ||| bitAt 17 b.clearing.isSome ||| bitAt 16 s.frozen |||
      at_ 0 b.queue.length, s)
  | 0x08 => (bitAt 31 b.head.isSome ||| bitAt 30 b.openRec.isSome ||| (b.head.getD 0).setWidth 32, s)
  | 0x0C => ((s.reader r).cursor.setWidth 32, s)
  | 0x10 => readData0 r s
  | 0x14 => (captureWord s r 1, s)
  | 0x18 => (captureWord s r 2, s)
  | 0x1C => (captureWord s r 3, s)
  | 0x20 => (captureWord s r 4, s)
  | 0x24 => (captureWord s r 5, s)
  | 0x28 => (captureWord s r 6, s)
  | 0x2C => readData7 r s
  | 0x30 => (b.lost, s)
  | 0x34 => (b.minutes, s)
  | 0x38 => (b.pwrcyc, s)
  | _ => (0, s)

/-- Writes of the EVREC block (R424). -/
def writeEvrec (r off : Nat) (v : W32) (s : State) : State :=
  match off with
  | 0x00 => writeFreeze r v s
  | 0x04 => s.modBureau fun b => { b with cmdErr := w1c b.cmdErr v 19, lostFlag := w1c b.lostFlag v 18 }
  | 0x0C => s.modReader r fun x => { x with cursor := v.setWidth 16 }
  | 0x3C => writeClear r v s
  | _ => s

end Sys2Proof.Machine
end

