-- ==== Sys2Proof/Machine/Codes.lean ====
section
/-! DEFINITION. The codes the spec gives: CRC-32C (R314), the SECDED word code (R298, R299), the page code RS(132,128)
(R300), the lane code RS(34,32) (R351). All over natural numbers, so that they evaluate. -/

namespace Sys2Proof.Machine

/-! ## CRC-32C -/

/-- One bit of the reflected CRC register. -/
def crcBit (c : Nat) : Nat := if c % 2 = 1 then (c / 2) ^^^ 0x82F63B78 else c / 2

/-- One byte. -/
def crcByte (c : Nat) (b : Byte) : Nat :=
  crcBit (crcBit (crcBit (crcBit (crcBit (crcBit (crcBit (crcBit (c ^^^ b.toNat))))))))

/-- CRC-32C over bytes (R314). -/
def crc32c (l : List Byte) : W32 := BitVec.ofNat 32 ((l.foldl crcByte 0xFFFFFFFF) ^^^ 0xFFFFFFFF)

/-- The 8-byte tag header (R314). -/
def tagHeader (stream : Nat) (noStream : Bool) (seq : Nat) : List Byte :=
  leBytes 2 (if noStream then 0xFFFF else stream) ++ [if noStream then 1 else 0, 0] ++ leBytes 4 seq

/-- The tag of a granule (R314). -/
def tagOf (stream : Nat) (noStream : Bool) (seq : Nat) (granule : List Byte) : W32 :=
  crc32c (tagHeader stream noStream seq ++ granule)

/-! ## The word code -/

/-- h(i), by data bit: the integers 3 to 71 that are no powers of two (R298). -/
def secdedCols : List Nat := (List.range 72).filter fun n => decide (n ≥ 3) && !([4, 8, 16, 32, 64].contains n)

/-- The parity of a number's low n bits. -/
def parity : Nat → Nat → Nat
  | 0, _ => 0
  | n + 1, v => (v % 2) ^^^ parity n (v / 2)

/-- The XOR of the columns of the set data bits: c0 to c6. -/
def columnSum : List Nat → Nat → Nat
  | [], _ => 0
  | h :: t, v => (if v % 2 = 1 then h else 0) ^^^ columnSum t (v / 2)

/-- The check byte of a 64-bit word (R298). -/
def checkByte (d : Nat) : Nat :=
  let c := columnSum secdedCols d
  c + 128 * (parity 64 d ^^^ parity 7 c)

/-- What R299 says of a word. -/
inductive WordOutcome where
  | clean
  | corrected (dataBit : Option Nat)
  | poison
  | uncorrectable
  deriving DecidableEq, Repr

/-- The outcome of a word whose stored check byte differs from the one its stored data asks for in the bits `diff`: the
syndrome is diff[6:0], the parity of all 72 stored bits is the parity of diff (R299). -/
def outcomeOf (diff : Nat) : WordOutcome :=
  let s := diff % 128
  let p := parity 8 diff
  if s = 0 then (if p = 0 then .clean else .corrected none)
  else if p = 1 then
    if [1, 2, 4, 8, 16, 32, 64].contains s then .corrected none
    else match secdedCols.idxOf? s with
      | some i => .corrected (some i)
      | none => .uncorrectable
  else if s = 0x7F then .poison else .uncorrectable

/-- The outcome delivers data. -/
def WordOutcome.ok : WordOutcome → Bool
  | .clean | .corrected _ => true
  | _ => false

/-! ## The page code -/

/-- Multiply by α in GF(2^8), polynomial 0x11D. -/
def gfX (a : Nat) : Nat := if 128 ≤ a then ((2 * a) ^^^ 0x11D) % 256 else 2 * a

/-- Multiply in GF(2^8). -/
def gfMulAux : Nat → Nat → Nat → Nat
  | 0, _, _ => 0
  | n + 1, a, b => (if b % 2 = 1 then a else 0) ^^^ gfMulAux n (gfX a) (b / 2)
def gfMul (a b : Nat) : Nat := gfMulAux 8 a b

/-- Power and inverse in GF(2^8). -/
def gfPow (a : Nat) : Nat → Nat
  | 0 => 1
  | n + 1 => gfMul a (gfPow a n)
def gfInv (a : Nat) : Nat := gfPow a 254

/-- x^n modulo g(x) = x^4 + 0F x^3 + 36 x^2 + 78 x + 40, as the coefficients of x^3, x^2, x, 1 (R300). -/
def rsPow : Nat → Nat × Nat × Nat × Nat
  | 0 => (0, 0, 0, 1)
  | n + 1 =>
    let (a, b, c, d) := rsPow n
    (b ^^^ gfMul a 0x0F, c ^^^ gfMul a 0x36, d ^^^ gfMul a 0x78, gfMul a 0x40)

/-- What a symbol value v at data index j adds to the four parity bytes of its codeword. -/
def rsParityOf (j v : Nat) : List Nat :=
  let (a, b, c, d) := rsPow (131 - j)
  [gfMul v a, gfMul v b, gfMul v c, gfMul v d]

/-- A symbol to correct: data index j (or parity k) and the value to add. -/
inductive Fix where
  | data (j v : Nat)
  | par (k v : Nat)
  deriving DecidableEq, Repr

def fixAt (power v : Nat) : Fix := if power < 4 then .par (3 - power) v else .data (131 - power) v

/-- Correct at most two symbols of a codeword whose stored parity differs from what its stored data asks for by the four
values d: the syndromes are those of the difference (R300). None: the codeword failed. -/
def rsDecode (d : List Nat) : Option (List Fix) :=
  match d with
  | [p0, p1, p2, p3] =>
    let syn (m : Nat) : Nat :=
      let x := gfPow 2 m
      gfMul (gfMul (gfMul p0 x ^^^ p1) x ^^^ p2) x ^^^ p3
    let s0 := syn 0; let s1 := syn 1; let s2 := syn 2; let s3 := syn 3
    if s0 = 0 && s1 = 0 && s2 = 0 && s3 = 0 then some []
    else
      let det := gfMul s0 s2 ^^^ gfMul s1 s1
      if det = 0 then
        if s0 = 0 then none else
          match (List.range 132).find? fun p => gfPow 2 p = gfMul s1 (gfInv s0) with
          | some p =>
            let x := gfPow 2 p
            if gfMul s1 x = s2 && gfMul s2 x = s3 then some [fixAt p s0] else none
          | none => none
      else
        let q1 := gfMul (gfMul s0 s3 ^^^ gfMul s1 s2) (gfInv det)
        let q2 := gfMul (gfMul s1 s3 ^^^ gfMul s2 s2) (gfInv det)
        match (List.range 132).filter fun p =>
            let x := gfPow 2 p
            gfMul x x ^^^ gfMul q1 x ^^^ q2 = 0 with
        | [pa, pb] =>
          let xa := gfPow 2 pa; let xb := gfPow 2 pb
          let ea := gfMul (s1 ^^^ gfMul s0 xb) (gfInv (xa ^^^ xb))
          some [fixAt pa ea, fixAt pb (s0 ^^^ ea)]
        | _ => none
  | _ => none

/-! ## The lane code (R351) -/

/-- The 2 check bytes of a lane's bytes: the remainder of b0 x^33 + … + b31 x^2 modulo g(x) = (x − α^0)(x − α^1), x^1 first. -/
def laneCheck (b : List Byte) : Nat × Nat :=
  b.foldl (fun p d => let f := d.toNat ^^^ p.1; (p.2 ^^^ gfMul f 3, gfMul f 2)) (0, 0)

/-- A lane frame with at most one byte wrong gives its 32 bytes; none: the code cannot correct it. -/
def laneDecode (b : List Byte) (c0 c1 : Nat) : Option (List Byte) :=
  let (e0, e1) := laneCheck b
  let d0 := e0 ^^^ c0; let d1 := e1 ^^^ c1
  let s0 := d0 ^^^ d1
  let s1 := gfX d0 ^^^ d1
  if s0 = 0 && s1 = 0 then some b
  else if s0 = 0 || s1 = 0 then none
  else ((List.range 34).find? fun p => gfMul s0 (gfPow 2 p) = s1).map fun p =>
    if p < 2 then b else b.modify (33 - p) (· ^^^ BitVec.ofNat 8 s0)

/-- The check bytes of a flit's eight lanes, lane 0's first. -/
def laneChecks (flit : List Byte) : List Byte :=
  (List.range 8).flatMap fun i =>
    let (c0, c1) := laneCheck (slice (32 * i) 32 flit)
    [BitVec.ofNat 8 c0, BitVec.ofNat 8 c1]

/-- A flit as its lane frames give it; none: it fails. -/
def flitOfLanes (bytes checks : List Byte) : Option (List Byte) :=
  if bytes.length ≠ 256 || checks.length ≠ 16 then none
  else ((List.range 8).mapM fun i => laneDecode (slice (32 * i) 32 bytes) (field checks (2 * i) 1) (field checks (2 * i + 1) 1)).map
    List.flatten

end Sys2Proof.Machine
end

