-- ==== Sys2Proof/Machine/Memory.lean ====
section
/-! DEFINITION. The memory tiers: addresses (R277 to R288), the protection of stored data (R298 to R313), block tags
(R314 to R326), training and fill (R291 to R294), Drone. -/

namespace Sys2Proof.Machine

/-! ## Tiers and addresses -/

def State.tier (s : State) : Nat → Tier
  | 0 => s.mem.t0
  | 1 => s.mem.t1
  | 2 => s.mem.t2
  | _ => s.mem.t3
def State.modMem (s : State) (f : Mem → Mem) : State := { s with mem := f s.mem }
def State.setTier (s : State) (t : Nat) (x : Tier) : State :=
  s.modMem fun m => match t with
    | 0 => { m with t0 := x }
    | 1 => { m with t1 := x }
    | 2 => { m with t2 := x }
    | _ => { m with t3 := x }

/-- Capacity of a DIMM size code in bytes: 32, 64, 128, 256 GB (R295). -/
def dimmBytes (size : Nat) : Nat := if size = 0 then 0 else 2 ^ (34 + size)
/-- The DDR5 capacity in use in bytes (R292). -/
def State.ddrCap (s : State) : Nat :=
  s.mem.used.foldl (fun n i => n + dimmBytes ((s.mem.dimms[i]?.map (·.size.toNat)).getD 0)) 0
/-- Capacity in use in GB as labelled (R295). -/
def State.ddrGb (s : State) : Nat := s.ddrCap / 2 ^ 30
/-- Profile store length S = min(256 GiB, C / 2) (R284). -/
def State.storeLen (s : State) : Nat := min (2 ^ 38) (s.ddrCap / 2)
/-- First tier-2 host-region address (R284). -/
def State.ddrHostBase (s : State) : Nat := if s.mem.used.isEmpty then 0 else 0x10000000 + s.storeLen
/-- Bytes of the staging region: 256 MiB, or 0 with no DIMM in use (R284). -/
def State.stageSize (s : State) : Nat := if s.mem.used.isEmpty then 0 else 0x10000000

/-- First address past a tier's map (R278 to R281). -/
def State.tierTop (s : State) : Nat → Nat
  | 0 => 0x300000000
  | 1 => 0xC000000000
  | 2 => s.ddrCap
  | _ => 0x1200000

def kvTop : Nat := 0xB680000000
/-- Area of one stream in a plan's part of the key/value pool (R282). -/
def PlanEnt.area (p : PlanEnt) : Nat := ceilDiv (ceilDiv p.maxContext p.seqGroup * p.kvBytes) 4096 * 4096
/-- Length of the key/value pool of the active image (R282). -/
def kvLen (plans : List PlanEnt) : Nat := plans.foldl (fun n p => n + p.maxStreams * p.area) 0
def State.kvBase (s : State) : Nat := if s.image.active.isSome then kvTop - kvLen s.img.plans else 0
/-- Where a plan's part begins: parts stand in ascending PLAN order from the pool's base (R282). -/
def State.partBase (s : State) (plan : Nat) : Nat :=
  kvTop - kvLen s.img.plans + kvLen (s.img.plans.filter fun p => p.plan < plan)

/-- The memory device that holds an address: die, stack, or DIMM socket (R278 to R280). -/
def State.device (s : State) (tier addr : Nat) : Nat :=
  match tier with
  | 0 => addr / 0xC0000000
  | 1 => addr / 4096 % 16
  | _ => (s.mem.used[addr / 4096 % s.mem.used.length]?).getD 0
/-- Pages of one device (R309). -/
def State.devicePages (s : State) : Nat → Nat
  | 0 => 786432
  | 1 => 12582912
  | _ => s.ddrCap / 4096 / s.mem.used.length
/-- Address of page p of a device. -/
def State.devicePage (s : State) (tier dev p : Nat) : Nat :=
  match tier with
  | 0 => dev * 0xC0000000 + p * 4096
  | 1 => (p * 16 + dev) * 4096
  | _ => (p * s.mem.used.length + (s.mem.used.idxOf dev)) * 4096
def devKey (tier dev : Nat) : Nat := tier * 32 + dev
def State.dev (s : State) (k : Nat) : MemDev := cget {} s.prot.devs k
def State.modDev (s : State) (k : Nat) (f : MemDev → MemDev) : State :=
  { s with prot := { s.prot with devs := cput {} k (f (s.dev k)) s.prot.devs } }

/-! ## Bytes, words and their codes -/

/-- A stored byte; what nothing has written reads 0, the power-on fill (R294). -/
def Tier.byte (t : Tier) (a : Nat) : Byte := cget 0 t.bytes a
/-- n stored bytes from a. -/
def Tier.read (t : Tier) (a : Nat) : Nat → List Byte
  | 0 => []
  | n + 1 => t.byte a :: t.read (a + 1) n
/-- The stored 64-bit word of index w. -/
def Tier.word (t : Tier) (w : Nat) : Nat := leNat (t.read (8 * w) 8)
/-- Where the stored check byte of word w differs from the one its data asks for. -/
def Tier.chkDiff (t : Tier) (w : Nat) : Nat := (cget 0 t.chk w).toNat
def Tier.outcome (t : Tier) (w : Nat) : WordOutcome := outcomeOf (t.chkDiff w)

/-- What is left wrong of a parity or tag word once its own SECDED has decoded it; a word it finds uncorrectable is taken as
stored (R299; notes/assumptions/17.md). -/
def auxResidue (e : BitVec 72) : Nat :=
  let d := e.toNat % 2 ^ 64
  match outcomeOf ((checkByte d) ^^^ (e.toNat / 2 ^ 64)) with
  | .corrected (some i) => d ^^^ 2 ^ i
  | _ => d

/-- Where the errors of the tag word of a granule stand: past every parity word (16 of a page), two granules to a word. -/
def tagAux (granule : Nat) : Nat := 2 ^ 40 + granule / 2

/-- A byte of stored page parity as its decode delivers it, as a difference from the parity the data asks for. -/
def Tier.parByte (t : Tier) (key : Nat) : Nat :=
  (cget 0 t.par key).toNat ^^^ (auxResidue (cget 0 t.aux (key / 8)) / 256 ^ (key % 8) % 256)

/-- The parity words of a page as they are decoded stand for the parity. -/
def Tier.settleAux (t : Tier) (page : Nat) : Tier :=
  if t.aux.any fun e => e.1 / 16 == page then
    { t with
      par := (List.range 128).foldl (fun m i => cput 0 (page * 128 + i) (BitVec.ofNat 8 (t.parByte (page * 128 + i))) m) t.par
      aux := t.aux.filter fun e => e.1 / 16 != page }
  else t

/-- Add a value to a stored parity byte's difference. -/
def Tier.addPar (t : Tier) (page i k v : Nat) : Tier :=
  let key := page * 128 + 4 * i + k
  { t with par := cput 0 key (cget 0 t.par key ^^^ BitVec.ofNat 8 v) t.par }

/-- The difference of page parity changes as data byte a changes by v while the stored parity stands. -/
def Tier.shiftPar (t : Tier) (a v : Nat) : Tier :=
  if v = 0 then t else
    let page := a / 4096; let b := a % 4096; let i := b % 32
    match rsParityOf (b / 32) v with
    | [x0, x1, x2, x3] => (((t.addPar page i 0 x0).addPar page i 1 x1).addPar page i 2 x2).addPar page i 3 x3
    | _ => t

/-- Flip the bits v of data byte a while its check byte and the page parity stand. -/
def Tier.flip (t : Tier) (a v : Nat) : Tier :=
  if v = 0 then t else
    let w := a / 8
    let t := { t with chk := cput 0 w (cget 0 t.chk w ^^^ BitVec.ofNat 8 (checkByte (v <<< (8 * (a % 8))))) t.chk }
    let t := t.shiftPar a v
    { t with bytes := cput 0 a (t.byte a ^^^ BitVec.ofNat 8 v) t.bytes }

/-- Flip bits of a parity or tag word as stored: byte `b` of 9, the last its check byte. -/
def Tier.flipAux (t : Tier) (w b : Nat) (mask : Byte) : Tier :=
  { t with aux := cput 0 w (cget 0 t.aux w ^^^ (mask.setWidth 72 <<< (8 * b))) t.aux }

/-- A physical upset. -/
def Tier.upset (t : Tier) (u : Upset) : Tier :=
  match u.site with
  | 0 => t.flip u.addr u.mask.toNat
  | 1 => { t with chk := cput 0 u.addr (cget 0 t.chk u.addr ^^^ u.mask) t.chk }
  | 2 => t.flipAux (u.addr / 8) (u.addr % 8) u.mask
  | 3 => t.flipAux u.addr 8 u.mask
  | 4 => t.flipAux (tagAux (u.addr / 4)) (u.addr % 8) u.mask
  | _ => t.flipAux (tagAux (2 * u.addr)) 8 u.mask

/-- The upsets that fell before a command read memory. -/
def applyUpsets (ups : List Upset) (s : State) : State :=
  s.each ups fun s u => if u.tier < 4 then s.setTier u.tier ((s.tier u.tier).upset u) else s

/-- The word as R299 delivers it (stored, where it delivers nothing). -/
def Tier.decoded (t : Tier) (w : Nat) : Nat :=
  match t.outcome w with
  | .corrected (some i) => t.word w ^^^ 2 ^ i
  | _ => t.word w

/-- Store a word with a valid check byte, the parity following R304: what changes the difference is only the correction
the decoder made in the old word. -/
def Tier.putWord (t : Tier) (w v : Nat) : Tier :=
  let t := match t.outcome w with
    | .corrected (some i) => t.shiftPar (8 * w + i / 8) (2 ^ (i % 8))
    | _ => t
  { t with bytes := cputs 0 (8 * w) (leBytes 8 v) t.bytes, chk := cput 0 w 0 t.chk }

/-- Store a word as poison (R306). -/
def Tier.poisonWord (t : Tier) (w v : Nat) : Tier :=
  { t with bytes := cputs 0 (8 * w) (leBytes 8 v) t.bytes, chk := cput 0 w 0xFF t.chk }

def Tier.markStale (t : Tier) (page : Nat) : Tier :=
  if t.stale.contains page then t else { t with stale := page :: t.stale }

/-- Write bytes over part or all of word w (R304, R305). The list gains w where the word is poisoned by the write. -/
def Tier.mergeWord (t : Tier) (w off : Nat) (bs : List Byte) (poisoned : List Nat) : Tier × List Nat :=
  let old := leBytes 8 (t.decoded w)
  let new := leNat (old.take off ++ bs ++ old.drop (off + bs.length))
  let whole := bs.length = 8
  match t.outcome w with
  | .uncorrectable =>
    let t := t.markStale (w / 512)
    if whole then (t.putWord w new, poisoned) else (t.poisonWord w new, poisoned ++ [w])
  | .poison => if whole then (t.putWord w new, poisoned) else (t.poisonWord w new, poisoned)
  | _ => (t.putWord w new, poisoned)

/-- Write bytes word by word. -/
def Tier.writeAux : Nat → Tier → Nat → List Byte → List Nat → Tier × List Nat
  | 0, t, _, _, p => (t, p)
  | fuel + 1, t, a, bs, p =>
    match bs with
    | [] => (t, p)
    | _ =>
      let off := a % 8
      let n := 8 - off
      let (t, p) := t.mergeWord (a / 8) off (bs.take n) p
      Tier.writeAux fuel t (a + n) (bs.drop n) p

/-- Write bytes at an address. With no deviation stored anywhere, it is the plain write. -/
def Tier.write (t : Tier) (a : Nat) (bs : List Byte) : Tier × List Nat :=
  if t.chk.isEmpty then ({ t with bytes := cputs 0 a bs t.bytes }, [])
  else Tier.writeAux (bs.length + 1) t a bs []

/-! ## Protection status (R302, R306, R311 to R313) -/

def addrHi (tier addr : Nat) : W32 := at_ 30 tier ||| BitVec.ofNat 32 (addr / 2 ^ 32 % 2 ^ 16)
/-- TIER in [63:62] and the 48-bit address: a register pair of the form of R311. -/
def tierAddr (tier addr : Nat) : W64 := BitVec.ofNat 64 (tier * 2 ^ 62 + addr % 2 ^ 48)

/-- Set bits of PROT_STATUS; each setting of UE or POISON raises the memory-error interrupt (R312). -/
def protSet (bits : BitVec 3) (s : State) : State :=
  let s := { s with prot := { s.prot with status := s.prot.status ||| bits } }
  if bits &&& 5 = 0 then s else fire 3 s

/-- Words of a page were poisoned: count, flag, event 0x0406 (R306, R313). -/
def reportPoison (tier page : Nat) (words : List Nat) (s : State) : State :=
  match words with
  | [] => s
  | w :: _ =>
    let s := s.modCounts tier fun c => { c with poisoned := satAdd c.poisoned words.length }
    record 0x0406 (BitVec.ofNat 32 (page * 4096)) (addrHi tier (page * 4096)) (BitVec.ofNat 32 words.length)
      (BitVec.ofNat 32 (w % 512)) (protSet 4 s)

/-- The words that bytes [a, a + n) touch. -/
def wordsOf (a n : Nat) : List Nat := if n = 0 then [] else (List.range ((a + n - 1) / 8 - a / 8 + 1)).map (· + a / 8)

/-- Count the words of a decode that R299 corrected (R311). -/
def countCe (tier : Nat) (ws : List Nat) (s : State) : State :=
  let t := s.tier tier
  if t.chk.isEmpty then s else
    let n := (ws.filter fun w => match t.outcome w with | .corrected _ => true | _ => false).length
    s.modCounts tier fun c => { c with ce := satAdd c.ce n }

/-- Write bytes in a tier, reporting the old words it corrected and what the write poisoned (R304, R305). -/
def writeMem (tier a : Nat) (bs : List Byte) (s : State) : State :=
  let s := countCe tier (wordsOf a bs.length) s
  let (t, p) := (s.tier tier).write a bs
  let s := s.setTier tier t
  s.each p fun s w => reportPoison tier (w / 512) [w] s

/-- Queue a page for repair on its device (R308); state RAM has no page code. -/
def queueRepair (tier page : Nat) (s : State) : State :=
  if tier = 3 then s else
  let k := devKey tier (s.device tier (page * 4096))
  let d := s.dev k
  if d.queue.contains page then s
  else if d.queue.length < 64 then s.modDev k fun d => { d with queue := d.queue ++ [page] }
  else s.modCounts tier fun c => { c with drop := satInc c.drop }

/-- An uncorrectable read: its count, PROT_LAST_UE, event 0x0404 (R302, R303, R313). -/
def reportUe (tier w : Nat) (poison : Bool) (path cls stream : Nat) (s : State) : State :=
  let info : W32 := at_ 16 stream ||| bitAt 8 poison ||| at_ 4 path ||| at_ 0 cls
  let s := s.modCounts tier fun c => { c with ue := satInc c.ue }
  let s := { s with prot := { s.prot with lastAddr := tierAddr tier (8 * w), lastInfo := info } }
  record 0x0404 (BitVec.ofNat 32 (8 * w)) (addrHi tier (8 * w)) info (lo32 s.tl.pos) (protSet 1 s)

/-- Bytes as R299 delivers them, corrections applied and not written back. -/
def Tier.deliver (t : Tier) (a n : Nat) : List Byte :=
  if t.chk.isEmpty then t.read a n
  else slice (a % 8) n ((wordsOf a n).flatMap fun w => leBytes 8 (t.decoded w))

/-- A read that meets a poisoned word is counted (R306). -/
def countPoison (tier : Nat) (ws : List Nat) (s : State) : State :=
  if ws.any fun w => (s.tier tier).outcome w == .poison then
    s.modCounts tier fun c => { c with poisonReads := satInc c.poisonReads }
  else s

/-- A fixed-path read (R301): the bytes, or none where a word is uncorrectable or poison; then the read is reported and
the page queued for repair. `cls`: the reader class of R302. -/
def readFixed (cls stream tier a n : Nat) (s : State) : Option (List Byte) × State :=
  let t := s.tier tier
  let ws := wordsOf a n
  let s := countPoison tier ws (countCe tier ws s)
  match ws.find? fun w => !(t.outcome w).ok with
  | none => (some (t.deliver a n), s)
  | some w => (none, queueRepair tier (w / 512) (reportUe tier w (t.outcome w == .poison) 0 cls stream s))

/-! ## Page repair (R305, R307) -/

/-- Parity recomputed over the page as it stands: no difference is left. -/
def Tier.freshPar (t : Tier) (page : Nat) : Tier := { t with par := t.par.filter fun e => e.1 / 128 != page }

def pageWords (page : Nat) : List Nat := (List.range 512).map (· + 512 * page)

/-- Poison the words of a list as they stand. -/
def Tier.poisonAll (t : Tier) (ws : List Nat) : Tier := ws.foldl (fun t w => t.poisonWord w (t.word w)) t

/-- Before a stale page is decoded its other uncorrectable words are poisoned and its parity recomputed (R305). -/
def Tier.settle (t : Tier) (page : Nat) : Tier × List Nat :=
  if t.stale.contains page then
    let bad := (pageWords page).filter fun w => t.outcome w == .uncorrectable
    ({ ((t.poisonAll bad).freshPar page) with stale := t.stale.filter (· != page) }, bad)
  else (t, [])

/-- Apply the corrections of every codeword that decodes; the count of corrected symbols. -/
def Tier.fixPage (t : Tier) (page : Nat) : Tier × Nat :=
  (List.range 32).foldl (fun (acc : Tier × Nat) i =>
    let t := acc.1
    let d := (List.range 4).map fun k => (cget 0 t.par (page * 128 + 4 * i + k)).toNat
    match rsDecode d with
    | none => acc
    | some fixes =>
      (fixes.foldl (fun t f => match f with
        | .data j v => t.flip (4096 * page + 32 * j + i) v
        | .par k v => t.addPar page i k v) t, acc.2 + fixes.length)) (t.settleAux page, 0)

/-- What a page repair did: symbols corrected, words R299 corrected, words written back, words poisoned. -/
structure Repaired where
  symbols : Nat
  ce : Nat
  back : Nat
  bad : List Nat

/-- Repair a page (R307). A word that passes is stored with a valid check byte; a word that still fails, one that was poison
before too, is poisoned and the parity recomputed. -/
def Tier.repair (t0 : Tier) (page : Nat) : Tier × Repaired :=
  let (t1, n) := t0.fixPage page
  let ws := pageWords page
  let bad := ws.filter fun w => !(t1.outcome w).ok
  let fixed := ws.filter fun w => match t1.outcome w with | .corrected _ => true | _ => false
  let t2 := fixed.foldl (fun t w => t.putWord w (t.decoded w)) t1
  let back := (ws.filter fun w => !bad.contains w && (t0.word w != t2.word w || t0.chkDiff w != t2.chkDiff w)).length
  (if bad.isEmpty then t2 else (t2.poisonAll bad).freshPar page, ⟨n, fixed.length, back, bad⟩)

/-- Repair a page and report it: events 0x0405, unless only words were poisoned, and 0x0406; counts and flags (R307, R311,
R313). -/
def repairPage (tier page : Nat) (s : State) : State :=
  let (t, early) := (s.tier tier).settle page
  let (t, r) := t.repair page
  let s := reportPoison tier page early (s.setTier tier t)
  let s := s.modCounts tier fun c => { c with ce := satAdd c.ce r.ce, repair := satInc c.repair }
  let s := protSet 2 s
  let s :=
    if r.bad.isEmpty || r.symbols != 0 then
      record 0x0405 (BitVec.ofNat 32 (page * 4096)) (addrHi tier (page * 4096)) (BitVec.ofNat 32 r.symbols)
        (BitVec.ofNat 32 r.back) s
    else s
  reportPoison tier page r.bad s

/-- A full-path read (R303): uncorrectable words start a page repair first; poison or a word that stays uncorrectable
fails the read. `path`: 1 host read, 2 ACTIVATE. -/
def readFull (path tier a n : Nat) (s : State) : Option (List Byte) × State :=
  let ws := wordsOf a n
  let s := countCe tier ws s
  let t := s.tier tier
  let bad := (ws.filter fun w => t.outcome w == .uncorrectable).map (· / 512)
  let s := countPoison tier ws (s.each bad.eraseDups fun s p => repairPage tier p s)
  let t := s.tier tier
  match ws.find? fun w => !(t.outcome w).ok with
  | none => (some (t.deliver a n), s)
  | some w => (none, reportUe tier w (t.outcome w == .poison) path 0 0xFFFF s)

/-! ## Tags (R314 to R319) -/

/-- The stored tag of a granule as its word's own SECDED delivers it. -/
def Tier.tag (t : Tier) (granule : Nat) : W32 :=
  cget 0 t.tags granule ^^^ BitVec.ofNat 32 (auxResidue (cget 0 t.aux (tagAux granule)) / 2 ^ (32 * (granule % 2)) % 2 ^ 32)
/-- Store a granule's tag: the other half of its word keeps what the decode of the old word delivers. -/
def Tier.setTag (t : Tier) (granule : Nat) (v : W32) : Tier :=
  let other := granule / 2 * 2 + (1 - granule % 2)
  if cget 0 t.aux (tagAux granule) = 0 then { t with tags := cput 0 granule v t.tags }
  else { t with tags := cput 0 granule v (cput 0 other (t.tag other) t.tags), aux := cput 0 (tagAux granule) 0 t.aux }
def setTag (tier granule : Nat) (v : W32) (s : State) : State := s.setTier tier ((s.tier tier).setTag granule v)

/-- Make the tag of a granule as it stands, under a header (R317). -/
def makeTag (tier granule stream : Nat) (noStream : Bool) (seq : Nat) (s : State) : State :=
  setTag tier granule (tagOf stream noStream seq ((s.tier tier).deliver (512 * granule) 512)) s

/-- Granules that bytes [a, a + n) touch. -/
def granulesOf (a n : Nat) : List Nat :=
  if n = 0 then [] else (List.range ((a + n - 1) / 512 - a / 512 + 1)).map (· + a / 512)

/-- Write bytes and make the tag of each granule touched, the header by granule number. -/
def writeTagged (tier a : Nat) (bs : List Byte) (stream : Nat) (noStream : Bool) (seqOf : Nat → Nat) (s : State) : State :=
  (writeMem tier a bs s).each (granulesOf a bs.length) fun s g => makeTag tier g stream noStream (seqOf g) s

/-- A granule's check against an expected header (R315): the read, and whether the tag matches. An uncorrectable read
fails the check. -/
def checkGranule (cls tier granule stream : Nat) (noStream : Bool) (seq : Nat) (s : State) : Option (List Byte) × State :=
  let (b, s) := readFixed cls (if noStream then 0xFFFF else stream) tier (512 * granule) 512 s
  match b with
  | none => (none, s)
  | some bs => (if tagOf stream noStream seq bs = (s.tier tier).tag granule then some bs else none, s)

/-- Set bits of TAG_STATUS; each setting of CONSUMER or EXIT raises the tag interrupt (R326). -/
def tagSet (bits : BitVec 3) (s : State) : State :=
  let s := { s with tag := { s.tag with status := s.tag.status ||| bits } }
  if bits &&& 6 = 0 then s else fire 4 s

def latchTag (tier granule stream : Nat) (noStream : Bool) (seq checker : Nat) (s : State) : State :=
  { s with tag := { s.tag with
      lastAddr := tierAddr tier (512 * granule)
      lastInfo := at_ 16 (if noStream then 0xFFFF else stream) ||| bitAt 4 noStream ||| at_ 0 checker
      lastSeq := BitVec.ofNat 32 seq } }

/-- A consumer check failed: count, latch, event 0x0501 (R320, R321). -/
def tagConsumerFail (tier granule stream : Nat) (noStream : Bool) (seq checker : Nat) (s : State) : State :=
  let s := latchTag tier granule stream noStream seq checker s
  let s := { s with tag := { s.tag with consumerBad := satInc s.tag.consumerBad } }
  record 0x0501 (BitVec.ofNat 32 (512 * granule)) (addrHi tier (512 * granule))
    (at_ 16 (if noStream then 0xFFFF else stream) ||| at_ 0 checker) (BitVec.ofNat 32 seq) (tagSet 2 s)

/-- An exit check failed: samples leave as zeros, counted, event 0x0502 (R323). -/
def tagExitFail (tier granule stream seq checker slot g samples : Nat) (s : State) : State :=
  let s := latchTag tier granule stream false seq checker s
  let s := { s with tag := { s.tag with
    exitBad := satInc s.tag.exitBad, exitZero := satAdd s.tag.exitZero samples } }
  record 0x0502 (BitVec.ofNat 32 stream) (BitVec.ofNat 32 slot) (BitVec.ofNat 32 g) (lo32 s.tl.pos) (tagSet 4 s)

/-- A message refused under R318. -/
def ingressBad (s : State) : State :=
  { s with tag := { s.tag with status := s.tag.status ||| 1, ingressBad := satInc s.tag.ingressBad } }

/-! ## Host access (R161, R277, R285, R294) -/

/-- Bytes of a tensor's codes, scales and side list regions are given by its lengths (R32): the start and length of each
region is laid down in Machine/Image.lean; here a list of (tier, start, length). -/
def overlaps (tier a n : Nat) (r : Nat × Nat × Nat) : Bool :=
  r.1 == tier && decide (a < r.2.1 + r.2.2) && decide (r.2.1 < a + n)

/-- Staging is locked from VERIFY until DISCARD (R161). -/
def State.stagingLocked (s : State) : Bool := s.image.held
/-- Tensors are locked from ACTIVATE until the image leaves ACTIVE (R161). -/
def State.tensorsLocked (s : State) : Bool := s.image.state == .activating || s.image.state == .active

/-- The STATUS of R334 that a host access to one 64-byte unit gets: none where it is taken. `locked`: the tensor regions
R161 locks. -/
def hostAccess (write : Bool) (tier a n : Nat) (locked : List (Nat × Nat × Nat)) (s : State) : Option Nat :=
  if !s.mem.ready then some 6
  else if s.tierTop tier ≤ a || s.tierTop tier < a + n then some 7
  else match tier with
    | 0 => some 8
    | 1 =>
      if a < s.kvBase || (s.image.active.isNone && a < kvTop) then
        (if write && locked.any (overlaps 1 a n) then some 8 else none)
      else if a < kvTop then some 8
      else if a < 0xB980000000 then (if write && locked.any (overlaps 1 a n) then some 8 else none)
      else if a < qpoolBase then some 8
      else if a < 0xBC00000000 then (if write then some 8 else none)
      else some 8
    | _ =>
      if a < 0x10000000 then
        (if write && (s.stagingLocked || locked.any (overlaps 2 a n)) then some 8 else none)
      else if a < s.ddrHostBase then some 8
      else (if write && locked.any (overlaps 2 a n) then some 8 else none)

/-! ## Registers -/

/-- The count registers of PROT show the selected tier (R311). -/
def readProt (r off : Nat) (s : State) : W32 :=
  let c := if (s.sess r).sel.tier = 3 then {} else s.counts (s.sess r).sel.tier.toNat
  match off with
  | 0x00 => s.prot.ctrl.setWidth 32
  | 0x04 => s.prot.status.setWidth 32
  | 0x08 => s.prot.scrub0.setWidth 32
  | 0x0C => s.prot.scrub1.setWidth 32
  | 0x10 => s.prot.scrub2.setWidth 32
  | 0x14 => (s.sess r).sel.tier.setWidth 32
  | 0x20 => c.ce
  | 0x24 => c.repair
  | 0x28 => c.ue
  | 0x2C => c.poisoned
  | 0x30 => c.poisonReads
  | 0x34 => c.drop
  | 0x38 => c.passes
  | 0x40 => lo32 s.prot.lastAddr
  | 0x44 => hi32 s.prot.lastAddr
  | 0x48 => s.prot.lastInfo
  | _ => 0

def writeProt (r off : Nat) (v : W32) (s : State) : State :=
  match off with
  | 0x00 => { s with prot := { s.prot with ctrl := v.setWidth 3 } }
  | 0x04 => { s with prot := { s.prot with status := w1cBits s.prot.status v } }
  | 0x08 => { s with prot := { s.prot with scrub0 := v.setWidth 16 } }
  | 0x0C => { s with prot := { s.prot with scrub1 := v.setWidth 16 } }
  | 0x10 => { s with prot := { s.prot with scrub2 := v.setWidth 16 } }
  | 0x14 => s.modSess r fun x => { x with sel := { x.sel with tier := v.setWidth 2 } }
  | _ => s

def readTag (off : Nat) (s : State) : W32 :=
  match off with
  | 0x00 => s.tag.status.setWidth 32
  | 0x04 => s.tag.ingressBad
  | 0x08 => s.tag.consumerBad
  | 0x0C => s.tag.exitBad
  | 0x10 => s.tag.exitZero
  | 0x14 => lo32 s.tag.lastAddr
  | 0x18 => hi32 s.tag.lastAddr
  | 0x1C => s.tag.lastInfo
  | 0x20 => s.tag.lastSeq
  | _ => 0

def writeTag (off : Nat) (v : W32) (s : State) : State :=
  match off with
  | 0x00 => { s with tag := { s.tag with status := w1cBits s.tag.status v } }
  | _ => s

/-- REASON of MEM_DDR_INFO (R295). -/
def dimmReason (used : Bool) (d : Dimm) : Nat :=
  if used then 0 else if !d.present then 1 else if !d.qualified then 2 else if !d.trained then 3 else 4

/-- Free queue-pool pages (R289). -/
def State.qpoolFree (s : State) : Nat := 2097152 - s.queues.foldl (fun n e => n + e.2.pages) 0

def spillWait (s : State) (d : Nat) : Nat := min 255 (cget {} s.bellows.spill d).waiting.length

/-- DDR_PCT: 0 before the fill, 100 after it; in between how far the slowest channel is hangs on time, which gives a free
value below 100 (notes/assumptions/26.md). -/
def State.ddrPct (s : State) : Nat :=
  if s.mem.ddrDone then 100 else if s.mem.ddrTrained then (Config.freeValue s.free).toNat % 100 else 0

def readMem (r off : Nat) (s : State) : W32 :=
  let m := s.mem
  match off with
  | 0x00 => bitAt 31 m.ready ||| bitAt 30 m.fault ||| at_ 16 m.used.length ||| m.hbmFail.setWidth 32
  | 0x04 => bitAt 31 m.sramDone ||| bitAt 30 m.hbmDone ||| bitAt 29 m.ddrDone ||| BitVec.ofNat 32 s.ddrPct
  | 0x08 => BitVec.ofNat 32 s.ddrGb
  | 0x0C => (s.sess r).sel.ddr.setWidth 32
  | 0x10 =>
    let i := (s.sess r).sel.ddr.toNat
    match m.dimms[i]? with
    | none => at_ 8 0xFF
    | some d =>
      let used := m.used.contains i
      bitAt 31 d.present ||| bitAt 30 d.qualified ||| bitAt 29 used ||| at_ 26 (dimmReason used d) |||
        at_ 8 (if d.qualified then d.part.toNat else 0xFF) ||| at_ 4 d.ranks.toNat ||| at_ 0 d.size.toNat
  | 0x20 => BitVec.ofNat 32 s.kvBase
  | 0x24 => BitVec.ofNat 32 (s.kvBase / 2 ^ 32)
  | 0x28 => BitVec.ofNat 32 (kvLen s.img.plans)
  | 0x2C => BitVec.ofNat 32 (kvLen s.img.plans / 2 ^ 32)
  | 0x30 => BitVec.ofNat 32 s.ddrHostBase
  | 0x34 => BitVec.ofNat 32 (s.ddrHostBase / 2 ^ 32)
  | 0x38 => BitVec.ofNat 32 s.qpoolFree
  | 0x3C => at_ 24 (spillWait s 3) ||| at_ 16 (spillWait s 2) ||| at_ 8 (spillWait s 1) ||| at_ 0 (spillWait s 0)
  | _ => 0

def writeMemReg (r off : Nat) (v : W32) (s : State) : State :=
  match off with
  | 0x0C => s.modSess r fun x => { x with sel := { x.sel with ddr := v.setWidth 3 } }
  | _ => s

/-! ## Training and fill (R291 to R294) -/

/-- HBM4 training ends: a failed stack sets its HBM_FAIL bit and FAULT and records 0x0402 (R293). -/
def execHbmTrainingComplete (fail : W16) (s : State) : Result :=
  if s.pwr.stage != 3 || s.mem.hbmTrained then .next s
  else
    let s := s.modMem fun m => { m with hbmTrained := true }
    if fail = 0 then done s
    else done (record 0x0402 (fail.setWidth 32) 0 0 0 (s.modMem fun m => { m with hbmFail := fail, fault := true }))

/-- A socket is usable when its DIMM is present, qualified and trained (R292). -/
def usable (ds : List Dimm) (i : Nat) : Bool :=
  match ds[i]? with
  | some d => d.present && d.qualified && d.trained
  | none => false
def samePart (ds : List Dimm) (l : List Nat) : Bool :=
  (l.map fun i => ds[i]?.map (·.part)).eraseDups.length == 1
/-- The choice of R292. -/
def chooseDimms (ds : List Dimm) : List Nat :=
  let all := [0, 1, 2, 3, 4, 5, 6, 7]
  let even := [0, 2, 4, 6]
  if all.all (usable ds) && samePart ds all then all
  else if even.all (usable ds) && samePart ds even then even else []

/-- READY: every tier is filled and no stack failed (R293, R294). -/
def setReady (s : State) : State :=
  s.modMem fun m => { m with ready := m.sramDone && m.hbmDone && m.ddrDone && !m.fault }

/-- A DIMM as the model takes what its socket shows: only a part of the qualified table is qualified, and every part there
has 32 to 256 GB and 1 to 4 ranks (R291). -/
def readDimm (d : Dimm) : Dimm :=
  { d with qualified := d.qualified && decide (1 ≤ d.size.toNat) && decide (d.size.toNat ≤ 4) && decide (1 ≤ d.ranks.toNat) &&
             decide (d.ranks.toNat ≤ 4) && d.part != 0xFF }

/-- DDR5 training ends: the DIMMs are chosen, 0x0401 and 0x0403 recorded; with none in use DDR5 counts as filled (R292,
R295). PROFILE_CAP = S / 256 KiB (R284). -/
def execDdrTrainingComplete (dimms : List Dimm) (s : State) : Result :=
  if s.pwr.stage != 3 || s.mem.ddrTrained then .next s else
    let dimms := dimms.map readDimm
    let used := chooseDimms dimms
    let s := setReady (s.modMem fun m => { m with
      dimms := dimms, used := used, ddrTrained := true, ddrDone := used.isEmpty })
    let sockets := (dimms.zipIdx.filter (·.1.present)).map (·.2)
    let s := { s with
      profCap := BitVec.ofNat 21 (s.storeLen / 2 ^ 18)
      pwr := { s.pwr with fitted := BitVec.ofNat 8 ((sockets.map (2 ^ ·)).sum) } }
    let present := sockets.length
    let s := s.each (List.range dimms.length) fun s i =>
      match dimms[i]? with
      | none => s
      | some d =>
        if d.present && !used.contains i then
          record 0x0401 (BitVec.ofNat 32 i) (BitVec.ofNat 32 (dimmReason false d))
            (if d.qualified then d.part.setWidth 32 else 0xFF) (d.size.setWidth 32) s
        else s
    done (if used.length < present then
      record 0x0403 (BitVec.ofNat 32 present) (BitVec.ofNat 32 used.length) 0 0 s else s)

/-- A tier fills from the end of its training, stacked SRAM from the start of TRAINING, until its fill is done (R294,
R432). -/
def State.filling (s : State) : Nat → Bool
  | 0 => !s.mem.sramDone
  | 1 => s.mem.hbmTrained && !s.mem.hbmDone
  | _ => s.mem.ddrTrained && !s.mem.ddrDone

/-- A tier's fill ends: its words read 0, its tags are 0 (R294). With the last of them READY is set, unless a stack
failed (R293). -/
def execTierFillComplete (tier : Nat) (s : State) : Result :=
  if s.pwr.stage.toNat < 3 || s.pwr.state != .boot || 2 < tier || !s.filling tier then .next s else
    let s := s.setTier tier {}
    done (setReady (s.modMem fun m => match tier with
      | 0 => { m with sramDone := true }
      | 1 => { m with hbmDone := true }
      | _ => { m with ddrDone := true }))

/-! ## Drone (R308 to R310) -/

def State.fillDone (s : State) : Nat → Bool
  | 0 => s.mem.sramDone
  | 1 => s.mem.hbmDone
  | _ => s.mem.ddrDone
/-- Devices of a tier. -/
def State.devices (s : State) : Nat → List Nat
  | 0 => List.range 4
  | 1 => List.range 16
  | _ => s.mem.used

/-- A page holds a word or codeword that is not clean. -/
def pageUnclean (t : Tier) (page : Nat) : Bool :=
  t.stale.contains page || t.chk.any (fun e => e.1 / 512 == page) || t.par.any (fun e => e.1 / 128 == page) ||
    (List.range 128).any fun i => t.parByte (page * 128 + i) != 0

/-- A tier's pass count rises when every device of it has completed one more whole walk (R309). -/
def passDone (tier before : Nat) (s : State) : State :=
  let least := (s.devices tier).foldl (fun m d => min m (s.dev (devKey tier d)).walks) (before + 1)
  if before < least then s.modCounts tier fun c => { c with passes := satInc c.passes } else s

/-- Drone reads the next page of a device and repairs it where a word or codeword is not clean; queued pages come first,
and Drone stops in STANDBY (R308, R309, R434). -/
def execDronePage (tier device : Nat) (ups : List Upset) (s : State) : Result :=
  let s := applyUpsets ups s
  let k := devKey tier device
  let d := s.dev k
  if 2 < tier || !(s.devices tier).contains device || !s.fillDone tier || !s.prot.ctrl.getLsbD tier ||
      !d.queue.isEmpty || s.pwr.state == .standby || s.pwr.state == .shutdown then .next s
  else
    let addr := s.devicePage tier device d.walk
    let page := addr / 4096
    let bad := (pageWords page).filter fun w => !((s.tier tier).outcome w).ok
    let s := if pageUnclean (s.tier tier) page then repairPage tier page s else s
    let s := match bad.find? fun w => !((s.tier tier).outcome w).ok with
      | some w => reportUe tier w true 3 0 0xFFFF (countPoison tier [w] s)
      | none => s
    let wrap := s.devicePages tier ≤ d.walk + 1
    let before := d.walks
    let s := s.modDev k fun d => { d with walk := if wrap then 0 else d.walk + 1, walks := if wrap then d.walks + 1 else d.walks }
    done (if wrap then passDone tier before s else s)

/-- The page at the head of a device's repair queue is repaired (R307, R308). -/
def execPageRepair (tier device : Nat) (ups : List Upset) (s : State) : Result :=
  let s := applyUpsets ups s
  let k := devKey tier device
  match (s.dev k).queue with
  | [] => .next s
  | page :: q => done (repairPage tier page (s.modDev k fun d => { d with queue := q }))

end Sys2Proof.Machine
end

