-- ==== Sys2Proof/Machine/ImageDecode.lean ====
section
/-! DEFINITION. The structure image: its layout (R137 to R156) decoded into an Image, and the sizes other rules take from
it (R32, R252). Decoding accepts any bytes; Machine/ImageCheck.lean says which images pass VERIFY. -/

namespace Sys2Proof.Machine

/-- A field read as two's complement. -/
def sfield (l : List Byte) (o n : Nat) : Int := signed (8 * n) (field l o n)

/-! ## Splitting sections into entries -/

/-- n entries of a fixed size. -/
def fixedEntries (size n : Nat) (l : List Byte) : List (List Byte) := (List.range n).map fun i => slice (size * i) size l

/-- n variable-length entries, the length in `lenBytes` bytes at `lenAt`; none where a length is no multiple of 8, below
`least`, or runs past the end. -/
def varEntries (lenAt lenBytes least : Nat) : Nat → List Byte → List (Option (List Byte))
  | 0, _ => []
  | n + 1, l =>
    let k := field l lenAt lenBytes
    if k % 8 = 0 && least ≤ k && k ≤ l.length then some (l.take k) :: varEntries lenAt lenBytes least n (l.drop k)
    else [none]

/-- Operation records of a PROGRAMS entry (R148). -/
def recEntries (e : List Byte) : List (Option (List Byte)) := varEntries 2 2 8 (field e 8 2) (e.drop 16)

/-! ## Entries (R142 to R156) -/

def readStageEnt (e : List Byte) : StageEnt :=
  { stage := field e 0 2, die := field e 2 1, quads := BitVec.ofNat 64 (field e 4 8), wes := BitVec.ofNat 8 (field e 12 1)
    sus := BitVec.ofNat 8 (field e 13 1), stateWords := field e 14 2, maxRows := field e 16 2
    name := BitVec.ofNat 128 (field e 32 16) }
def readSramEnt (e : List Byte) : SramEnt :=
  { die := field e 0 1, kind := field e 1 1, stage := field e 2 2, base := field e 4 4, tiles := field e 8 4 }
def readRouteEnt (e : List Byte) : RouteEnt :=
  { route := field e 0 2, die := field e 2 1, src := field e 3 1, dst := field e 4 1, yFirst := field e 5 1 % 2 == 1
    vc := bitsOf (field e 5 1) 1 2, share := field e 6 1 }
def readTensorEnt (e : List Byte) : TensorEnt :=
  { tid := field e 0 2, fmt := field e 2 1, tier := field e 3 1, role := field e 4 1, flags := field e 5 1
    die := field e 6 1, n := field e 8 4, k := field e 12 4, scale := BitVec.ofNat 32 (field e 16 4)
    codes := field e 24 8, scales := field e 32 8, side := field e 40 8, digest := slice 48 48 e }
def readRescaleEnt (e : List Byte) : RescaleEnt :=
  { table := field e 4 2, values := (List.range (field e 8 4)).map fun i => BitVec.ofNat 32 (field e (16 + 4 * i) 4) }
def readRec (e : List Byte) : Rec :=
  { cls := field e 0 1, unit := field e 1 1, route := field e 4 2, slot := field e 6 2, bytes := e }
def readProgEnt (e : List Byte) : ProgEnt :=
  { prog := field e 4 2, stage := field e 6 2, recs := (recEntries e).filterMap (·.map readRec) }
def readBudgetEnt (e : List Byte) : BudgetEnt :=
  { prog := field e 0 2, kind := field e 2 2, rows := field e 4 2, budget := field e 8 4 }
def readLinkEnt (e : List Byte) : LinkEnt :=
  { link := field e 0 2, prod := field e 2 2, cons := field e 4 2, transport := field e 6 1, ahead := field e 7 1
    buffers := field e 8 2, chain := field e 10 1, mcast := field e 11 1, base := field e 12 4, hold := field e 16 4 }
def readPlanEnt (e : List Byte) : PlanEnt :=
  { plan := field e 0 1, kind := field e 1 1, rate := field e 2 1, seqGroup := field e 3 1, maxStreams := field e 4 4
    maxContext := field e 8 4, spt := field e 12 2, kinds := (List.range (min 16 (field e 14 2))).map fun i => field e (16 + 2 * i) 2
    ctxBytes := field e 48 4, kvBytes := field e 52 4, name := BitVec.ofNat 64 (field e 56 8) }

/-! ## The container (R137 to R140) -/

/-- A directory entry. -/
structure DirEnt where
  type : Nat
  flags : Nat
  count : Nat
  offset : Nat
  length : Nat
  esize : Nat
  reserved : Nat
  deriving DecidableEq, Repr

def readDirEnt (e : List Byte) : DirEnt :=
  { type := field e 0 2, flags := field e 2 2, count := field e 4 4, offset := field e 8 8, length := field e 16 8
    esize := field e 24 4, reserved := field e 28 4 }

def readDir (b : List Byte) : List DirEnt := (fixedEntries 32 (field b 36 2) (b.drop 128)).map readDirEnt

/-- The entries of a section, by type; none where the section or its shape is missing. -/
def sectionEntries (b : List Byte) (t : Nat) : List (Option (List Byte)) :=
  match (readDir b).find? (·.type = t) with
  | none => []
  | some d =>
    let l := slice d.offset d.length b
    match t with
    | 6 => varEntries 0 4 16 d.count l
    | 7 => varEntries 0 4 16 d.count l
    | _ => (fixedEntries d.esize d.count l).map some

/-- The whole image as data. -/
def readImage (b : List Byte) : Image :=
  let es := fun t => (sectionEntries b t).filterMap id
  { id := BitVec.ofNat 64 (field b 24 8), svn := BitVec.ofNat 32 (field b 40 4), numSlots := field b 48 2
    bellowsPerDie := ((es 1).find? fun e => field e 0 2 = 8).elim 64 fun e => field e 8 8
    stages := (es 2).map readStageEnt, sram := (es 3).map readSramEnt, routes := (es 4).map readRouteEnt
    tensors := (es 5).map readTensorEnt, rescale := (es 6).map readRescaleEnt, programs := (es 7).map readProgEnt
    budgets := (es 8).map readBudgetEnt, links := (es 9).map readLinkEnt, plans := (es 10).map readPlanEnt
    dir := (readDir b).map fun d => (d.type, d.offset, d.length, d.esize) }

/-! ## Tensor regions (R15, R32) -/

/-- Bytes of one row's codes with block scales. -/
def rowCodes (fmt k : Nat) : Nat :=
  ceilDiv k 32 * (match fmt with | 6 => 32 | 7 => 16 | 8 => 16 | 9 => 12 | 10 => 8 | _ => 0)
/-- Formats that take block scales (R31). -/
def blockFmt (fmt : Nat) : Bool := [6, 7, 8, 9, 10].contains fmt
def TensorEnt.blocked (t : TensorEnt) : Bool := t.flags % 2 == 1
def TensorEnt.sided (t : TensorEnt) : Bool := t.flags / 2 % 2 == 1
/-- Lengths of the codes, scales and side-list regions. -/
def TensorEnt.codesLen (t : TensorEnt) : Nat := if t.blocked then t.n * rowCodes t.fmt t.k else packedBytes t.fmt (t.n * t.k)
def TensorEnt.scalesLen (t : TensorEnt) : Nat := if t.blocked then t.n * ceilDiv t.k 32 else 0
def TensorEnt.sideLen (t : TensorEnt) : Nat := if t.sided then t.n * (ceilDiv t.k 256 * 16) else 0
/-- The regions of a tensor: address and length. -/
def TensorEnt.regions (t : TensorEnt) : List (Nat × Nat) :=
  [(t.codes, t.codesLen)] ++ (if t.blocked then [(t.scales, t.scalesLen)] else []) ++ (if t.sided then [(t.side, t.sideLen)] else [])
/-- First address of the SRAM load window (R288). -/
def loadWindow : Nat := 0xB680000000
/-- Where the host writes a tensor: tier, address and length of each region; a tier-0 tensor by its load copy (R288). -/
def TensorEnt.hostRegions (t : TensorEnt) : List (Nat × Nat × Nat) :=
  t.regions.map fun (a, n) => if t.tier = 0 then (1, loadWindow + a, n) else (t.tier, a, n)

/-- The tensor regions that R161 locks. -/
def State.lockedRegions (s : State) : List (Nat × Nat × Nat) :=
  if s.tensorsLocked then (s.image.staged.getD s.img).tensors.flatMap TensorEnt.hostRegions else []

/-! ## Entries by number; a plan's stages; a program's links (R149 to R153, R165) -/

def Image.budget? (m : Image) (kind : Nat) : Option BudgetEnt := m.budgets.find? (·.kind = kind)
def Image.prog? (m : Image) (prog : Nat) : Option ProgEnt := m.programs.find? (·.prog = prog)
def Image.link? (m : Image) (l : Nat) : Option LinkEnt := m.links.find? (·.link = l)
def Image.stage? (m : Image) (n : Nat) : Option StageEnt := m.stages.find? (·.stage = n)
def Image.tensor? (m : Image) (t : Nat) : Option TensorEnt := m.tensors.find? (·.tid = t)
/-- The stage a kind runs on. -/
def Image.kindStage (m : Image) (kind : Nat) : Option Nat :=
  match m.budget? kind with
  | some b => (m.prog? b.prog).map (·.stage)
  | none => none
/-- The stages of a plan. -/
def Image.planStages (m : Image) (p : PlanEnt) : List Nat := (p.kinds.filterMap m.kindStage).eraseDups
/-- Kinds of a plan that run on a stage. -/
def Image.kindsOn (m : Image) (p : PlanEnt) (stage : Nat) : List Nat := p.kinds.filter fun k => m.kindStage k == some stage

/-- The die whose SRAM holds a link's buffers (R155). -/
def Image.linkDie (m : Image) (x : LinkEnt) : Option Nat :=
  ((m.stage? x.cons).orElse fun _ => m.stage? x.prod).map (·.die)

/-- Links a program reads, and links it writes (R149 to R153). -/
def operandLink (o : Nat) : List Nat := if o / 2 ^ 14 = 3 then [o % 2 ^ 14] else []
def Rec.reads (r : Rec) : List Nat :=
  let f := field r.bytes
  match r.cls with
  | 0 => [f 28 2]
  | 1 => operandLink (f 12 2) ++ (if [1, 2, 3, 4, 5, 8, 0x20, 0x21].contains (f 8 1) || (f 8 1 = 0x13 && f 14 2 ≠ 0xFFFF) then operandLink (f 14 2) else [])
  | 2 => operandLink (f 32 2)
  | 3 => [f 40 2]
  | 4 => [f 20 2]
  | _ => []
def Rec.writes (r : Rec) : List Nat :=
  let f := field r.bytes
  match r.cls with
  | 1 => operandLink (f 10 2)
  | 2 => [f 34 2]
  | 4 => if f 22 2 = 0xFFFF || !(f 15 1).testBit 1 then [] else [f 22 2]
  | _ => []
def ProgEnt.reads (p : ProgEnt) : List Nat := (p.recs.flatMap Rec.reads).eraseDups
def ProgEnt.writes (p : ProgEnt) : List Nat := (p.recs.flatMap Rec.writes).eraseDups

/-! ## What a plan's streams carry (R110, R151, R252) -/

/-- The programs of a plan, in program order. -/
def Image.planProgs (m : Image) (p : PlanEnt) : List ProgEnt :=
  m.programs.filter fun g => p.kinds.any fun k => ((m.budget? k).map (·.prog)) == some g.prog

/-- A GATE cell record (R92, R93). -/
def Rec.isCell (r : Rec) : Bool := r.cls == 1 && (field r.bytes 8 1 == 0x20 || field r.bytes 8 1 == 0x21)
/-- A DELAYED conversion. -/
def Rec.isDelayed (r : Rec) : Bool := r.cls == 2 && field r.bytes 8 1 % 16 == 1
/-- A SAMPLE record whose classes go to the gate pipelines. -/
def Rec.isFed (r : Rec) : Bool := r.cls == 4 && field r.bytes 15 1 % 2 == 1
/-- PAD_MODE of a WINDOW record, and STREAM. -/
def Rec.padMode (r : Rec) : Nat := bitsOf (field r.bytes 8 1) 3 2
def Rec.isStream (r : Rec) : Bool := r.cls == 3 && r.padMode == 2 && decide (field r.bytes 8 1 % 8 < 4)

/-- History positions per channel of a STREAM operation (R110). -/
def Rec.history (r : Rec) : Nat :=
  let reach := field r.bytes 20 2 * (field r.bytes 18 2 - 1)
  if field r.bytes 8 1 % 8 = 1 then ceilDiv reach (field r.bytes 22 1) else reach

/-- State elements of a cell record: the elements of its INIT tensor, or 64 lanes for each state word from its DST to the
next cell's on the same quad, or to STATE_WORDS. -/
def Image.cellSize (m : Image) (g : ProgEnt) (r : Rec) : Nat :=
  let init := field r.bytes 16 2
  match if init = 0xFFFF then none else m.tensors.find? (·.tid = init) with
  | some t => t.n * t.k
  | none =>
    let dst := field r.bytes 10 2 % 2 ^ 14
    let next := (g.recs.filter fun q => q.isCell && q.unit == r.unit && dst < field q.bytes 10 2 % 2 ^ 14).foldl
      (fun n q => min n (field q.bytes 10 2 % 2 ^ 14)) (((m.stages.find? (·.stage = g.stage)).map (·.stateWords)).getD 0)
    64 * (next - dst)

/-- Bytes of section 3, recurrent state, and of section 4, streaming history. -/
def Image.recurrentLen (m : Image) (p : PlanEnt) : Nat :=
  ((m.planProgs p).flatMap fun g => g.recs.map fun r =>
    if r.isCell then 4 * m.cellSize g r else if r.isFed then 2 * field r.bytes 9 1 else 0).sum
def Image.historyLen (m : Image) (p : PlanEnt) : Nat :=
  ((m.planProgs p).flatMap fun g => g.recs.map fun r =>
    if r.isStream then 4 * (r.history * field r.bytes 12 4) else 0).sum
/-- DELAYED conversions of a plan. -/
def Image.delayedCount (m : Image) (p : PlanEnt) : Nat :=
  ((m.planProgs p).map fun g => (g.recs.filter Rec.isDelayed).length).sum

/-- A section padded to its 512-byte boundary. -/
def pad512 (n : Nat) : Nat := ceilDiv n 512 * 512

/-- CTX_BYTES that R252 implies for a plan. -/
def Image.ctxLen (m : Image) (p : PlanEnt) : Nat :=
  512 + pad512 (68 * m.delayedCount p) + pad512 (m.recurrentLen p) + pad512 (m.historyLen p)

/-! ## Carved regions (R110, R143, R147) -/

/-- The region of a kind that serves a stage: its own, or one its die's stages share. -/
def Image.region? (m : Image) (die kind stage : Nat) : Option SramEnt :=
  (m.sram.find? fun r => r.die == die && r.kind == kind && r.stage == stage).orElse fun _ =>
    m.sram.find? fun r => r.die == die && r.kind == kind && r.stage == 0xFFFF
/-- First tier-0 address and bytes of a region. -/
def SramEnt.addr (r : SramEnt) : Nat := r.die * 0xC0000000 + r.base * 4096
def SramEnt.len (r : SramEnt) : Nat := r.tiles * 4096

def pad8 (n : Nat) : Nat := ceilDiv n 8 * 8

/-- Bytes that a record keeps for one stream in a region: its history (KIND 3), channel by channel, or its delayed-scale
record (KIND 6). -/
def Rec.keptLen (kind : Nat) (r : Rec) : Nat :=
  if kind = 3 then (if r.isStream then field r.bytes 12 4 * pad8 (4 * r.history) else 0)
  else if r.isDelayed then 72 else 0

/-- What the records served by a region keep for one stream, in program and record order: program, record, bytes. -/
def Image.keptAll (m : Image) (kind : Nat) (g : SramEnt) : List (Nat × Nat × Nat) :=
  m.programs.flatMap fun p =>
    if m.region? g.die kind p.stage == some g then p.recs.zipIdx.map fun (r, i) => (p.prog, i, r.keptLen kind) else []

/-- Where a record keeps its history or delayed-scale record for the stream with a place number: tier-0 address, none where
its region does not reach that far. -/
def Image.keptAt (m : Image) (die kind stage prog record place : Nat) : Option Nat :=
  match m.region? die kind stage with
  | none => none
  | some g =>
    let l := m.keptAll kind g
    let before := l.takeWhile fun e => !(e.1 == prog && e.2.1 == record)
    let o := place * (l.map (·.2.2)).sum + (before.map (·.2.2)).sum
    let n := (((l.drop before.length).head?).map (·.2.2)).getD 0
    if o + n ≤ g.len then some (g.addr + o) else none

/-- A record that reads a rescale table. -/
def Rec.usesTable (r : Rec) : Bool := r.cls == 0 && field r.bytes 9 1 % 2 == 1
/-- The tables that a die's matrix products name, in ascending TABLE order. -/
def Image.tablesOf (m : Image) (die : Nat) : List RescaleEnt :=
  let named := m.programs.flatMap fun p =>
    if (m.stage? p.stage).any (·.die == die) then (p.recs.filter Rec.usesTable).map fun r => field r.bytes 22 2 else []
  (m.rescale.filter fun t => named.contains t.table).foldl
    (fun l t => l.filter (·.table < t.table) ++ [t] ++ l.filter (t.table < ·.table)) []
/-- Where a die's copy of a table stands: the tables follow one another in its rescale-table region, each on a word. -/
def Image.tableAt (m : Image) (die table : Nat) : Option Nat :=
  match m.sram.find? (fun r => r.die == die && r.kind == 4), (m.tablesOf die).find? (·.table = table) with
  | some g, some t =>
    let o := ((m.tablesOf die).filter (·.table < table)).map fun t => pad8 (4 * t.values.length)
    if o.sum + 4 * t.values.length ≤ g.len then some (g.addr + o.sum) else none
  | _, _ => none

end Sys2Proof.Machine
end

