-- ==== Sys2Proof/Machine/Cache.lean ====
section
/-! DEFINITION. The weight caches (R193, R288), the weight streams of tensors that do not fit (R194), and the channel each
link and weight stream is bound to (R185). -/

namespace Sys2Proof.Machine

/-! ## What a cache holds (R193) -/

/-- Stages of a die that run a matrix product, in ascending order. -/
def Image.matmulStages (m : Image) (die : Nat) : List Nat :=
  (List.range 144).filter fun n => (m.stage? n).any (·.die == die) && m.programs.any fun p => p.stage == n && p.recs.any (·.cls == 0)
/-- Weight tensors that a stage's MATMULs name. -/
def Image.stageWeights (m : Image) (stage : Nat) : List TensorEnt :=
  let tids := (m.programs.filter (·.stage == stage)).flatMap fun p => (p.recs.filter (·.cls == 0)).map fun r => field r.bytes 20 2
  m.tensors.filter fun t => tids.contains t.tid

/-- Tiles of a die's weight cache, in the order of its one space. -/
def Image.cacheTiles (m : Image) (die : Nat) : List (Nat × Nat) :=
  let rs := m.sram.filter fun r => r.die == die && r.kind == 0
  let sorted := rs.foldl (fun (l : List SramEnt) r => l.filter (·.base < r.base) ++ [r] ++ l.filter (r.base ≤ ·.base)) []
  sorted.map fun r => (r.base, r.tiles)
/-- The tile that stands at an offset of the space. -/
def tileAt : List (Nat × Nat) → Nat → Nat
  | [], o => o
  | (b, n) :: t, o => if o < n then b + o else tileAt t (o - n)

/-- Granules that cover a tensor's regions, as the host wrote them: tier and granule. -/
def TensorEnt.granules (t : TensorEnt) : List (Nat × Nat) :=
  t.hostRegions.flatMap fun (tier, a, n) => (granulesOf a n).map fun g => (tier, g)

/-- Weight tensors of HBM4 or DDR5 that a MATMUL of a die names, in ascending TID order. -/
def Image.cachedTensors (m : Image) (die : Nat) : List TensorEnt :=
  let named := m.programs.flatMap fun p =>
    if m.stages.any fun g => g.stage == p.stage && g.die == die then
      (p.recs.filter (·.cls == 0)).map fun r => field r.bytes 20 2 else []
  let ts := m.tensors.filter fun t => t.tier != 0 && named.contains t.tid
  ts.foldl (fun l t => l.filter (·.tid < t.tid) ++ [t] ++ l.filter (t.tid ≤ ·.tid)) []

/-- Where each tensor of a die's cache begins, as a tile offset of the space; those that do not fit are streamed. -/
def Image.cachePlaces (m : Image) (die : Nat) : List (TensorEnt × Nat) :=
  let total := ((m.cacheTiles die).map (·.2)).sum
  let start := 16 * (m.matmulStages die).length
  ((m.cachedTensors die).foldl (fun (acc : List (TensorEnt × Nat) × Nat) t =>
    let n := ceilDiv t.granules.length 8
    if acc.2 + n ≤ total then (acc.1 ++ [(t, acc.2)], acc.2 + n) else acc) ([], start)).1

/-- The tier-0 granule that holds the i-th granule of a placed tensor. -/
def Image.cacheGranule (m : Image) (die place i : Nat) : Nat :=
  die * (0xC0000000 / 512) + tileAt (m.cacheTiles die) (place + i / 8) * 8 + i % 8

/-! ## Weight streams (R194) -/

/-- A MATMUL of a die reads a tensor that its weight cache does not hold. -/
def Image.streamed (m : Image) (die : Nat) (t : TensorEnt) : Bool :=
  t.tier != 0 && !(m.cachePlaces die).any (·.1.tid == t.tid)

/-- A stage has a weight stream. -/
def Image.streams (m : Image) (stage : Nat) : Bool :=
  match m.stage? stage with
  | some g => (m.stageWeights stage).any (m.streamed g.die)
  | none => false

/-- Tiles of a streamed tensor's block. -/
def TensorEnt.tiles (t : TensorEnt) : Nat := ceilDiv t.granules.length 8

/-- Weight streams are numbered past the links: the stream of a stage as the implicit link it is. -/
def weightLink (stage : Nat) : Nat := 65536 + stage
def weightEnt (stage : Nat) : LinkEnt :=
  { link := weightLink stage, prod := 0xFFFF, cons := stage, transport := 0, ahead := 8, buffers := 16, chain := 0, mcast := 0
    base := 0, hold := 0 }

/-- A link of the image, or a weight stream. -/
def Image.flow? (m : Image) (l : Nat) : Option LinkEnt :=
  if l < 65536 then m.link? l else if m.streams (l - 65536) then some (weightEnt (l - 65536)) else none

/-- The links and weight streams of a die in the order R185 binds them. -/
def Image.flowsOf (m : Image) (die : Nat) : List Nat :=
  let ls := (m.links.filter fun y => m.linkDie y == some die).map (·.link)
  ls.foldl (fun l x => l.filter (· < x) ++ [x] ++ l.filter (x < ·)) [] ++ ((m.matmulStages die).filter m.streams).map weightLink

/-- The channel of a link: the k-th of its die's goes to channel 64d + k mod n_d (R185). -/
def Image.linkChannel (m : Image) (link : Nat) : Option Nat :=
  match (m.flow? link).bind m.linkDie with
  | none => none
  | some d => some (64 * d + (m.flowsOf d).idxOf link % max 1 m.bellowsPerDie)

/-- The links and weight streams bound to a channel. -/
def Image.linksOf (m : Image) (ch : Nat) : List Nat :=
  (m.flowsOf (ch / 64)).filter fun l => m.linkChannel l == some ch

/-- The window tile of the cache that is a buffer of a stage's weight stream (R193, R194). -/
def Image.windowTile (m : Image) (die stage buffer : Nat) : Nat :=
  tileAt (m.cacheTiles die) (16 * (m.matmulStages die).idxOf stage + buffer)

/-- First tier-0 address of a buffer of a link (R155) or of a weight stream's window. -/
def Image.bufferAddr (m : Image) (e : LinkEnt) (buffer : Nat) : Nat :=
  let d := (m.linkDie e).getD 0
  d * 0xC0000000 + (if e.link < 65536 then e.base + buffer else m.windowTile d e.cons buffer) * 4096

end Sys2Proof.Machine
end

