-- ==== Sys2Proof/Machine/ImageCheck.lean ====
section
/-! DEFINITION. The checks of VERIFY (R157, R158, R471): what each rule rejects at load, in order. -/

namespace Sys2Proof.Machine

/-- A failure: CODE, SECTION, ENTRY, OP (R471). -/
structure ImgFail where
  code : Nat
  sec : Nat := 0
  entry : Nat := 0
  op : Nat := 0xFFFF
  deriving DecidableEq, Repr

/-- Checks in order: the condition that must hold, and the code where it does not. -/
abbrev Checks := List (Bool × Nat)

/-- The code of the first check that fails. -/
def firstBad (l : Checks) : Option Nat := (l.find? (!·.1)).map (·.2)

/-- The first entry of a section that fails its checks. -/
def checkSection (sec : Nat) (chk : Nat → List Byte → Checks) (malformed : Nat) : List (Option (List Byte)) → Nat → Option ImgFail
  | [], _ => none
  | e :: t, i =>
    match e with
    | none => some { code := malformed, sec := sec, entry := i }
    | some e =>
      match firstBad (chk i e) with
      | some c => some { code := c, sec := sec, entry := i }
      | none => checkSection sec chk malformed t (i + 1)

/-- The first failure of a list of checks made one after another. -/
def firstFail : List (Option ImgFail) → Option ImgFail
  | [] => none
  | some f :: _ => some f
  | none :: t => firstFail t

/-- FP32, finite; above 0. -/
def f32Finite (v : Nat) : Bool := (fval (BitVec.ofNat 32 v)).isFin
def f32Pos (v : Nat) : Bool := f32Finite v && !(fval (BitVec.ofNat 32 v)).isZero && !(fval (BitVec.ofNat 32 v)).isNeg

/-! ## Header, signature, directory -/

def imageMember : Nat := 0x5303
def imageStepping : Nat := 0xB0

/-- A reserved byte range is zero. -/
def zeroAt (e : List Byte) (o n : Nat) : Bool := allZero (slice o n e)

/-- Steps 1 to 4 of R157 on an image of `len` bytes in a staging region of `room`. -/
def checkHead (b : List Byte) (len room : Nat) (s : State) : Checks :=
  let sig := b.drop (len - 128)
  let key := field sig 0 4
  [ (b.take 4 == [0x43, 0x4C, 0x53, 0x4B], 1),
    (field b 4 2 == 1, 2), (field b 8 4 == 128, 2),
    (field b 16 8 == len && decide (len ≤ room) && decide (384 ≤ len) && len % 64 == 0, 3),
    (field b 52 4 == 128, 4),
    (decide (key < 8) && !s.sec.imgRevoked.getLsbD key, 0x10), (field sig 4 2 == 1, 0x10),
    (s.sec.mode != .error && Config.ecdsaVerify (Config.imageKey key) (Config.sha384 (b.take (len - 128)))
      (BitVec.ofNat 384 (field sig 16 48)) (BitVec.ofNat 384 (field sig 64 48)), 0x11),
    (decide (s.sec.imgFloor.toNat ≤ field b 40 4), 0x12),
    (field b 32 2 == imageMember, 0x13), (decide (field b 34 1 ≤ imageStepping), 0x14),
    (zeroAt b 12 4 && zeroAt b 35 1 && decide (1 ≤ field b 36 2) && decide (field b 36 2 ≤ 64) && zeroAt b 38 2 &&
      decide (field b 48 2 ≤ 4096) && zeroAt b 50 2 && zeroAt b 56 72, 4) ]

/-- ESIZE of a known section type (R140). -/
def sectionEsize (t : Nat) : Option Nat :=
  match t with
  | 1 => some 16 | 2 => some 48 | 3 => some 16 | 4 => some 8 | 5 => some 112 | 6 => some 0 | 7 => some 0
  | 8 => some 16 | 9 => some 24 | 10 => some 64 | 11 => some 0 | _ => none

/-- Two byte ranges share a byte. -/
def meets (a n b m : Nat) : Bool := decide (0 < n) && decide (0 < m) && decide (a < b + m) && decide (b < a + n)

/-- One directory entry, those before it given (R139, R140). -/
def checkDirEnt (len : Nat) (dir : List DirEnt) (i : Nat) : Checks :=
  match dir[i]? with
  | none => []
  | some d =>
    let before := dir.take i
    let known := sectionEsize d.type
    [ (known.isSome || d.flags % 2 == 0, 0x23),
      (known.isNone || !before.any (·.type == d.type), 0x22),
      (decide (d.flags < 2), 0x20),
      (d.offset % 64 == 0 && decide (128 + 32 * dir.length ≤ d.offset) && decide (d.offset + d.length + 128 ≤ len), 0x20),
      (!before.any fun p => meets p.offset p.length d.offset d.length, 0x20),
      (known.isNone || known == some d.esize, 0x20),
      (known.isNone || d.esize == 0 || d.length == d.count * d.esize, 0x20),
      (d.reserved == 0, 0x20) ]

def checkDir (b : List Byte) (len : Nat) : Option ImgFail :=
  let dir := readDir b
  firstFail ((List.range dir.length).map fun i => (firstBad (checkDirEnt len dir i)).map fun c => { code := c, entry := i })

def checkMissing (b : List Byte) : Option ImgFail :=
  ((List.range 10).map (· + 1)).findSome? fun t =>
    if (readDir b).any (·.type == t) then none else some { code := 0x21, entry := t }

/-! ## GEOM (R141, R449) -/

/-- The device's geometry table, entries 0 to 16, and whether the image's value must be equal. -/
def geomTable (ddrGb : Nat) : List (Nat × Bool) :=
  [(4, true), (36, true), (32, true), (64, true), (64, true), (512, false), (8, true), (4, true), (64, false), (8, true),
   (6, true), (786432, false), (768, false), (ddrGb, false), (7, false), (1250, true), (4096, false)]

def checkGeomEnt (ddrGb : Nat) (before : List (List Byte)) (e : List Byte) : Checks :=
  let i := field e 0 2
  let v := field e 8 8
  [ (decide (i ≤ 16), 0x30), (!before.any fun p => field p 0 2 == i, 0x30), (zeroAt e 2 6, 0x31),
    (match (geomTable ddrGb)[i]? with
      | some (d, eq) => if eq then v == d else decide (v ≤ d)
      | none => false, 0x31) ]

def checkGeomAll (es : List (List Byte)) : Option ImgFail :=
  (List.range 17).findSome? fun i =>
    if es.any fun e => field e 0 2 == i then none else some { code := 0x30, sec := 1, entry := i }

/-! ## STAGES, SRAM, ROUTES -/

/-- NAME of an entry: ASCII, padded with zeros (R142). -/
def asciiName (l : List Byte) : Bool := l.all (fun b => decide (b.toNat < 128)) && allZero (l.dropWhile (· != 0))

def checkStage (m : Image) (i : Nat) (e : List Byte) : Checks :=
  let x := readStageEnt e
  let before := m.stages.take i
  let here := before.filter (·.die == x.die)
  [ (decide (x.stage < 144) && !before.any (·.stage == x.stage), 0x40), (decide (x.die < 4), 0x40), (zeroAt e 3 1, 0x40),
    (x.quads != 0 && decide (x.quads.toNat < 2 ^ 36) && here.all fun p => p.quads &&& x.quads == 0, 0x40),
    (here.all fun p => p.wes &&& x.wes == 0, 0x40),
    (decide (x.sus.toNat < 16) && here.all fun p => p.sus &&& x.sus == 0, 0x40),
    (decide (x.stateWords ≤ 512), 0x40),
    (decide (1 ≤ x.maxRows) && decide (x.maxRows ≤ 4096) && decide (x.maxRows * x.stateWords ≤ 512), 0x40),
    (zeroAt e 18 14, 0x40), (asciiName (slice 32 16 e), 0x40) ]

def checkSram (m : Image) (i : Nat) (e : List Byte) : Checks :=
  let x := readSramEnt e
  let owner := m.stages.find? (·.stage == x.stage)
  [ (decide (x.die < 4), 0x41), (decide (x.kind ≤ 8), 0x41),
    (x.stage == 0xFFFF || owner.isSome, 0x67),
    (match owner with | some g => x.stage == 0xFFFF || g.die == x.die | none => true, 0x41),
    (decide (x.base + x.tiles ≤ 786432), 0x41), (decide (1 ≤ x.tiles), 0x41),
    (!(m.sram.take i).any fun p => p.die == x.die && meets p.base p.tiles x.base x.tiles, 0x41),
    (zeroAt e 12 4, 0x41) ]

/-- One of a die's matrix products reads a rescale table. -/
def Image.tableDie (m : Image) (die : Nat) : Bool :=
  m.programs.any fun p => m.stages.any (fun g => g.stage == p.stage && g.die == die) && p.recs.any Rec.usesTable

/-- The regions a die must have (R143, R290). -/
def sramDieOk (m : Image) (die : Nat) : Bool :=
  let here := m.sram.filter (·.die == die)
  let tiles := ((here.filter (·.kind == 0)).map (·.tiles)).sum
  (here.filter (·.kind == 7)).length == 1 &&
  (here.filter fun x => x.kind == 0 || x.kind == 7).all (·.stage == 0xFFFF) &&
  decide (16 * (m.matmulStages die).length ≤ tiles) &&
  (!m.tableDie die || here.any (·.kind == 4))

/-- The entry that completes a die's part of the section, or the section's last (R290). -/
def sramLast (m : Image) (die : Nat) : Nat :=
  ((m.sram.zipIdx.filter fun x => x.1.die == die).getLast?.map (·.2)).getD (m.sram.length - 1)

def checkSramAll (m : Image) : Option ImgFail :=
  let bad := ((List.range 4).filter fun d => !sramDieOk m d).map (sramLast m)
  if bad.isEmpty then none else some { code := 0x41, sec := 3, entry := bad.foldl min (m.sram.length - 1) }

/-- Coordinates from a to b along one axis, both included. -/
def walkAxis (a b : Nat) : List Nat :=
  if a ≤ b then (List.range (b - a + 1)).map (a + ·) else (List.range (a - b + 1)).map (a - ·)

/-- The directed segments a route crosses (R144, R145). -/
def RouteEnt.segments (x : RouteEnt) : List (Nat × Nat) :=
  let (sx, sy) := (x.src % 8, x.src / 8)
  let (dx, dy) := (x.dst % 8, x.dst / 8)
  let nodes :=
    if x.yFirst then (walkAxis sy dy).map (fun y => 8 * y + sx) ++ ((walkAxis sx dx).drop 1).map fun c => 8 * dy + c
    else (walkAxis sx dx).map (fun c => 8 * sy + c) ++ ((walkAxis sy dy).drop 1).map fun y => 8 * y + dx
  nodes.zip (nodes.drop 1)

/-- Shares on one segment of a die. -/
def segmentTotal (rs : List RouteEnt) (die : Nat) (g : Nat × Nat) : Nat :=
  ((rs.filter fun r => r.die == die && r.segments.contains g).map (·.share)).sum

def checkRoute (m : Image) (i : Nat) (e : List Byte) : Checks :=
  let x := readRouteEnt e
  [ (!(m.routes.take i).any (·.route == x.route), 0x42), (decide (x.die < 4), 0x42), (decide (x.src < 48), 0x42),
    (decide (x.dst < 48) && x.dst != x.src, 0x42), (decide (field e 5 1 < 8), 0x42),
    (decide (1 ≤ x.share) && decide (x.share ≤ 64), 0x42), (zeroAt e 7 1, 0x42),
    (x.segments.all fun g => decide (segmentTotal (m.routes.take (i + 1)) x.die g ≤ 64), 0x43) ]

/-! ## TENSORS, RESCALE -/

/-- Tier top for a tensor (R146). -/
def tensorTop (ddrCap : Nat) (tier : Nat) : Nat := match tier with | 0 => 0x300000000 | 1 => 0xC000000000 | _ => ddrCap

/-- A region of an SRAM-tier tensor lies in a KIND 8 region of its die. -/
def inKind8 (m : Image) (die a n : Nat) : Bool :=
  m.sram.any fun r => r.die == die && r.kind == 8 &&
    decide (die * 0xC0000000 + r.base * 4096 ≤ a) && decide (a + n ≤ die * 0xC0000000 + (r.base + r.tiles) * 4096)

def regionOk (m : Image) (ddrCap : Nat) (t : TensorEnt) (r : Nat × Nat) : Bool :=
  r.1 % 64 == 0 && decide (r.1 + r.2 ≤ tensorTop ddrCap t.tier) && (t.tier != 0 || inKind8 m t.die r.1 r.2) &&
    !(t.tier == 2 && meets r.1 r.2 0 0x10000000)

def tensorsMeet (a b : TensorEnt) : Bool :=
  a.tier == b.tier && a.regions.any fun x => b.regions.any fun y => meets x.1 x.2 y.1 y.2

def checkTensor (m : Image) (ddrCap i : Nat) (e : List Byte) : Checks :=
  let t := readTensorEnt e
  [ (!(m.tensors.take i).any (·.tid == t.tid), 0x50), (decide (t.fmt ≤ 10), 0x60), (decide (t.tier ≤ 2), 0x50),
    (decide (t.role ≤ 4), 0x50), (decide (t.flags < 4) && (!t.blocked || blockFmt t.fmt) && (t.blocked || !t.sided), 0x50),
    (if t.tier = 0 then decide (t.die < 4) else t.die == 0, 0x50), (zeroAt e 7 1, 0x50), (decide (1 ≤ t.n), 0x50),
    (decide (1 ≤ t.k), 0x50), (f32Finite t.scale.toNat, 0x50), (zeroAt e 20 4, 0x50),
    (t.blocked || t.scales == 0, 0x50), (t.sided || t.side == 0, 0x50),
    (t.regions.all (regionOk m ddrCap t), 0x50),
    (!(t.regions.zipIdx.any fun (x, j) => (t.regions.drop (j + 1)).any fun y => meets x.1 x.2 y.1 y.2), 0x50),
    (!(m.tensors.take i).any (tensorsMeet t), 0x50),
    (zeroAt e 96 16, 0x50) ]

def checkRescale (m : Image) (e : List Byte) : Checks :=
  let t := field e 4 2
  let n := field e 8 4
  let users := m.programs.flatMap fun p => p.recs.filter fun r => r.usesTable && field r.bytes 22 2 == t
  [ (zeroAt e 6 2, 0x51), (field e 0 4 == ceilDiv (16 + 4 * n) 8 * 8, 0x51),
    (users.all fun r => field r.bytes 12 4 == n, 0x51), (zeroAt e 12 4, 0x51),
    ((List.range n).all fun i => f32Finite (field e (16 + 4 * i) 4), 0x51) ]

/-! ## PROGRAMS (R148 to R153) -/

/-- Formats of R28 and the pairs of R29. -/
def matmulFmts (w a : Nat) : Bool :=
  ([6, 7, 8, 9, 10].contains w && a == 6) || ([3, 4].contains w && [3, 4].contains a) || (w == 1 && a == 1) || (w == 2 && a == 2)

/-- A link that ends, or starts, at a stage. -/
def Image.linkIn (m : Image) (stage l : Nat) : Bool := m.links.any fun x => x.link == l && x.cons == stage
def Image.linkOut (m : Image) (stage l : Nat) : Bool := m.links.any fun x => x.link == l && x.prod == stage
def Image.hasTensor (m : Image) (t : Nat) : Bool := m.tensors.any (·.tid == t)
/-- A tensor, where it exists, is of one of the formats that its role takes (R28, R29). -/
def Image.tensorIn (m : Image) (t : Nat) (fmts : List Nat) : Bool := (m.tensors.find? (·.tid = t)).all fun e => fmts.contains e.fmt

/-- An operand of R150: its index in range, its link of the right direction. -/
def operandChecks (m : Image) (stage : Nat) (out : Bool) (o : Nat) : Checks :=
  let i := o % 2 ^ 14
  match o / 2 ^ 14 with
  | 0 => [(decide (i < 256), 0x61)]
  | 1 => [(decide (i < 512), 0x61)]
  | 2 => []
  | _ => [(if out then m.linkOut stage i else m.linkIn stage i, 0x67)]

/-- CONVERT records with a group scale that write a link have G = 64 where a Reed array reads it (R40). -/
def groupsOk (m : Image) (link : Nat) : Bool :=
  m.programs.all fun p => p.recs.all fun r =>
    r.cls != 2 || field r.bytes 34 2 != link || field r.bytes 8 1 % 16 < 2 || field r.bytes 9 1 == 64

/-- The entries of SPLIT one after another, each by the order of its table: an array of the record's stage, the reserved
bytes, and R71 (a first block past the one before, inside K, no array twice). -/
def splitChecks (g : StageEnt) (b : List Byte) (k : Nat) (es : List (Nat × Nat)) : Checks :=
  es.zipIdx.flatMap fun ((a, first), i) =>
    let before := es.take i
    [ (decide (a < 144) && g.quads.getLsbD (a / 4), 0x67), (field b (34 + 8 * i) 2 == 0, 0x61),
      ((match before.getLast? with | none => first == 0 | some p => decide (p.2 < first)) && decide (first < ceilDiv k 64) &&
        !before.any (·.1 == a), 0x63) ]

def Rec.split (r : Rec) : List (Nat × Nat) :=
  (List.range (field r.bytes 30 2)).map fun i => (field r.bytes (32 + 8 * i) 2, field r.bytes (36 + 8 * i) 4)

/-- Bytes of a record by its class (R148 to R153). -/
def Rec.size (r : Rec) : Nat :=
  match r.cls with
  | 0 => 32 + 8 * field r.bytes 30 2 | 1 => 24 | 2 => 40 | 3 => 48 | 4 => 24 | _ => 16

def unitOk (g : StageEnt) (cls unit : Nat) : Bool :=
  match cls with
  | 0 | 1 | 2 => decide (unit < 36) && g.quads.getLsbD unit
  | 3 => decide (unit < 8) && g.wes.getLsbD unit
  | 4 => decide (unit < 4) && g.sus.getLsbD unit
  | _ => true

def checkRecHead (m : Image) (g : StageEnt) (r : Rec) : Checks :=
  [ (decide (r.cls ≤ 5), 0x61), (r.cls != 5 || r.unit == 0, 0x61), (unitOk g r.cls r.unit, 0x67),
    (r.cls == 0 || r.size == r.bytes.length, 0x61),
    (r.route == 0xFFFF || m.routes.any (·.route == r.route), 0x67),
    (r.slot == 0xFFFF || decide (r.slot < m.numSlots), 0x61) ]

def checkMatmul (m : Image) (g : StageEnt) (r : Rec) : Checks :=
  let f := field r.bytes
  let table := r.usesTable
  let acc := sfield r.bytes 10 2
  [ (matmulFmts (f 8 1 % 16) (f 8 1 / 16), 0x60), (decide (f 9 1 < 4), 0x61),
    (decide (-256 ≤ acc) && decide (acc ≤ 255), 0x61),
    (decide (1 ≤ f 12 4) && decide (f 12 4 ≤ 65536), 0x61), (decide (1 ≤ f 16 4) && decide (f 16 4 ≤ 1048576), 0x61),
    (m.hasTensor (f 20 2), 0x67), (m.tensorIn (f 20 2) [f 8 1 % 16], 0x60),
    (table || f 22 2 == 0xFFFF, 0x61), (!table || m.rescale.any (·.table == f 22 2), 0x67), (!table || f 24 4 == 0, 0x61),
    (m.linkIn g.stage (f 28 2), 0x67), (groupsOk m (f 28 2), 0x62),
    (decide (1 ≤ f 30 2) && decide (f 30 2 ≤ 144) && r.size == r.bytes.length, 0x61) ] ++
  splitChecks g r.bytes (f 16 4) r.split

def gateOps : List Nat := (List.range 0x14).map (· + 1) ++ [0x20, 0x21]

def checkGate (m : Image) (g : StageEnt) (r : Rec) : Checks :=
  let f := field r.bytes
  let op := f 8 1
  let cell := op == 0x20 || op == 0x21
  let binary := op ≤ 8 && op != 6 && op != 7
  [(gateOps.contains op, 0x61), (f 9 1 == 0, 0x61)] ++ operandChecks m g.stage true (f 10 2) ++
  operandChecks m g.stage false (f 12 2) ++
  (if op == 0x10 then [(f 14 2 == 0xFFFF || m.hasTensor (f 14 2), 0x67), (f 14 2 == 0xFFFF || m.tensorIn (f 14 2) [0, 1], 0x60)]
    else if op == 0x11 || op == 0x12 then [(m.hasTensor (f 14 2), 0x67), (m.tensorIn (f 14 2) [0, 1], 0x60)]
    else if cell || binary then operandChecks m g.stage false (f 14 2) else []) ++
  (if cell then [(decide (f 16 4 < 65536), 0x61), (f 16 2 == 0xFFFF || m.hasTensor (f 16 2), 0x67),
      (f 16 2 == 0xFFFF || m.tensorIn (f 16 2) [0, 1], 0x60), (f 20 4 == 0, 0x61)]
    else if op == 0x11 || op == 0x12 then [] else [(f 16 4 == 0, 0x61), (f 20 4 == 0, 0x61)])

/-- Targets of each mode (R41), and the formats a gate pipeline or window engine writes unscaled (R28). MODE 0 takes FP32
too, which R41 does not list and R28 has a gate pipeline write: its elements are multiplied by r like any other's (DESIGN
CHOICE, notes/assumptions/59.md). -/
def convertTarget (mode fmt : Nat) : Bool :=
  match mode with
  | 0 => [0, 1, 2, 3, 4, 5, 6].contains fmt
  | 1 | 2 => [3, 4, 6].contains fmt
  | _ => fmt == 6

/-- A record with the synthesis mark. -/
def Rec.isSynth (r : Rec) : Bool := r.cls == 3 && (field r.bytes 8 1).testBit 5

/-- A CONVERT record; `prev`: the WINDOW record whose output it writes. After a synthesis operation it writes FP32 (R113). An
INT16 target, which takes no mode, still has its MODE 0 fields checked (DESIGN CHOICE, notes/assumptions/59.md). -/
def checkConvert (m : Image) (g : StageEnt) (prev : Option Rec) (r : Rec) : Checks :=
  let f := field r.bytes
  let mode := f 8 1 % 16
  let eMin := sfield r.bytes 10 1
  let eMax := sfield r.bytes 11 1
  let margin := BitVec.ofNat 32 (f 12 4)
  [ (decide (mode ≤ 3), 0x61), (convertTarget mode (f 8 1 / 16) && (f 8 1 / 16 == 0 || !prev.any Rec.isSynth), 0x60),
    (if 2 ≤ mode then [16, 32, 64].contains (f 9 1) else f 9 1 == 0, 0x61),
    (mode == 0 || (decide (-126 ≤ eMin) && decide (eMin ≤ eMax) && decide (-126 ≤ eMax)), 0x61),
    (mode != 1 || (f32Finite (f 12 4) && !flt margin one && !flt 0x41800000 margin), 0x61),
    (f 19 1 == 0, 0x61),
    (mode != 1 || (f32Finite (f 20 4) && !flt (BitVec.ofNat 32 (f 20 4)) 0), 0x61),
    (mode != 0 || (f32Pos (f 24 4) && f32Pos (f 28 4)), 0x61) ] ++
  (if prev.isSome then [] else operandChecks m g.stage false (f 32 2)) ++ [(m.linkOut g.stage (f 34 2), 0x67)]

/-- Output length of a window operation (R106, R112). -/
def Rec.outLen (r : Rec) : Int :=
  let f := field r.bytes
  let (l, k, dil, stride, pb, pa) := ((f 30 2 : Int), (f 18 2 : Int), (f 20 2 : Int), (f 22 1 : Int), (f 26 2 : Int), (f 28 2 : Int))
  if f 8 1 % 8 = 1 then (l - 1) * stride + dil * (k - 1) + 1 - pb - pa
  else (l + pb + pa - dil * (k - 1) - 1) / stride + 1

/-- The constraints on a STREAM operation (R110). -/
def streamOk (r : Rec) : Bool :=
  let f := field r.bytes
  let reach := f 20 2 * (f 18 2 - 1)
  decide (r.history ≤ 8192) &&
    if f 8 1 % 8 = 1 then f 26 2 == 0 && decide (f 22 1 ≤ reach + 1) && f 28 2 == reach + 1 - f 22 1
    else f 28 2 == 0 && f 26 2 == reach && f 30 2 % f 22 1 == 0

/-- A TCONV that may carry the synthesis mark (R113). -/
def synthOk (r : Rec) : Bool :=
  let f := field r.bytes
  f 8 1 % 8 == 1 && f 16 2 == 1 && f 10 2 == 1 && f 12 4 == f 22 1 && [2, 4, 8].contains (f 12 4) && r.padMode == 2

def inRange (lo hi v : Nat) : Bool := decide (lo ≤ v) && decide (v ≤ hi)

def checkWindow (m : Image) (g : StageEnt) (r : Rec) : Checks :=
  let f := field r.bytes
  let op := f 8 1 % 8
  let conv := op ≤ 1
  let pool := op == 2 || op == 3
  let tf := f 9 1 / 16
  [ (decide (op ≤ 4), 0x61), (decide (r.padMode ≤ 2) && (op != 1 || r.padMode != 1), 0x61),
    (!(f 8 1).testBit 5 || synthOk r, 0x66), (decide (f 8 1 < 64), 0x61),
    ([0, 1, 2, 3, 4, 6].contains (f 9 1 % 16), 0x60), (if conv then decide (tf ≤ 2) else decide (tf ≤ 10), 0x60),
    (inRange 1 4096 (f 10 2) && (!pool || f 10 2 == f 12 4), 0x61),
    (inRange 1 (if op == 4 then 65536 else 4096) (f 12 4) && f 12 4 % f 10 2 == 0, 0x61),
    ((if op == 4 then f 16 2 == 1 else inRange 1 4096 (f 16 2) && (!pool || f 16 2 == f 12 4)) && f 16 2 % f 10 2 == 0, 0x61),
    (inRange 1 512 (f 18 2) && (op != 4 || f 18 2 == 1), 0x61), (inRange 1 65535 (f 20 2), 0x61),
    (inRange 1 64 (f 22 1), 0x61), (inRange 1 64 (f 23 1), 0x61), (inRange 1 64 (f 24 1), 0x61), (f 25 1 == 0, 0x61),
    (inRange 1 4096 (f 30 2), 0x61),
    (op == 4 || decide (1 ≤ r.outLen), 0x64),
    (op == 4 || r.padMode != 2 || streamOk r, 0x65),
    (!conv || m.hasTensor (f 32 2), 0x67), (!conv || m.tensorIn (f 32 2) [tf], 0x60),
    (!conv || f 34 2 == 0xFFFF || m.hasTensor (f 34 2), 0x67), (!conv || f 34 2 == 0xFFFF || m.tensorIn (f 34 2) [0], 0x60),
    (!conv || f 34 2 == 0xFFFF || (m.tensors.find? (·.tid = f 34 2)).all fun e => e.n * e.k == f 16 2, 0x61),
    (op != 3 || f32Finite (f 36 4), 0x61), (m.linkIn g.stage (f 40 2), 0x67), (zeroAt r.bytes 42 6, 0x61) ]

def checkSample (m : Image) (g : StageEnt) (r : Rec) : Checks :=
  let f := field r.bytes
  [ (decide (f 8 1 % 16 ≤ 1), 0x60), (decide (f 8 1 < 64), 0x61), (inRange 1 16 (f 9 1), 0x61),
    (inRange 2 4096 (f 10 2), 0x61), (decide (f 14 1 ≤ 64), 0x61), (inRange 1 3 (f 15 1), 0x61),
    (f32Pos (f 16 4), 0x61),
    (m.linkIn g.stage (f 20 2), 0x67), (f 22 2 == 0xFFFF || m.linkOut g.stage (f 22 2), 0x67) ]

def checkMove (m : Image) (g : StageEnt) (r : Rec) : Checks :=
  let f := field r.bytes
  [(m.linkIn g.stage (f 8 2) || m.linkOut g.stage (f 8 2), 0x67), (f 10 2 == 0, 0x61)]

/-- The checks of one record; `prev`: the record before it where that is a WINDOW record other than ARGMAX; `next`: the record
after it. -/
def checkRec (m : Image) (g : StageEnt) (prev : Option Rec) (next : Option Rec) (r : Rec) : Checks :=
  checkRecHead m g r ++
  (match r.cls with
    | 0 => checkMatmul m g r
    | 1 => checkGate m g r
    | 2 => checkConvert m g prev r
    | 3 => checkWindow m g r ++
      [(field r.bytes 8 1 % 8 == 4 || next.any (·.cls == 2), 0x68)]
    | 4 => checkSample m g r
    | _ => checkMove m g r)

/-- A WINDOW record whose output a CONVERT writes. -/
def Rec.needsConvert (r : Rec) : Bool := r.cls == 3 && decide (field r.bytes 8 1 % 8 < 4)

def checkRecs (m : Image) (g : StageEnt) (entry : Nat) (prev : Option Rec) : List (Option (List Byte)) → Nat → Option ImgFail
  | [], _ => none
  | none :: _, i => some { code := 0x61, sec := 7, entry := entry, op := i }
  | some b :: t, i =>
    let r := readRec b
    let next := match t.head? with | some (some x) => some (readRec x) | _ => none
    match firstBad (checkRec m g prev next r) with
    | some c => some { code := c, sec := 7, entry := entry, op := i }
    | none => checkRecs m g entry (if r.needsConvert then some r else none) t (i + 1)

def checkProg (m : Image) (i : Nat) (e : List Byte) : Option ImgFail :=
  let p := readProgEnt e
  let g := m.stages.find? (·.stage == p.stage)
  let rs := recEntries e
  let used := ((rs.filterMap id).map (·.length)).sum
  match firstBad [(!(m.programs.take i).any (·.prog == p.prog), 0x61), (g.isSome, 0x67), (zeroAt e 10 6, 0x61)] with
  | some c => some { code := c, sec := 7, entry := i }
  | none =>
    match checkRecs m (g.getD (readStageEnt [])) i none rs 0 with
    | some f => some f
    | none => if used + 16 = e.length then none else some { code := 0x61, sec := 7, entry := i }

def checkPrograms (m : Image) : List (Option (List Byte)) → Nat → Option ImgFail
  | [], _ => none
  | none :: _, i => some { code := 0x61, sec := 7, entry := i }
  | some e :: t, i =>
    match checkProg m i e with
    | some f => some f
    | none => checkPrograms m t (i + 1)

/-! ## BUDGETS, LINKS, PLANS -/

def checkBudget (m : Image) (i : Nat) (e : List Byte) : Checks :=
  let x := readBudgetEnt e
  let rows := match m.prog? x.prog with
    | some p => ((m.stage? p.stage).map (·.maxRows)).getD 0
    | none => 0
  [ ((m.prog? x.prog).isSome, 0x70), (!(m.budgets.take i).any (·.kind == x.kind), 0x70), (inRange 1 rows x.rows, 0x70),
    (zeroAt e 6 2, 0x70), (inRange 1 16777215 x.budget, 0x70), (zeroAt e 12 4, 0x70) ]

/-- Links a record names, MOVE included. -/
def Rec.links (r : Rec) : List Nat := r.reads ++ r.writes ++ (if r.cls == 5 then [field r.bytes 8 2] else [])

/-- A plan uses a link: a program of one of its kinds names it. -/
def Image.planUses (m : Image) (p : PlanEnt) (l : Nat) : Bool := (m.planProgs p).any fun g => g.recs.any fun r => r.links.contains l

def checkLink (m : Image) (i : Nat) (e : List Byte) : Checks :=
  let x := readLinkEnt e
  let die := m.linkDie x
  let known := fun n => n == 0xFFFF || (m.stage? n).isSome
  let inside := match die with
    | some d => m.sram.any fun r => r.die == d && r.kind == 2 && decide (r.base ≤ x.base) && decide (x.base + x.buffers ≤ r.base + r.tiles)
    | none => false
  [ (!(m.links.take i).any (·.link == x.link), 0x71), (known x.prod, 0x67), (known x.cons, 0x67),
    (decide (x.transport ≤ 4), 0x71),
    (x.transport != 3 || !m.plans.any (fun p => p.kind == 0 && m.planUses p x.link), 0x71),
    (inRange 1 8 x.ahead, 0x71), (inRange (x.ahead + 1) 4096 x.buffers, 0x71), (decide (x.chain ≤ 1), 0x71),
    (x.mcast == 0 || (inRange 2 7 x.mcast && x.transport == 2), 0x71),
    (inside, 0x71),
    (!(m.links.take i).any fun y => m.linkDie y == die && meets y.base y.buffers x.base x.buffers, 0x71),
    (if x.mcast = 0 then x.hold == 0 else inRange 1 16777215 x.hold, 0x71), (zeroAt e 20 4, 0x71) ]

/-- LEVEL values are non-decreasing and leave no level out (R165). -/
def levelsOk (kinds : List Nat) : Bool :=
  let ls := kinds.map kindLevel
  ls.head? == some 0 && (ls.zip (ls.drop 1)).all fun x => decide (x.1 ≤ x.2) && decide (x.2 ≤ x.1 + 1)

def checkPlan (m : Image) (i : Nat) (e : List Byte) : Checks :=
  let p := readPlanEnt e
  let n := field e 14 2
  let shares := fun (q : PlanEnt) => (m.planStages q).any fun st => (m.planStages p).contains st
  [ (decide (p.plan < 64) && !(m.plans.take i).any (·.plan == p.plan), 0x72), (decide (p.kind ≤ 1), 0x72),
    (decide (p.rate ≤ 3), 0x72), (inRange 1 64 p.seqGroup, 0x72),
    (inRange 1 2048 p.maxStreams && (p.kind != 1 || p.maxStreams == 1), 0x72), (inRange 1 4194304 p.maxContext, 0x72),
    (decide (1 ≤ p.spt), 0x72), (inRange 1 16 n, 0x72), (p.kinds.all fun k => (m.budget? k).isSome, 0x67),
    (zeroAt e (16 + 2 * n) (32 - 2 * n), 0x72), (levelsOk p.kinds, 0x72),
    ((m.plans.take i).all fun q => q.kind == 1 || p.kind == 1 || !shares q || q.period == p.period, 0x72),
    (p.ctxBytes == m.ctxLen p, 0x72) ]

/-- End of the highest tier-1 tensor region. -/
def tensorEnd (m : Image) : Nat :=
  (m.tensors.flatMap fun t => if t.tier = 1 then t.regions.map fun r => r.1 + r.2 else []).foldl max 0

/-- The pool of R282, plan by plan in ascending PLAN order. -/
def checkPool (m : Image) : Option ImgFail :=
  let limit := tensorEnd m
  let order := (List.range 64).filterMap fun n => m.plans.zipIdx.find? fun x => x.1.plan == n
  (order.foldl (fun (acc : Nat × Option ImgFail) (x : PlanEnt × Nat) =>
    let used := acc.1 + x.1.maxStreams * x.1.area
    (used, acc.2.orElse fun _ => if kvTop < used + limit then some { code := 0x72, sec := 10, entry := x.2 } else none)) (0, none)).2

/-! ## The whole check (R157) -/

/-- VERIFY of `len` bytes as delivered: the first failure, or none. -/
def verifyImage (b : List Byte) (len : Nat) (s : State) : Option ImgFail :=
  let m := readImage b
  let es := sectionEntries b
  let geom := (es 1).filterMap id
  firstFail [
    (firstBad (checkHead b len s.stageSize s)).map fun c => { code := c },
    checkDir b len,
    checkMissing b,
    checkSection 1 (fun i e => checkGeomEnt s.ddrGb (geom.take i) e) 0x30 (es 1) 0,
    checkGeomAll geom,
    checkSection 2 (checkStage m) 0x40 (es 2) 0,
    checkSection 3 (checkSram m) 0x41 (es 3) 0,
    checkSramAll m,
    checkSection 4 (checkRoute m) 0x42 (es 4) 0,
    checkSection 5 (checkTensor m s.ddrCap) 0x50 (es 5) 0,
    checkSection 6 (fun _ e => checkRescale m e) 0x51 (es 6) 0,
    checkPrograms m (es 7) 0,
    checkSection 8 (checkBudget m) 0x70 (es 8) 0,
    checkSection 9 (checkLink m) 0x71 (es 9) 0,
    checkSection 10 (checkPlan m) 0x72 (es 10) 0,
    checkPool m]

end Sys2Proof.Machine
end

