-- ==== Sys2Proof/Machine/Ring.lean ====
section
/-! DEFINITION. Sequence-parallel rings and how their messages leave (R353, R364 to R371). -/

namespace Sys2Proof.Machine

def State.modKl (s : State) (f : Kryter → Kryter) : State := { s with kl := f s.kl }

/-- The KL_RING_MEMBER word of a plan's ring index (R372): VALID [31], REMOTE [28], DEST [27:16], ADDR [15:0]. -/
def State.ringWord (s : State) (plan m : Nat) : W32 := cget 0 s.kl.ring (plan * 64 + m)
def ringAddr (w : W32) : W16 := w.setWidth 16
/-- ETH_DEV_ADDR holds a value with which a device takes part in device links and rings (R371). -/
def State.takesPart (s : State) : Bool := decide (s.eth.devAddr.toNat < 0xFFFE)
/-- Ring indices of a plan that hold this device's address. -/
def State.ringSelves (s : State) (plan g : Nat) : List Nat :=
  if !s.takesPart then [] else (List.range g).filter fun m => (s.ringWord plan m).getLsbD 31 && ringAddr (s.ringWord plan m) == s.eth.devAddr
/-- The ring has G valid members and holds this device exactly once; its index (R372). -/
def State.ringSelf (s : State) (plan g : Nat) : Option Nat :=
  if (List.range g).all fun m => (s.ringWord plan m).getLsbD 31 then
    match s.ringSelves plan g with
    | [i] => some i
    | _ => none
  else none

/-- The 24 bytes of a RING message (R367). -/
def ringBytes (op code : Nat) (stream owner : W16) (plan member : Nat) (imageId : W64) (p0 p1 : W32) : List Byte :=
  [BitVec.ofNat 8 op, BitVec.ofNat 8 code] ++ leBytes 2 stream.toNat ++ leBytes 2 owner.toNat ++
    [BitVec.ofNat 8 plan, BitVec.ofNat 8 member] ++ leBytes 8 imageId.toNat ++ leBytes 4 p0.toNat ++ leBytes 4 p1.toNat

/-- A signal record of a CTRL body (R353). -/
def signalRecord (kind link : Nat) (arg : W32) : List Byte :=
  [BitVec.ofNat 8 kind, 0] ++ leBytes 2 link ++ leBytes 4 arg.toNat

/-- The Kryter link in UP whose peer has a device address, or a board position. -/
def State.linkToAddr (s : State) (a : W16) : Option Nat :=
  (List.range 7).find? fun k => (s.klink k).state == .up && (s.klink k).peerAddr == a
/-- The Kryter link to a device address: one in UP, or one that was. -/
def State.linkOfAddr (s : State) (a : W16) : Option Nat :=
  (s.linkToAddr a).orElse fun _ => (List.range 7).find? fun k => (s.klink k).valid && (s.klink k).peerAddr == a
def peerPosOf (pos : BitVec 3) (k : Nat) : Nat := (pos.toNat + k + 1) % 8
def linkToPos (pos : BitVec 3) (q : Nat) : Option Nat := (List.range 7).find? fun k => peerPosOf pos k = q

/-- Queue signal records on a Kryter link. -/
def queueSignals (k : Nat) (rs : List (List Byte)) (s : State) : State :=
  s.modKlink k fun x => { x with ctrlQ := x.ctrlQ ++ rs }

/-- The next MSEQ to a device for a count: the TILE link ID, or 65,536 for SIGNAL and RING together (R369). -/
def mseqKey (dev : W16) (count : Nat) : Nat := dev.toNat * 131072 + count
def takeMseq (key : Nat) (s : State) : W32 × State :=
  let v := cget 0 s.kl.mseqTx key
  (v, s.modKl fun k => { k with mseqTx := cput 0 key (v + 1) k.mseqTx })

/-- Send a device-link message to a ring member reached by Ethernet (R369). -/
def sendDev (w : W32) (typ : Byte) (count linkId : Nat) (payload : List Byte) (s : State) : State :=
  let (q, s) := takeMseq (mseqKey (ringAddr w) count) s
  sendTo (bitsOf w.toNat 16 12) typ 0xFF (ringAddr w) ((q.setWidth 64 <<< 16) ||| BitVec.ofNat 64 linkId) payload s

/-- Send a RING message to a ring member: over Kryter as RING records, or as TYPE 0x52 (R367). -/
def sendRing (w : W32) (msg : List Byte) (s : State) : State :=
  if w.getLsbD 28 then sendDev w 0x52 65536 0 msg s
  else match s.linkToAddr (ringAddr w) with
    | some k => queueSignals k [signalRecord 5 0 0, msg.take 8, (msg.drop 8).take 8, msg.drop 16] s
    | none => s

/-- Send a RING message to every other member of a plan's ring (R368). -/
def sendRingAll (plan g : Nat) (msg : List Byte) (s : State) : State :=
  s.each (List.range g) fun s m =>
    let w := s.ringWord plan m
    if w.getLsbD 31 && ringAddr w != s.eth.devAddr then sendRing w msg s else s

/-- SEQ_GROUP of a plan of the active image. -/
def State.groupOf (s : State) (plan : Nat) : Nat := (s.plan? plan |>.map (·.seqGroup)).getD 1

/-- Streams of a plan are open on this device (R359, R364). -/
def State.planOpen (s : State) (plan : Nat) : Bool := s.streams.any fun e => e.2.isOpen && e.2.plan.toNat == plan

end Sys2Proof.Machine
end

