-- ==== Sys2Proof/Machine/Streams.lean ====
section
/-! DEFINITION. Streams: completions, command entries, profiles' pins, load, abort, the stream commands and the stream
window (R229 to R258). -/

namespace Sys2Proof.Machine

/-! ## Completions (R236, R238) -/

/-- The 32 bytes of a completion entry. -/
def completionBytes (kind status stream : Nat) (cookie : W32) (pos : W64) (p0 p1 seq : W32) : List Byte :=
  [BitVec.ofNat 8 kind, BitVec.ofNat 8 status] ++ leBytes 2 stream ++ leBytes 4 cookie.toNat ++ leBytes 8 pos.toNat ++
    leBytes 4 p0.toNat ++ leBytes 4 p1.toNat ++ leBytes 4 seq.toNat ++ [0, 0, 0, 0]

/-- Post a completion to queue index q of a stream: written, or counted as lost where the queue is full; sent to the
stream's completion destination either way. -/
def post (id q kind status : Nat) (cookie : W32) (pos : W64) (p0 p1 : W32) (s : State) : State :=
  let k := qid id q
  let x := s.queue k
  if !x.present then s else
    let seq := x.seq + 1
    let bytes := completionBytes kind status id cookie pos p0 p1 seq
    let full := decide (x.depth ≤ x.held)
    let s := if full then s else writeMem 1 (x.base + 32 * (x.tail.toNat % x.depth)) bytes s
    let s := s.modQueue k fun x =>
      { x with seq := seq, lost := if full then satInc x.lost else x.lost, tail := if full then x.tail else x.tail + 1 }
    match (s.stream id).cplDest with
    | some e => sendTo e 0x41 0xFF 0xFFFF (BitVec.ofNat 64 k) bytes s
    | none => s

/-! ## Command entries (R231, R232) -/

/-- The bytes of the n-th unconsumed entry of a stream's command queue. -/
def State.entry (s : State) (id n : Nat) : List Byte :=
  let x := s.queue (qid id 0)
  s.mem.t1.deliver (x.base + 64 * ((x.head.toNat + n) % x.depth)) 64

def entryOp (e : List Byte) : Nat := field e 0 1
def entryCount (e : List Byte) : Nat := field e 1 1
def entryCq (e : List Byte) : Nat := field e 2 1
def entryCpl (e : List Byte) : Bool := field e 3 1 % 2 == 1
def entryCookie (e : List Byte) : W32 := BitVec.ofNat 32 (field e 4 4)

/-- CQ names a completion queue of the stream (R231). -/
def cqOk (extra q : Nat) : Bool := q == 1 || (decide (3 ≤ q) && decide (q ≤ 2 + extra))

/-- An entry is malformed (R232). -/
def malformed (extra : Nat) (e : List Byte) : Bool :=
  let used := match entryOp e with
    | 1 => 8 + 8 * entryCount e
    | 2 | 3 => 12
    | _ => 8
  let op := entryOp e
  !(decide (1 ≤ op) && decide (op ≤ 5)) ||
  (if op == 1 then !(decide (1 ≤ entryCount e) && decide (entryCount e ≤ 7)) else entryCount e != 0) ||
  !cqOk extra (entryCq e) || field e 3 1 / 2 != 0 || !allZero (e.drop used) ||
  (op == 3 && field e 8 4 / 2 ^ 20 != 0) || (op == 2 && (field e 8 4 / 2 ^ 16 != 0 || field e 8 4 == 0))

/-- The head entry is consumed: a free entry, the record cursor back to 0, one entry fewer among those whose records are
placed; a CONSUMED completion where asked, to queue 1 where CQ names no completion queue (R231, R232). -/
def consumeHead (id status : Nat) (always : Bool) (s : State) : State :=
  let e := s.entry id 0
  let cq := if cqOk (s.stream id).inp.extraCq (entryCq e) then entryCq e else 1
  let s := s.modQueue (qid id 0) fun x => { x with head := x.head + 1 }
  let s := s.modStream id fun x => { x with inp := { x.inp with placed := x.inp.placed - (if entryOp e = 1 then entryCount e else 0), consumed := 0 } }
  if always || entryCpl e then
    post id cq 1 status (entryCookie e) s.tl.pos (BitVec.ofNat 32 (entryOp e)) 0 s
  else s

/-- The check of each entry that reaches the head: malformed ones are consumed without effect (R232). A restored context's
entries come first: none reaches the head before them (R252, R254). -/
def settleHead (id : Nat) : Nat → State → State
  | 0, s => s
  | fuel + 1, s =>
    if (s.queue (qid id 0)).held = 0 || (s.stream id).busy.isSome then s
    else if malformed (s.stream id).inp.extraCq (s.entry id 0) then settleHead id fuel (consumeHead id 1 true s)
    else s

/-- The unconsumed entries, in push order. -/
def State.entries (s : State) (id : Nat) : List (List Byte) := (List.range (s.queue (qid id 0)).held).map (s.entry id)

/-- Records of an entry that still count as unconsumed. -/
def recordsOf (extra : Nat) (e : List Byte) : Nat := if malformed extra e then 0 else if entryOp e = 1 then entryCount e else 0

/-- The entries before the first END, and that END. -/
def beforeEnd (extra : Nat) : List (List Byte) → List (List Byte) × Option (List Byte)
  | [] => ([], none)
  | e :: t =>
    if entryOp e = 2 && !malformed extra e then ([], some e)
    else let (l, x) := beforeEnd extra t; (e :: l, x)

/-- Unconsumed records ahead of any END, and whether an END is queued (R235). -/
def State.textAhead (s : State) (id : Nat) : Nat × Bool :=
  let x := s.stream id
  let (l, e) := beforeEnd x.inp.extraCq (s.entries id)
  ((l.map (recordsOf x.inp.extraCq)).sum - x.inp.consumed, e.isSome)

/-- The text input of the next slot is present (R235). -/
def State.textPresent (s : State) (id : Nat) : Bool :=
  let x := s.stream id
  if x.state == .draining then true
  else let (n, e) := s.textAhead id; decide (x.inp.lookahead.toNat < n) || (e && n == 0)

/-! ## Profiles (R246 to R251) -/

/-- Open streams that pin a profile, and ARMED VOICE actions (R248, R256). -/
def State.streamPins (s : State) (p : Nat) : Nat := (s.streams.filter fun e => e.2.pinned && e.2.voice.toNat == p).length
def State.pins (s : State) (p : Nat) : Nat := s.streamPins p + (s.profile p).armPins

/-- Voice-cache slots in use: RESIDENT copies and fetches in progress. -/
def State.cacheUsed (s : State) (i : Nat) : Bool := s.profiles.any fun e => e.2.slot == some i || e.2.fetching == some i
def State.cacheFree (s : State) : Option Nat :=
  if (s.profiles.filter fun e => e.2.slot.isSome || e.2.fetching.isSome).length < 65536 then lowestFree s.cacheUsed 65536 0 else none
/-- The unpinned RESIDENT profile released, or fetched, first; ties to the lower slot (R248). -/
def State.evictable (s : State) : Option (Nat × Nat) :=
  s.profiles.foldl (fun (best : Option (Nat × Nat)) e =>
    match e.2.slot with
    | none => best
    | some i =>
      if s.pins e.1 != 0 then best else
        match best with
        | none => some (e.1, i)
        | some (b, j) =>
          let f := (s.profile b).freed
          if e.2.freed < f || (e.2.freed = f && i < j) then some (e.1, i) else best) none

/-- A profile is or can be made resident. -/
def State.placeable (s : State) (p : Nat) : Bool :=
  let x := s.profile p
  x.slot.isSome || x.fetching.isSome || s.cacheFree.isSome || s.evictable.isSome

/-- Start making a profile RESIDENT: take a free cache slot, or evict (R248). -/
def startFetch (p : Nat) (s : State) : State :=
  let x := s.profile p
  if x.slot.isSome || x.fetching.isSome || !x.stored then s
  else match s.cacheFree with
    | some i => s.modProfile p fun x => { x with fetching := some i }
    | none => match s.evictable with
      | some (v, i) => (s.modProfile v fun x => { x with slot := none }).modProfile p fun x => { x with fetching := some i }
      | none => s

/-- A pin of a profile is released: the order of the release is kept (R248). -/
def released (p : Nat) (s : State) : State :=
  { (s.modProfile p fun x => { x with freed := s.orders }) with orders := s.orders + 1 }

def unpin (id : Nat) (s : State) : State :=
  let x := s.stream id
  if x.pinned then released x.voice.toNat (s.modStream id fun x => { x with pinned := false }) else s

/-- The stream's pin moves to a new profile (R248). -/
def moveVoice (id : Nat) (p : BitVec 20) (s : State) : State :=
  startFetch p.toNat ((unpin id s).modStream id fun x => { x with voice := p, pinned := true })

/-- A profile ID exists for an open or a VOICE (R241, R251). -/
def State.profileOk (s : State) (p : Nat) : Bool := decide (p < s.profCap.toNat) && (s.profile p).stored

/-! ## Load (R167, R173) -/

/-- The stream's share of load, and its key/value area, are given back (R173, R283). -/
def releaseLoad (id : Nat) (s : State) : State :=
  let x := s.stream id
  if !x.holdsLoad then s else
    let s := s.setOnPlan x.plan.toNat ((s.onPlan x.plan.toNat).filter (· != id))
    s.modStream id fun x => { x with holdsLoad := false, area := none }

/-- A stage's step serves the stream. -/
def stepServes (id : Nat) (t : Step) : Bool := t.rows.any fun r => r.stream == id && !r.masked

/-- Waiting changes go; the pin a waiting VOICE action's arm took is released (R248, R271). -/
def dropAttach (id : Nat) (s : State) : State :=
  let l := (s.stream id).run.attach
  let s := s.modStream id fun x => { x with run := { x.run with attach := [] } }
  s.each l fun s a => match a with
    | .voice p true => released p.toNat (s.modProfile p.toNat fun x => { x with armPins := x.armPins - 1 })
    | _ => s

/-- The stream's rows are masked on every stage. -/
def maskRows (id : Nat) (s : State) : State :=
  { s with stages := cmap {} (fun _ g => { g with steps := g.steps.map fun t =>
      { t with rows := t.rows.map fun r => if r.stream == id then { r with masked := true } else r } }) s.stages }

/-- Send one signal record to the other end of a link. -/
def sendSignal (dst : Peer) (kind link : Nat) (arg : W32) (s : State) : State :=
  match dst with
  | .kryter k => queueSignals k [signalRecord kind link arg] s
  | .dev w => sendDev w 0x51 65536 0 (signalRecord kind link arg) s
  | .here => s

/-! ## The tiles a step awaits (R175) -/

/-- The links whose first tile a step's first segment reads: those of the first record that reads any (DEDUCED;
notes/assumptions/68.md). -/
def ProgEnt.firstReads (g : ProgEnt) : List Nat := (((g.recs.map Rec.reads).find? (!·.isEmpty)).getD []).eraseDups

/-- Tiles in the buffers of a link. -/
def State.tilesIn (s : State) (l : Nat) : Nat := (s.linkSt l).full + (s.linkSt l).fullQ.length

/-- Tiles that a step claims before it can run, by link: of a WAIT step those it awaits, of one not selected yet one of each
link of its first segment. -/
def State.claims (s : State) (t : Step) : List (Nat × Nat) :=
  match t.await with
  | some l => if t.need = 0 then [] else [(l, t.need)]
  | none =>
    if t.period.isSome then [] else (((s.img.prog? t.prog).map ProgEnt.firstReads).getD []).map fun l => (l, 1)

/-- A claim can be met, with `taken` tiles of the link claimed by the steps before. The tiles of a weight stream come in the
order of its blocks: a step's next one has come when it is the first. -/
def State.canMeet (s : State) (t : Step) (taken l n : Nat) : Bool :=
  let x := s.linkSt l
  if l < 65536 then decide (taken + n ≤ s.tilesIn l) else x.released == t.wfrom + t.wdone && x.full != 0

/-- A producer of a link can give it a tile (R195, R196): a buffer is free, or, towards other devices, no tile waits for one;
what leaves by the output ring waits for none. -/
def State.bufferFree (s : State) (l : Nat) : Bool :=
  match s.img.link? l with
  | some e =>
    if e.transport = 4 then true
    else if e.transport = 2 || e.transport = 3 then (s.kimg l).tiles.isEmpty
    else if e.chain = 0 then (s.linkSt l).empty != 0 else !(s.linkSt l).freeQ.isEmpty
  | none => true

/-- The steps of a stage in order, each with the links it lacks tiles of: a link's tiles go to the steps in the order in
which they read them. -/
def State.allot (s : State) (stage : Nat) : List (Step × List Nat) :=
  ((s.stage stage).steps.foldl (fun (acc : List (Step × List Nat) × List (Nat × Nat)) t =>
    let cs := s.claims t
    let lack := cs.filter fun x => !s.canMeet t ((acc.2.filter (·.1 == x.1)).map (·.2)).sum x.1 x.2
    (acc.1 ++ [(t, lack.map (·.1))], acc.2 ++ cs)) ([], [])).1

/-- Tiles of a stage's weight stream that no step is left to read leave its window (R194). -/
def sweepWindow (stage : Nat) (s : State) : State :=
  let x := s.linkSt (weightLink stage)
  let owned := fun (n : Nat) => (s.stage stage).steps.any fun t => decide (t.wfrom + t.wdone ≤ n) && decide (n < t.wfrom + t.wtiles)
  let n := ((List.range x.full).takeWhile fun i => !owned (x.released + i)).length
  if n = 0 then s else s.modLink (weightLink stage) fun l => { l with
    released := l.released + n, full := l.full - n, empty := l.empty + n
    readIdx := (l.readIdx + n) % 16, readLap := l.readLap + (l.readIdx + n) / 16 }

/-- PEND and WAIT steps that lack no tile, or wait for a buffer that is free, become READY (R175, R177). -/
def wakeStage (stage : Nat) (s : State) : State :=
  let s := sweepWindow stage s
  let steps := (s.allot stage).map fun (t, lack) =>
    let held := t.need == 0 && t.await.any fun (l : Nat) => !(s.bufferFree l)
    if (t.state == .pend || t.state == .wait) && lack.isEmpty && held == false then { t with state := .ready } else t
  s.modStage stage fun g => { g with steps := steps }

/-- Both ends of a link, or of a stage's weight stream, look again. -/
def wakeFlow (l : Nat) (s : State) : State :=
  match s.img.flow? l with
  | some e => wakeStage e.cons (wakeStage e.prod s)
  | none => s

/-! ## Steps that leave before they ran (R173, R178, R179) -/

/-- A buffer that a removed step held goes back to its producer (R179, R195, R196). -/
def freeHeld (s : State) (x : Nat × W32) : State :=
  let chain := ((s.img.flow? x.1).map (·.chain)).getD 0
  let top := ((s.img.flow? x.1).map (·.buffers)).getD 0
  let i := x.2.toNat % 65536
  let s := s.modLink x.1 fun l =>
    let l := { l with released := l.released + 1, gaps := l.gaps.filter (· != x.2.toNat) }
    let g : W16 := cget 0 l.gens i
    if chain = 0 then { l with empty := min top (l.empty + 1) }
    else if g.toNat = x.2.toNat / 65536 then
      { l with gens := cput 0 i (g + 1) l.gens, freeQ := l.freeQ ++ [BitVec.ofNat 32 ((g + 1).toNat * 65536 + i)] }
    else { l with stale := satInc l.stale }
  match (s.kimg x.1).src with
  | some p => if chain = 0 then sendSignal p 1 x.1 1 s else sendSignal p 2 x.1 x.2 s
  | none => s

/-- What tells a step from every other, larger for what comes later in the order of R174 among a plan's steps; a data
descriptor keeps it to say which step its tile is for. -/
def Step.key (t : Step) : Nat :=
  ((((t.run * 2 ^ 64 + t.round) * 16 + t.kidx) * 256 + t.rep) * 65536 + t.batch) * 64 + t.plan
def Step.same (a b : Step) : Bool :=
  a.plan == b.plan && a.kidx == b.kidx && a.rep == b.rep && a.batch == b.batch && a.round == b.round && a.run == b.run

/-- Steps leave every stage, but for one in RUN: what they held is free, and text not yet fetched for them stays where it
is. -/
def dropSteps (f : Step → Bool) (s : State) : State :=
  let go := fun (t : Step) => f t && t.state != .run
  let gone := s.stages.flatMap fun g => g.2.steps.filter go
  let keys := gone.map Step.key
  let s := { s with
    stages := cmap {} (fun _ g => { g with steps := g.steps.filter fun t => !go t }) s.stages
    bellows := { s.bellows with channels := cmap {} (fun _ c =>
      { c with data := c.data.filter fun d => !(d.role == 4 && keys.contains d.tid) }) s.bellows.channels } }
  let s := s.each (gone.flatMap (·.bufs)) freeHeld
  s.each (s.stages.map (·.1)) fun s g => wakeStage g s

/-- Streams with an unmasked row. -/
def Step.streams (t : Step) : List Nat := (t.rows.filter (!·.masked)).map (·.stream)

/-- Every row of a step is masked. -/
def Step.dead (t : Step) : Bool := t.rows.all (·.masked)

/-- A single-stream plan has no round to wait for: once a stream of it is gone its steps leave, but for one in RUN, which
ends; the load is released when there is none (R173, R178; notes/assumptions/70.md). -/
def releaseIfSingle (id : Nat) (s : State) : State :=
  match s.plan? (s.stream id).plan.toNat with
  | some p =>
    if p.kind ≠ 1 then s else
      let own := fun (t : Step) => t.plan == p.plan && t.dead
      let s := dropSteps own s
      if s.stages.any fun g => g.2.steps.any own then s else releaseLoad id s
  | none => releaseLoad id s

/-! ## Abort (R237, R271, R368) -/

/-- RUNNING or DRAINING; ADMITTED or STOPPED. -/
def stMoving (x : StState) : Bool := x == .running || x == .draining
def stStill (x : StState) : Bool := x == .admitted || x == .stopped

def actionOp (a : BitVec 128) : Nat := bitsOf a.toNat 0 8
def actionTarget (a : BitVec 128) : Nat := bitsOf a.toNat 16 16
def actionArg0 (a : BitVec 128) : Nat := bitsOf a.toNat 32 32
def actionArg1 (a : BitVec 128) : W64 := BitVec.ofNat 64 (a.toNat / 2 ^ 64)
/-- The action targets a stream (not a SAP port). -/
def actionOnStream (a : BitVec 128) : Bool := actionOp a != 0x10

/-- A deadline that stands for "the next token of an unpaced stream" (R272). -/
def nextToken : W64 := BitVec.allOnes 64

/-- The actions of an armed transaction on an aborted stream lapse, and it has lost a target, whether or not they took
effect before; the pin of a VOICE that has not attached is released (R271, R276). -/
def lapse (id : Nat) (s : State) : State :=
  s.each s.txn.set fun s t =>
    let on := fun (a : BitVec 128) => actionOnStream a && actionTarget a == id
    if t.armed && t.actions.any on then
      let flags := (t.actions.zip t.applied).map fun (a, ap) => on a && !ap
      let first := if flags.contains true then flags.idxOf true else (t.actions.map on).idxOf true
      let s := s.each (t.actions.zip (t.deadlines.zip t.applied)) fun s (a, d, ap) =>
        if on a && !ap && actionOp a == 1 && d != nextToken then
          let p := actionArg0 a % 2 ^ 20
          released p (s.modProfile p fun x => { x with armPins := x.armPins - 1 })
        else s
      let t' := { t with applied := (t.applied.zip flags).map (fun x => x.1 || x.2), lost := if t.lost.isSome then t.lost else some first }
      let s := { s with txn := { s.txn with set := s.txn.set.map fun u => if u.id = t.id then t' else u } }
      record 0x0C02 t.id (BitVec.ofNat 32 id) (BitVec.ofNat 32 first) 0 s
    else s

/-- Descriptors of an aborted stream end with status 0x08; a wait of the head ends with it (R189, R199). -/
def dropDescs (id : Nat) (s : State) : State :=
  let own := fun (d : Desc) => !d.noStream && d.stream == id
  let drop := fun (c : Channel) =>
    let n := (c.control.filter own).length
    { c with
      state := if c.state == .wait && (c.control.head?).any own then .idle else c.state
      control := c.control.filter fun d => !own d
      data := c.data.filter fun d => !own d
      lastSeq := c.lastSeq + BitVec.ofNat 16 n
      lastStatus := if n = 0 then c.lastStatus else 0x08 }
  { s with bellows := { s.bellows with channels := cmap {} (fun _ c => drop c) s.bellows.channels } }

/-- The stream leaves the spill pools; a released tile goes to the first waiter (R197). -/
def leaveSpill (id : Nat) (s : State) : State :=
  let leave := fun (p : Spill) =>
    let w := p.waiting.filter (· != id)
    let h := p.holders.filter (· != id)
    if p.holders.contains id then { p with holders := h ++ w.take 1, waiting := w.drop 1 } else { p with waiting := w }
  { s with bellows := { s.bellows with spill := cmap {} (fun _ p => leave p) s.bellows.spill } }

/-- What a stream abort does on this device (R237); a hold stays until DONE (R270). -/
def abortHere (id cause : Nat) (p0 p1 : W32) (s : State) : State :=
  let s := s.modLive fun c => { c with aborts := satInc c.aborts }
  let s := post id 1 5 cause 0 s.tl.pos p0 p1 s
  let s := record 0x0203 (BitVec.ofNat 32 id) (BitVec.ofNat 32 cause) p0 p1 s
  let s := leaveSpill id (dropDescs id (lapse id (dropAttach id (maskRows id (unpin id s)))))
  let s := s.modStream id fun x =>
    { x with state := .aborted, busy := none, run := { x.run with tokens := [], attach := [], halt := true, oldLeft := none } }
  releaseIfSingle id s

/-- States an abort can find: ADMITTED to PARKED (R243). -/
def abortable : StState → Bool
  | .admitted | .running | .draining | .stopped | .parked => true
  | _ => false

/-- A stream aborts; the abort of a part of a ring stream goes to the other members and the owner (R237, R368). -/
def abortStream (id cause : Nat) (p0 p1 : W32) (s : State) : State :=
  let x := s.stream id
  if !abortable x.state then s else
    let plan := x.plan.toNat
    let g := s.groupOf plan
    let s := abortHere id cause p0 p1 s
    if g ≤ 1 then s else
      let (own, st, i) := match x.ring with
        | some o => (o.owner, o.stream, o.member)
        | none => (s.eth.devAddr, BitVec.ofNat 16 id, 0)
      sendRingAll plan g (ringBytes 2 cause st own plan i s.img.id p0 p1) s

/-! ## The end of text, STOP and DRAINED (R234, R235, R243) -/

/-- Position after the last sample of a token's slot; an unpaced stream's slots have no positions, and what they cause stands
at TL. -/
def State.tokenEnd (s : State) (id : Nat) (t : Token) : W64 :=
  match s.plan? (s.stream id).plan.toNat with
  | some p => if p.kind = 0 then t.pos + BitVec.ofNat 64 p.period else s.tl.pos
  | none => s.tl.pos

/-- First position of the slot that comes next, or its first sample's number in a single-stream plan (R171, R245). -/
def State.nextPos (s : State) (id : Nat) (p : PlanEnt) : W64 :=
  let x := s.stream id
  if p.kind = 0 then x.run.pos0.getD 0 + BitVec.ofNat 64 (x.run.slot.toNat * p.period)
  else BitVec.ofNat 64 (x.run.slot.toNat * p.spt)

/-- MARK takes effect (R234): it waits on the last token created, or is posted at once where that one has left or none has
been created since START. -/
def takeMark (id cq : Nat) (cookie : W32) (s : State) : State :=
  let x := s.stream id
  if x.run.created = 0 then post id cq 2 0 cookie s.tl.pos 0xFFFFFFFF 0 s
  else match (x.run.tokens.filter (!·.empty)).getLast? with
    | some t => s.modStream id fun x => { x with run := { x.run with
        tokens := x.run.tokens.map fun u => if u.round = t.round then { u with marks := u.marks ++ [(cq, cookie)] } else u } }
    | none => post id cq 2 0 cookie x.run.lastEnd x.run.lastSlot 0 s

/-- One entry that is no FEATURES and no END takes effect (R234, R249). A VOICE attaches to the token being created. -/
def takeEntry (id : Nat) (e : List Byte) (s : State) : State :=
  match entryOp e with
  | 3 =>
    let p := field e 8 4 % 2 ^ 20
    if s.profileOk p && s.placeable p then
      consumeHead id 0 false (s.modStream id fun x => { x with run := { x.run with attach := x.run.attach ++ [.voice (BitVec.ofNat 20 p) false] } })
    else consumeHead id 2 true s
  | 4 => consumeHead id 0 false (s.modStream id fun x => { x with run := { x.run with attach := x.run.attach ++ [.reset] } })
  | 5 => consumeHead id 0 false (takeMark id (entryCq e) (entryCookie e) s)
  | _ => s

/-- Head entries that are no FEATURES and no END take effect, in push order. -/
def takeEntries (id : Nat) : Nat → State → State
  | 0, s => s
  | fuel + 1, s =>
    let s := settleHead id (s.queue (qid id 0)).held s
    if (s.queue (qid id 0)).held = 0 then s else
      let e := s.entry id 0
      if 3 ≤ entryOp e then takeEntries id fuel (takeEntry id e s) else s

/-- From the first cycle in which every record before an END is consumed while the stream is RUNNING, it is DRAINING; END
takes effect and is consumed (R234, R235). -/
def checkDrain (id : Nat) (s : State) : State :=
  let s := settleHead id (s.queue (qid id 0)).held s
  let (n, e) := s.textAhead id
  if (s.stream id).state == .running && e && n == 0 then
    let s := takeEntries id (s.queue (qid id 0)).held s
    let tail := field (s.entry id 0) 8 4
    consumeHead id 0 false (s.modStream id fun x =>
      { x with state := .draining, inp := { x.inp with tailLeft := some tail } })
  else s

/-- Granules of one slot (R289). -/
def PlanEnt.granules (p : PlanEnt) : Nat := ceilDiv (4 * p.spt) 512

/-- Write a token's slot into the output ring with its tags (R245, R316, R317). Slots in the ring: TAIL. -/
def writeSlot (id : Nat) (t : Token) (p : PlanEnt) (bytes : List Byte) (s : State) : State :=
  let k := qid id 2
  let x := s.queue k
  if !x.present then s else
    let g := p.granules
    let a := x.base + (x.tail.toNat % x.depth) * (g * 512)
    let s := writeTagged 1 a (slice 0 (g * 512) bytes) id false (fun n => t.slot * g + (n - a / 512)) s
    let s := s.modQueue k fun x => { x with tail := x.tail + 1 }
    s.modStream id fun x => { x with run := { x.run with
      tokens := x.run.tokens.map fun u => if u.round = t.round then { u with written := true } else u } }

/-- The stream becomes STOPPED and DRAINED is posted (R235, R243). `pos`: where. Empty slots that have not left are written
(R245) and leave the ring with it, for a STOPPED stream produces no output (R242; notes/assumptions/71.md). -/
def postDrained (id : Nat) (pos : W64) (s : State) : State :=
  let s := match s.plan? (s.stream id).plan.toNat with
    | some p => s.each ((s.stream id).run.tokens.filter (!·.written)) fun s t => writeSlot id t p [] s
    | none => s
  let s := post id 1 3 0 0 pos (BitVec.ofNat 32 (s.stream id).run.left) 0 s
  let s := s.modQueue (qid id 2) fun q => { q with head := q.tail }
  s.modStream id fun x => { x with
    state := .stopped
    inp := { x.inp with tailLeft := none }
    run := { x.run with tokens := [], attach := x.run.attach.filter (· != .stop), halt := true } }

/-- Once no token is created any more and every created one has left, the stream is drained (R235, R243); under a
transaction's STOP, once every slot has (R267). -/
def checkDrained (id : Nat) (pos : W64) (s : State) : State :=
  let x := s.stream id
  let ended := if x.run.stopAll then x.run.tokens.isEmpty else x.run.tokens.all (·.empty)
  if (x.state == .running || x.state == .draining) && x.run.halt && ended then postDrained id pos s else s

/-! ## The start rule (R170) -/

/-- Earliest acceptable start at P. -/
def earliestStart (p : PlanEnt) (pos : Nat) : Nat := (ceilDiv pos p.period + p.nlevels) * p.period

/-- The refusal code of a start position at P, or none (R169 0x05 and 0x06, R170). -/
def startRefusal (p : PlanEnt) (start pos : Nat) : Option Nat :=
  if start / p.period < p.nlevels || (start / p.period - p.nlevels) * p.period < pos then some 5
  else if start % ratioOf p.rate ≠ 0 then some 6
  else none

/-- The stream becomes RUNNING from S (R170, R243); changes that wait attach to its first token (R234, R267), and the next
RTP packet carries the marker bit (R342). Where a transaction stopped the stream at this very slot, the slots of the run
before still leave, and DRAINED follows the last of them (R267). -/
def beginRun (id : Nat) (p : PlanEnt) (start : W64) (s : State) : State :=
  let x := s.stream id
  let again := x.state == .running || x.state == .draining
  let old := if again then x.run.tokens.map fun t => { t with old := true } else []
  let s := if again && old.isEmpty then post id 1 3 0 0 start (BitVec.ofNat 32 x.run.left) 0 s else s
  checkDrain id (s.modStream id fun x => { x with
    state := .running, startPos := start
    inp := { x.inp with tailLeft := none }
    bind := x.bind.map fun b => { b with marker := true }
    run := { pos0 := some start, rho := start.toNat / p.period - p.nlevels, attach := x.run.attach.filter (· != .stop)
             tokens := old, oldLeft := if old.isEmpty then none else some x.run.left, round := x.run.round } })

/-! ## Stream commands (R243) -/

/-- The stream the writing session's STREAM_SEL selects. -/
def State.selStream (s : State) (r : Nat) : Nat := (s.sess r).sel.stream.toNat

/-- STREAM_STATUS.CMD_ERR of a stream ID. -/
def streamErr (id : Nat) (s : State) : State := s.modStream id fun x => { x with cmdErr := true }

def setResult (id code detail : Nat) (s : State) : State :=
  s.modStream id fun x => { x with result := BitVec.ofNat 8 code, detail := BitVec.ofNat 8 detail }

/-- A command on a stream that no park or restore, no transaction and no ring ownership bars (R243, R270, R368). -/
def cmdFree (x : Stream) : Bool := x.busy.isNone && x.held.isNone && x.ring.isNone

def doStart (id : Nat) (s : State) : State :=
  let x := s.stream id
  match s.plan? x.plan.toNat with
  | some p =>
    if cmdFree x && (x.state == .admitted || x.state == .stopped) then
      match startRefusal p x.startPos.toNat s.pos with
      | some c => setResult id c 0 (s.modStream id fun x => { x with earliest := BitVec.ofNat 64 (earliestStart p s.pos) })
      | none => beginRun id p x.startPos (setResult id 0 0 s)
    else streamErr id s
  | none => streamErr id s

def doStop (id : Nat) (s : State) : State :=
  let x := s.stream id
  if cmdFree x && (x.state == .running || x.state == .draining) then
    let s := s.modStream id fun x => { x with run := { x.run with halt := true } }
    if x.run.created = 0 then postDrained id s.tl.pos s else checkDrained id x.run.lastEnd s
  else streamErr id s

def doClose (id : Nat) (s : State) : State :=
  let x := s.stream id
  if x.isOpen && x.state != .closing && x.held.isNone && x.ring.isNone then
    let plan := x.plan.toNat
    let g := s.groupOf plan
    let s := if g ≤ 1 then s else
      sendRingAll plan g (ringBytes 3 0 (BitVec.ofNat 16 id) s.eth.devAddr plan 0 s.img.id 0 0) s
    let s := leaveSpill id (dropDescs id (dropAttach id (maskRows id (unpin id s))))
    releaseIfSingle id (s.modStream id fun x =>
      { x with state := .closing, busy := none, run := { x.run with tokens := [], attach := [], halt := true } })
  else streamErr id s

def doAbort (r id : Nat) (s : State) : State :=
  if abortable (s.stream id).state then abortStream id 4 (BitVec.ofNat 32 (if r = 8 then 0xFF else r)) 0 s else streamErr id s

def execStop (r : Nat) (s : State) : Result := byReader .session r (fun s => doStop (s.selStream r) s) s
def execClose (r : Nat) (s : State) : Result := byReader .session r (fun s => doClose (s.selStream r) s) s
def execAbort (r : Nat) (s : State) : Result := byReader .session r (fun s => doAbort r (s.selStream r) s) s

/-- What a stream carries from step to step goes (the keys of State.cells, State.resident, State.cleared and State.fed). -/
def dropCarried (id : Nat) (s : State) : State :=
  { s with
    cells := s.cells.filter fun e => e.1 / 2 ^ 24 != id
    resident := s.resident.filter fun e => e.2 != id + 1
    cleared := s.cleared.filter fun e => e.1 / 2 ^ 32 != id
    fed := s.fed.filter fun e => e.1 / 2 ^ 32 != id }

/-! ## The stream window's writes (R244) -/

/-- States in which a seed or INV_T commits, and in which a start or park position does. -/
def seedStates (x : Stream) : Bool :=
  (x.state == .admitted || x.state == .running || x.state == .draining || x.state == .stopped) && x.held.isNone
def startStates (x : Stream) : Bool :=
  x.state == .admitted || x.state == .running || x.state == .draining || x.state == .stopped || x.state == .parked

/-- FP32, finite and above 0. -/
def fpFinitePos (v : W32) : Bool := !v.getLsbD 31 && decide (0 < v.toNat) && decide (v.toNat < 0x7F800000)

def writeLoHalf (r off : Nat) (v : W32) (s : State) : State :=
  s.modSess r fun x => { x with sel := match off with
    | 0x2010 => { x.sel with seedLo := v }
    | 0x201C => { x.sel with startLo := v }
    | 0x202C => { x.sel with parkLo := v }
    | _ => x.sel }

def writeSeedHi (r : Nat) (v : W32) (s : State) : State :=
  let id := s.selStream r
  if seedStates (s.stream id) then s.modStream id fun x => { x with seed := join v (s.sess r).sel.seedLo } else streamErr id s

def writeInvT (r : Nat) (v : W32) (s : State) : State :=
  let id := s.selStream r
  if seedStates (s.stream id) && fpFinitePos v then s.modStream id fun x => { x with invT := v } else streamErr id s

def writeStartHi (r : Nat) (v : W32) (s : State) : State :=
  let id := s.selStream r
  if startStates (s.stream id) then s.modStream id fun x => { x with startPos := join v (s.sess r).sel.startLo } else streamErr id s

def writeParkHi (r : Nat) (v : W32) (s : State) : State :=
  let id := s.selStream r
  if startStates (s.stream id) then
    s.modStream id fun x => { x with park := join (v &&& 0xC000FFFF) (s.sess r).sel.parkLo }
  else streamErr id s

def execStreamLoHalfWrite (r : Nat) (off v : W32) (s : State) : Result := byReader .session r (fun s => writeLoHalf r off.toNat v s) s
def execStreamSeedHi (r : Nat) (v : W32) (s : State) : Result := byReader .session r (fun s => writeSeedHi r v s) s
def execStreamInvT (r : Nat) (v : W32) (s : State) : Result := byReader .session r (fun s => writeInvT r v s) s
def execStreamStartHi (r : Nat) (v : W32) (s : State) : Result := byReader .session r (fun s => writeStartHi r v s) s
def execStreamParkHi (r : Nat) (v : W32) (s : State) : Result := byReader .session r (fun s => writeParkHi r v s) s

/-- QUEUE_HEAD of the session's selected queue (R256): only completion queues, only within [HEAD, TAIL]. -/
def writeQueueHead (r : Nat) (v : W32) (s : State) : State :=
  let k := (s.sess r).sel.queue.toNat
  let x := s.queue k
  if k % 32 = 0 || k % 32 = 2 || !x.present then s
  else if (v - x.head).toNat ≤ x.held then s.modQueue k fun x => { x with head := v }
  else s.modSess r fun y => { y with sel := { y.sel with queueCmdErr := true } }

def execQueueHead (r : Nat) (v : W32) (s : State) : Result := byReader .session r (fun s => writeQueueHead r v s) s

/-! ## The stream window's reads (R257) -/

def stStateCode : StState → Nat
  | .free => 0 | .admitted => 1 | .running => 2 | .draining => 3
  | .stopped => 4 | .parked => 5 | .aborted => 6 | .closing => 7

/-- A pair reads what is in force: STREAM_PARK, like STREAM_SEED and STREAM_START, the last committed value, also between a
write of LO and the commit, or after a commit that was refused (DESIGN CHOICE: R4 and R257 leave it open;
notes/assumptions/58.md). -/
def readStream (r off : Nat) (s : State) : W32 :=
  let x := s.stream (s.selStream r)
  match off with
  | 0x2000 => at_ 29 (stStateCode x.state) ||| bitAt 28 x.busy.isSome ||| at_ 16 x.plan.toNat ||| x.keyId.setWidth 32
  | 0x2008 => bitAt 16 x.cmdErr ||| at_ 8 x.detail.toNat ||| x.result.setWidth 32
  | 0x200C => x.voice.setWidth 32
  | 0x2010 => lo32 x.seed
  | 0x2014 => hi32 x.seed
  | 0x2018 => x.invT
  | 0x201C => lo32 x.startPos
  | 0x2020 => hi32 x.startPos
  | 0x2024 => lo32 x.earliest
  | 0x2028 => hi32 x.earliest
  | 0x202C => lo32 x.park
  | 0x2030 => hi32 x.park
  | 0x2034 => BitVec.ofNat 32 x.step.toNat
  | 0x2038 => BitVec.ofNat 32 (x.step.toNat / 2 ^ 32)
  | 0x203C => x.run.slot
  | 0x2040 => x.ctxTokens
  | 0x2044 => x.emptySl
  | 0x2048 => x.zeroSl
  | 0x204C => x.emptyTot
  | 0x2050 => lo32 x.openPos
  | 0x2054 => hi32 x.openPos
  | _ => 0

end Sys2Proof.Machine
end

