-- ==== Sys2Proof/Machine/TxnSet.lean ====
section
/-! DEFINITION. The pending set of transactions and its outcomes (R265, R267, R270, R271, R274). -/

namespace Sys2Proof.Machine

def State.modTxn (s : State) (f : TxnUnit → TxnUnit) : State := { s with txn := f s.txn }

/-- The first outcome of an ID: the outcomes of the last 1,024 IDs are kept, newest first (R274). -/
def newOutcome (o : TxnOutcome) (s : State) : State := s.modTxn fun u => { u with outcomes := (o :: u.outcomes).take 1024 }
/-- A later outcome of an ID, which takes the place of the one before while the ID is among the last 1,024 (R274). -/
def setOutcome (o : TxnOutcome) (s : State) : State :=
  s.modTxn fun u => { u with outcomes := u.outcomes.map fun p => if p.id == o.id then o else p }

/-- Replace a transaction of the set. -/
def putTxn (t : Txn) (s : State) : State :=
  s.modTxn fun u => { u with set := u.set.map fun v => if v.id == t.id then t else v }

/-- Streams a transaction's actions name. -/
def Txn.targets (t : Txn) : List Nat := (t.actions.filter actionOnStream).map actionTarget

/-- A stream's hold: some ARMED transaction that names it (R270). -/
def holderOf (id : Nat) (s : State) : Option W32 :=
  ((s.txn.set.filter fun t => t.armed && t.targets.contains id).head?).map (·.id)

/-- Holds follow the set: they begin at the arm and end at DONE, also where the stream has aborted (R270). -/
def refreshHolds (ids : List Nat) (s : State) : State :=
  s.each ids fun s id =>
    let h := holderOf id s
    if (s.stream id).isOpen then s.modStream id fun x => { x with held := h } else s

/-- A transaction leaves the set with an outcome; its holds end (R265, R267, R273). -/
def finishTxn (t : Txn) (st : TxnState) (code idx : Nat) (s : State) : State :=
  let s := s.modTxn fun u => { u with set := u.set.filter (·.id != t.id) }
  refreshHolds t.targets (setOutcome ⟨t.id, st, BitVec.ofNat 8 code, BitVec.ofNat 6 idx⟩ s)

/-- DONE, with TARGET_LOST where a target aborted; the transaction interrupt (R267, R271). -/
def doneTxn (t : Txn) (s : State) : State :=
  fire 1 (match t.lost with
    | some i => finishTxn t .done 0x0C i s
    | none => finishTxn t .done 0 0 s)

/-- Immediate transactions whose last action has taken effect are DONE (R272). -/
def settleTxns (s : State) : State :=
  s.each s.txn.set fun s t => if t.armed && t.pos.isNone && t.applied.all id then doneTxn t s else s

/-- The actions on an unpaced stream that waited for its next token have taken effect (R272). -/
def markUnpaced (id : Nat) (s : State) : State :=
  settleTxns (s.modTxn fun u => { u with set := u.set.map fun t =>
    if t.armed then { t with applied := (t.actions.zip (t.deadlines.zip t.applied)).map fun (a, d, ap) =>
      ap || (actionOnStream a && actionTarget a == id && d == nextToken) } else t })

end Sys2Proof.Machine
end

