-- ==== Sys2Proof/Machine/Sched.lean ====
section
/-! DEFINITION. Step schedulers: load and admission (R165 to R170), rounds and tokens (R166, R172 to R174, R178), the
watchdog and the stage trap (R179, R180), the SCHED registers (R181). -/

namespace Sys2Proof.Machine

/-! ## Kinds, stages, load -/

/-- L_s with n admitted streams per plan (R167). -/
def stageLoad (m : Image) (n : Nat → Nat) (stage : Nat) : Nat :=
  m.plans.foldl (fun t p => (m.kindsOn p stage).foldl (fun t k =>
    match m.budget? k with
    | some b => t + kindReps k * ceilDiv (n p.plan) b.rows * b.budget
    | none => t) t) 0

/-- W_ℓ of a plan (R167). -/
def levelWork (m : Image) (p : PlanEnt) (level : Nat) : Nat :=
  p.kinds.foldl (fun t k => if kindLevel k = level then t + kindReps k * ((m.budget? k).map (·.budget)).getD 0 else t) 0

/-- C of a plan's rounds (R167). -/
def PlanEnt.capacity (p : PlanEnt) : Nat := p.period * 26000

def State.nOn (s : State) (p : Nat) : Nat := (s.onPlan p).length

/-- The budget condition of R169 0x04 with one more stream on plan p. -/
def budgetFits (p : PlanEnt) (s : State) : Bool :=
  let m := s.img
  let n := fun q => s.nOn q + if q = p.plan then 1 else 0
  (m.planStages p).all fun st =>
    let l := stageLoad m n st
    decide (l ≤ p.capacity) && m.plans.all fun q => (m.kindsOn q st).all fun k => decide (l + levelWork m q (kindLevel k) ≤ p.capacity)

/-- Plan unavailable (R169 0x02): a stage trapped, or shared with streams it may not share it with. -/
def planBarred (p : PlanEnt) (s : State) : Bool :=
  let m := s.img
  (m.planStages p).any fun st => (s.stage st).trapped ||
    m.plans.any fun q => q.plan != p.plan && s.nOn q.plan != 0 && (p.kind == 1 || q.kind == 1) && (m.planStages q).contains st

/-- The refusal code of R169 from 0x02 on, or none. -/
def admitRefusal (p : PlanEnt) (start : Option Nat) (s : State) : Option Nat :=
  if planBarred p s then some 2
  else if p.maxStreams ≤ s.nOn p.plan then some 3
  else if p.kind = 0 && !budgetFits p s then some 4
  else match start with
    | some x => startRefusal p x s.pos
    | none => none

/-! ## Creating steps (R174) -/

/-- A token's row. Its seed and INV_T are those in force when the round is created, in a single-stream plan when the token
was (R129, R174, R244). -/
def State.rowOf (s : State) (id : Nat) (p : PlanEnt) (t : Token) : Row :=
  let x := s.stream id
  { stream := id, slot := t.slot, base := t.base, chunk := t.chunk, ctx := t.ctx, rst := t.rst, voice := t.voice
    seed := if p.kind = 1 then t.seed else x.seed, invT := if p.kind = 1 then t.invT else x.invT
    masked := t.empty, last := t.last }

/-- Links by which Bellows brings a level-0 step its streams' text records (R233). -/
def Image.textLinks (m : Image) (g : ProgEnt) : List Nat :=
  g.reads.filter fun l => (m.link? l).any fun e => e.prod == 0xFFFF && decide (e.transport < 2)

/-- The tile of text records of a level-0 step joins the data queue of each link that carries them (R184, R233). -/
def queueText (t : Step) (g : ProgEnt) (s : State) : State :=
  if kindLevel t.kind ≠ 0 then s else
    s.each (s.img.textLinks g) fun s l => match s.img.linkChannel l with
      | some c => s.modChannel c fun x => { x with
          data := x.data ++ [{ role := 4, link := l, checked := true, bytes := 4096, tiles := 1, tid := t.key }] }
      | none => s

/-- A step that comes after another on a stage: later in its plan's order; of two plans' rounds that start at one position,
the larger plan's (R174, R176). -/
def State.stepAfter (s : State) (t u : Step) : Bool :=
  let start := fun (x : Step) => x.round * ((s.plan? x.plan).map PlanEnt.period).getD 0
  if u.plan = t.plan then decide (t.key < u.key) else decide (t.plan < u.plan) && start u == start t

/-- A row takes its place by the rank of its stream. -/
def insertRow (s : State) (rows : List Row) (r : Row) : List Row :=
  let before := fun (q : Row) => decide ((s.stream q.stream).order < (s.stream r.stream).order)
  rows.takeWhile before ++ [r] ++ rows.dropWhile before

/-- A step takes its place on a stage: its rows join the same step where it stands there, not selected yet. -/
def putStep (stage : Nat) (g : ProgEnt) (t : Step) (s : State) : State :=
  if (s.stage stage).steps.any (·.same t) then
    let join := fun (u : Step) => if u.same t && u.period.isNone then { u with rows := t.rows.foldl (insertRow s) u.rows } else u
    s.modStage stage fun k => { k with steps := k.steps.map join }
  else
    let later := s.stepAfter t
    (queueText t g s).modStage stage fun k => { k with
      steps := k.steps.takeWhile (fun u => !later u) ++ [t] ++ k.steps.dropWhile (fun u => !later u) }

/-- The steps of a kind for a round: REPS repetitions by batches of ROWS ranks; the reset mark on repetition 0 only (R174,
R268). `rows`: rank and row of every stream that has this level's token; `run`: the stream's admission in a single-stream
plan. -/
def addSteps (p : PlanEnt) (kidx kind round run : Nat) (rows : List (Nat × Row)) (s : State) : State :=
  match s.img.budget? kind with
  | none => s
  | some b =>
    match s.img.prog? b.prog with
    | none => s
    | some pg =>
      let batches := (rows.map fun x => x.1 / b.rows).eraseDups
      let mk := fun rep batch => ({
        plan := p.plan, kidx := kidx, kind := kind, prog := b.prog, rep := rep, batch := batch, round := round, run := run
        rows := (rows.filter fun x => x.1 / b.rows == batch).map fun x =>
          if x.2.rst && rep != 0 then { x.2 with rst := false, base := 0, ctx := 0 } else x.2 } : Step)
      let new := (List.range (kindReps kind)).flatMap fun rep => batches.map (mk rep)
      wakeStage pg.stage (s.each new fun s t => putStep pg.stage pg t s)

/-- Steps of every kind of a plan for a round; `rowsAt` gives the rows of a level. -/
def addLevels (p : PlanEnt) (round run : Nat) (rowsAt : Nat → List (Nat × Row)) (s : State) : State :=
  s.each (p.kinds.zipIdx) fun s (k, i) =>
    let rows := rowsAt (kindLevel k)
    if rows.isEmpty then s else addSteps p i k round run rows s

/-! ## Steps that await a tile of a halted channel (R199) -/

/-- While a channel stays halted, every stream with a step that awaits a tile of a link bound to it aborts with cause
0x03. -/
def sweepHalted (s : State) : State :=
  s.each (s.bellows.channels.filter fun e => e.2.state == .halted) fun s (c, x) =>
    let ls := s.img.linksOf c
    let waits := fun (y : Step × List Nat) => (y.1.state == .wait || y.1.state == .pend) && y.2.any ls.contains
    let ids := (s.stages.flatMap fun g => ((s.allot g.1).filter waits).flatMap fun y =>
      (y.1.rows.filter (!·.masked)).map (·.stream)).eraseDups
    s.each ids fun s id => abortStream id 3 (BitVec.ofNat 32 c) (x.haltCode.setWidth 32) s

/-! ## Tokens (R172, R178, R234, R267) -/

/-- The last VOICE that takes effect among the entries at the head of a queue that are no FEATURES and no END. -/
def State.headVoice (s : State) (extra : Nat) : List (List Byte) → Option (BitVec 20)
  | [] => none
  | e :: t =>
    if malformed extra e then s.headVoice extra t
    else if entryOp e < 3 then none
    else
      let p := field e 8 4 % 2 ^ 20
      (s.headVoice extra t).orElse fun _ =>
        if entryOp e = 3 && s.profileOk p && s.placeable p then some (BitVec.ofNat 20 p) else none

/-- The last VOICE that waits, of transactions or of entries. -/
def lastVoice (armed : Bool) (l : List Attach) : Option (BitVec 20) :=
  l.foldl (fun v a => match a with | .voice p k => if k = armed then some p else v | _ => v) none

/-- The profile the next token would read: an armed VOICE's, else the last of the entries that take effect at it, else the
stream's (R234, R269). A DRAINING stream reads no entry. -/
def State.nextVoice (s : State) (id : Nat) : BitVec 20 :=
  let x := s.stream id
  let queued := if x.state == .draining then none else s.headVoice x.inp.extraCq (s.entries id)
  (((lastVoice true x.run.attach).orElse fun _ => queued).orElse fun _ => lastVoice false x.run.attach).getD x.voice

/-- Every input of the next slot's level-0 kinds is present: text, voice profile, resident context (R172). -/
def State.inputsFor (s : State) (id : Nat) : Bool :=
  s.textPresent id && (s.profile (s.nextVoice id).toNat).slot.isSome && (s.stream id).busy.isNone

/-- Waiting changes attach to the token being created: those of entries, then those of transactions (R234, R267, R269).
Whether a reset is among them. -/
def attachAll (id : Nat) (s : State) : Bool × State :=
  let s := if (s.stream id).state == .draining then s else takeEntries id (s.queue (qid id 0)).held s
  let all := (s.stream id).run.attach
  let s := s.modStream id fun x => { x with run := { x.run with attach := [] } }
  let voices := fun (armed : Bool) (s : State) => s.each all fun s a => match a with
    | .voice p k =>
      if k ≠ armed then s else
        let s := moveVoice id p s
        if armed then s.modProfile p.toNat fun x => { x with armPins := x.armPins - 1 } else s
    | _ => s
  (all.contains .reset, voices true (voices false s))

/-- A level-0 token is created for slot `run.slot` (R172, R235); the stream's position count and its context positions
advance by one, from 0 at a reset mark; the token keeps the counts before it, which the positions ahead of its mark go on from
(R98, R122). -/
def createToken (id round : Nat) (p : PlanEnt) (s : State) : State :=
  let (rst, s) := attachAll id s
  let x := s.stream id
  let left := x.inp.tailLeft.map (· - 1)
  let ends := left == some 0
  let base := x.step.toNat
  let held := x.ctxTokens.toNat
  let t : Token := {
    slot := x.run.slot.toNat, round := round, rst := rst, voice := x.voice, last := ends, base := base, ctx := held
    seed := x.seed, invT := x.invT, pos := s.nextPos id p }
  let s := s.modLive fun c => { c with tokens := satInc c.tokens }
  let after := s.tokenEnd id t
  s.modStream id fun x => { x with
    step := BitVec.ofNat 48 (if rst then 1 else base + 1)
    ctxTokens := BitVec.ofNat 32 (min p.maxContext (if rst then 1 else held + 1))
    inp := { x.inp with tailLeft := left }
    run := { x.run with slot := x.run.slot + 1, created := x.run.created + 1, tokens := x.run.tokens ++ [t]
                        lastSlot := x.run.slot, lastEnd := after, round := round + 1, lateRun := false, halt := x.run.halt || ends } }

/-- A slot is left empty: LATE for the first of a run, zeros counted (R172, R236, R245). -/
def emptySlot (id round : Nat) (p : PlanEnt) (s : State) : State :=
  let x := s.stream id
  let j := x.run.slot
  let first := s.nextPos id p
  let s := if x.run.lateRun then s else post id 1 4 0 0 first j 0 s
  let s := startFetch (s.nextVoice id).toNat s
  let s := s.modLive fun c => { c with empty := satInc c.empty, zeros := satAdd c.zeros p.spt }
  s.modStream id fun x => { x with
    emptyLive := satInc x.emptyLive, zeroLive := satAdd x.zeroLive p.spt, emptyTot := satInc x.emptyTot
    run := { x.run with slot := j + 1, lateRun := true
                        tokens := x.run.tokens ++ [{ slot := j.toNat, round := round, empty := true, pos := first }] } }

/-- A transaction's STOP takes effect: no token is created any more (R267). -/
def haltRun (id : Nat) (s : State) : State :=
  s.modStream id fun x => { x with run := { x.run with
    halt := true, stopAll := true, attach := x.run.attach.filter (· != .stop) } }

/-- One stream at the start of a round: its load released, its slot created or left empty (R172, R173). -/
def roundStream (p : PlanEnt) (r : Nat) (s : State) (id : Nat) : State :=
  let x := s.stream id
  match x.state with
  | .closing | .aborted => releaseLoad id s
  | .running | .draining =>
    if r < x.run.rho || x.run.halt then s
    else if x.run.attach.contains .stop then haltRun id s
    else if s.inputsFor id then createToken id r p s
    else emptySlot id r p s
  | _ => s

/-- Round r of a many-stream plan is created (R166, R172 to R174); an empty slot's zeros are written where its last
level would run. -/
def createRound (p : PlanEnt) (r : Nat) (s : State) : State :=
  let s := (s.onPlan p.plan).foldl (roundStream p r) s
  let ranked := (s.onPlan p.plan).zipIdx
  let rowsAt := fun level => ranked.flatMap fun (id, rank) =>
    ((s.stream id).run.tokens.filter fun t => t.round + level == r && (level == 0 || !t.empty)).map fun t => (rank, s.rowOf id p t)
  let s := addLevels p r 0 rowsAt s
  s.each ranked fun s (id, _) => s.each (s.stream id).run.tokens fun s t =>
    if t.empty && !t.written && decide (t.round + p.nlevels ≤ r + 1) then writeSlot id t p [] s else s

/-- Every many-stream plan whose round starts at this position, in ascending PLAN order. -/
def createRounds (s : State) : State :=
  let plans := (List.range 64).filterMap s.plan?
  sweepHalted (s.each plans fun s p =>
    if p.kind = 0 && p.period != 0 && s.pos % p.period == 0 then createRound p (s.pos / p.period) s else s)

/-- Steps of a level of a single-stream plan's token are on the scoreboards. -/
def State.levelBusy (s : State) (plan run round level : Nat) : Bool :=
  s.stages.any fun e => e.2.steps.any fun t => t.plan == plan && t.run == run && t.round == round && kindLevel t.kind == level

/-- A single-stream stream's output ring takes one more token's slot: the slots written and those that the last level is to
write leave room (R178, R245). -/
def State.ringRoom (s : State) (id : Nat) (p : PlanEnt) : Bool :=
  let q := s.queue (qid id 2)
  let due := (s.stream id).run.tokens.filter fun t => !t.written && decide (p.nlevels ≤ t.level + 1)
  decide (q.held + due.length < q.depth)

/-- A single-stream plan: the next level of each token whose level is DONE, the next token once the previous one's level 0
is DONE and the inputs are present; a full ring holds the last level (R178, R245). -/
def advanceSingle (id : Nat) (p : PlanEnt) (s : State) : State :=
  let run := (s.stream id).order
  let s := s.each (s.stream id).run.tokens fun s t =>
    let next := t.level + 1
    if next < p.nlevels && !s.levelBusy p.plan run t.round t.level && !(next + 1 == p.nlevels && !s.ringRoom id p) then
      let s := s.modStream id fun x => { x with run := { x.run with
        tokens := x.run.tokens.map fun u => if u.round = t.round then { u with level := next } else u } }
      addLevels p t.round run (fun l => if l = next then [(0, s.rowOf id p t)] else []) s
    else s
  let x := s.stream id
  let busy0 := x.run.tokens.any fun t => s.levelBusy p.plan run t.round 0
  if (x.state == .running || x.state == .draining) && !x.run.halt && !busy0 && (p.nlevels != 1 || s.ringRoom id p) then
    if x.run.attach.contains .stop then markUnpaced id (haltRun id s)
    else if s.inputsFor id then
      let r := x.run.round
      let s := markUnpaced id (createToken id r p s)
      match (s.stream id).run.tokens.getLast? with
      | some t => addLevels p r run (fun l => if l = 0 then [(0, s.rowOf id p t)] else []) s
      | none => s
    else startFetch (s.nextVoice id).toNat s
  else s

/-- What may follow an input, a START or a completed step: DRAINING, a token of a single-stream plan, DRAINED (R178, R235). -/
def progress (id : Nat) (s : State) : State :=
  let s := checkDrain id s
  match s.plan? (s.stream id).plan.toNat with
  | some p => if p.kind = 1 then checkDrained id s.tl.pos (sweepHalted (advanceSingle id p s)) else s
  | none => s

/-- A stream whose first round ρ starts at the present position takes part in it at once: its row takes its place in the
round's steps (R170, R174, R177). -/
def joinRound (id : Nat) (s : State) : State :=
  let x := s.stream id
  match s.plan? x.plan.toNat with
  | some p =>
    if p.kind = 0 && (x.state == .running || x.state == .draining) && x.run.slot == 0 && x.run.rho * p.period == s.pos then
      let r := x.run.rho
      let s := roundStream p r s id
      let rank := (s.onPlan p.plan).idxOf id
      let mine := (s.stream id).run.tokens.filter (·.round == r)
      let s := s.each mine fun s t => if t.empty && p.nlevels == 1 then writeSlot id t p [] s else s
      sweepHalted (addLevels p r 0 (fun l => if l = 0 then (mine.filter (!·.empty)).map fun t => (rank, s.rowOf id p t) else []) s)
    else s
  | none => s

/-- START (R243), with the first token of a single-stream plan (R178). -/
def startNow (r : Nat) (s : State) : State :=
  let id := s.selStream r
  let before := (s.stream id).state
  let s := doStart id s
  progress id (if before == (s.stream id).state then s else joinRound id s)

def execStart (r : Nat) (s : State) : Result := byReader .session r (startNow r) s

/-! ## Busy and idle core cycles (R181) -/

/-- Busy and idle core cycles up to cycle `cc`; a stage that nothing has looked at yet counts from the period's start. -/
def clockStage (start cc : Nat) (g : Stage) : Stage :=
  let n := cc - max start g.mark
  if g.steps.any (·.state == .run) then { g with mark := cc, busyLive := g.busyLive + n }
  else { g with mark := cc, idleLive := g.idleLive + n }

/-! ## Registers (R181, R182) -/

def readSched (r off : Nat) (s : State) : W32 :=
  let die := off / 0x1000
  let d := s.sched die
  let m := s.img
  let n := (s.sess r).sel.stage.toNat
  let here := (m.stage? n).any (·.die == die)
  let g := s.stage n
  let plan := s.plan? (s.sess r).sel.plan.toNat
  let many := m.plans.filter fun p => p.kind == 0 && (m.planStages p).contains n
  let onDie := m.stages.filter (·.die == die)
  match off % 0x1000 with
  | 0x000 => bitAt 0 d.wdogEn
  | 0x004 => at_ 8 (onDie.filter fun e => (s.stage e.stage).trapped).length ||| at_ 0 onDie.length
  | 0x008 => d.limit.setWidth 32
  | 0x00C => d.aborts
  | 0x010 => (s.sess r).sel.stage.setWidth 32
  | 0x014 =>
    if !here then 0 else
      bitAt 31 true ||| bitAt 30 g.trapped ||| at_ 16 (min 64 g.steps.length) |||
        at_ 0 (((g.steps.find? (·.state == .run)).map (·.prog)).getD 0xFFFF)
  | 0x018 => if !here || many.isEmpty then 0 else BitVec.ofNat 32 (stageLoad m s.nOn n)
  | 0x01C => if !here then 0 else ((many.head?).map fun p => BitVec.ofNat 32 p.capacity).getD 0
  | 0x020 => if here then g.busy else 0
  | 0x024 => if here then g.idle else 0
  | 0x028 => if here then at_ 16 g.trapProg.toNat ||| g.trapOp.setWidth 32 else 0
  | 0x040 => (s.sess r).sel.plan.setWidth 32
  | 0x044 =>
    match plan with
    | some p => bitAt 31 (!planBarred p s) ||| bitAt 30 (p.kind == 1) ||| at_ 16 (p.maxStreams % 4096) ||| at_ 0 (s.nOn p.plan % 4096)
    | none => 0
  | 0x048 => match plan with | some p => if p.kind = 0 then BitVec.ofNat 32 p.period else 0 | none => 0
  | 0x04C => match plan with | some p => BitVec.ofNat 32 p.nlevels | none => 0
  | _ => 0

def writeSched (r off : Nat) (v : W32) (s : State) : State :=
  let die := off / 0x1000
  match off % 0x1000 with
  | 0x000 => s.modSched die fun d => { d with wdogEn := v.getLsbD 0 }
  | 0x008 => s.modSched die fun d => { d with limit := v.setWidth 24 }
  | 0x010 => s.modSess r fun x => { x with sel := { x.sel with stage := v.setWidth 8 } }
  | 0x040 => s.modSess r fun x => { x with sel := { x.sel with plan := v.setWidth 6 } }
  | _ => s

end Sys2Proof.Machine
end

