-- ==== Sys2Proof/Machine/Links.lean ====
section
/-! DEFINITION. Image links in service: channel halts (R198, R199), buffers taken and released (R195, R196), tiles that
travel to other devices and arrive from them (R322, R353, R359, R361 to R363). -/

namespace Sys2Proof.Machine

/-! ## Halt (R198, R199) -/

/-- Streams that descriptors on a queue belong to; of one not checked yet, the stream its header names as it stands (R199). -/
def State.descStreams (s : State) (ds : List Desc) : List Nat :=
  ds.filterMap fun d =>
    if d.checked || d.role ≠ 0 then (if d.noStream then none else some d.stream)
    else
      let b := (s.tier d.tier).deliver d.addr 16
      if field b 6 1 / 2 % 2 = 1 then none else some (field b 2 2)

/-- A channel halts: its latches, event 0x0301, the interrupt, and the aborts of R199 of the streams given. A halted channel
stays as it is. -/
def haltWith (own : List Nat) (c code : Nat) (addr : W64) (stream link : Nat) (s : State) : State :=
  if (s.channel c).state == .halted then s else
    let s := s.modChannel c fun x => { x with
      state := .halted, haltCode := BitVec.ofNat 8 code, haltAddr := addr
      haltStream := BitVec.ofNat 16 stream, haltLink := BitVec.ofNat 16 link }
    let s := fire 2 (record 0x0301 (BitVec.ofNat 32 c) (BitVec.ofNat 32 code) (lo32 addr) (BitVec.ofNat 32 stream) s)
    sweepHalted (s.each own.eraseDups fun s id => abortStream id 3 (BitVec.ofNat 32 c) (BitVec.ofNat 32 code) s)

/-- A channel halts with every stream that has a descriptor queued or running on it (R198, R199). -/
def haltChannel (c code : Nat) (addr : W64) (stream link : Nat) (s : State) : State :=
  let x := s.channel c
  haltWith (s.descStreams (x.control ++ x.data)) c code addr stream link s

/-- LINK of the failing descriptor as BELLOWS_CH_HALT_INFO and the event show it: a weight stream has no LINK (R202). -/
def haltLinkOf (link : Nat) : Nat := if link < 65536 then link else 0xFFFF

/-- A chain of a link fails: its channel halts with status 0x06; the spec names no failing address, which is a free value. -/
def haltChain (link : Nat) (s : State) : State :=
  match s.img.linkChannel link with
  | none => s
  | some c =>
    let (v, s) := s.takeFree
    haltChannel c 6 (tierAddr (v.toNat / 2 ^ 62) v.toNat) 0xFFFF (haltLinkOf link) s

/-! ## Where a link's receivers and producer are (R359, R365) -/

/-- The first plan that uses a link. -/
def State.linkPlan (s : State) (link : Nat) : Option PlanEnt := s.img.plans.find? fun p => s.img.planUses p link

/-- The way to a ring member: this device, a Kryter link, or a device beyond the board. -/
def State.wayTo (s : State) (w : W32) : Option Peer :=
  if ringAddr w = s.eth.devAddr then some .here
  else if w.getLsbD 28 then some (.dev w)
  else (s.linkOfAddr (ringAddr w)).map .kryter

/-- The next member of the ring of a link's plan. -/
def State.ringNext (s : State) (p : PlanEnt) : Option Peer :=
  match s.ringSelf p.plan p.seqGroup with
  | some i => s.wayTo (s.ringWord p.plan ((i + 1) % p.seqGroup))
  | none => none

/-- The owner of the plan's stream: its address, or this device. -/
def State.ringOwner (s : State) (p : PlanEnt) : Option Peer :=
  match s.streams.find? fun e => e.2.isOpen && e.2.plan.toNat == p.plan with
  | none => none
  | some (_, x) =>
    match x.ring with
    | none => some .here
    | some o => ((List.range p.seqGroup).find? fun i => ringAddr (s.ringWord p.plan i) == o.owner).bind fun i =>
        s.wayTo (s.ringWord p.plan i)

/-- Where a branch of a link leads; a TRANSPORT 2 link travels only on Kryter (R359). -/
def State.branchWay (s : State) (link : Nat) (b : Branch) : Option Peer :=
  if b.pos < 8 then (linkToPos s.kl.pos b.pos).map .kryter
  else
    let k := s.kimg link
    if k.mode = 2 then ((List.range 8).find? fun q => k.mask.getLsbD q).bind fun q => (linkToPos s.kl.pos q).map .kryter
    else match s.linkPlan link with
      | none => none
      | some p =>
        match if k.mode = 1 then s.ringOwner p else s.ringNext p with
        | some (.dev w) => if (s.img.link? link).any (·.transport == 2) then none else some (.dev w)
        | r => r

/-! ## Buffers (R195, R196) -/

/-- A handle comes back to the free queue (R196): accepted, dropped as stale, or the channel halts. The status of R189. -/
def returnHandle (link : Nat) (h : W32) (s : State) : Nat × State :=
  let i := h.toNat % 65536
  let g := cget 0 (s.linkSt link).gens i
  let d := (g - BitVec.ofNat 16 (h.toNat / 65536)).toNat
  if d = 0 then
    (0, wakeFlow link (s.modLink link fun l => { l with
      gens := cput 0 i (g + 1) l.gens
      freeQ := l.freeQ ++ [BitVec.ofNat 32 ((g + 1).toNat * 65536 + i)] }))
  else if d < 32768 then
    let s := s.modLink link fun l => { l with stale := satInc l.stale }
    (5, record 0x0302 (BitVec.ofNat 32 link) h (g.setWidth 32) (BitVec.ofNat 32 ((s.img.linkChannel link).getD 0)) s)
  else (6, haltChain link s)

/-- EMPTY rises by n at this end, or the channel halts (R195). The status of R189. -/
def raiseEmpty (e : LinkEnt) (n : Nat) (s : State) : Nat × State :=
  if (s.linkSt e.link).empty + n ≤ e.buffers then
    (0, wakeFlow e.link (s.modLink e.link fun l => { l with empty := l.empty + n }))
  else (6, haltChain e.link s)

/-- The producer takes the next buffer: EMPTY falls, or a handle leaves the free queue; the buffer as LAP or generation and
index (R195, R196, R316). -/
def takeBuffer (e : LinkEnt) (s : State) : Option (W32 × State) :=
  let l := s.linkSt e.link
  if e.chain = 0 then
    if l.empty = 0 then none
    else
      let h := BitVec.ofNat 32 (l.fillLap * 2 ^ 16 + l.fillIdx)
      let wrap := e.buffers ≤ l.fillIdx + 1
      some (h, s.modLink e.link fun l => { l with
        empty := l.empty - 1, heads := cput [] l.fillIdx [] l.heads
        fillIdx := if wrap then 0 else l.fillIdx + 1, fillLap := if wrap then l.fillLap + 1 else l.fillLap })
  else match l.freeQ with
    | [] => none
    | h :: q => some (h, s.modLink e.link fun l => { l with freeQ := q, heads := cput [] (h.toNat % 65536) [] l.heads })

/-- A buffer of a link is full: FULL rises (CHAIN 0), or its handle is posted to the full queue (CHAIN 1); one beyond BUFFERS
halts the channel (R195, R196). The status of R189. -/
def fillBuffer (e : LinkEnt) (h : W32) (s : State) : Nat × State :=
  if e.buffers ≤ s.tilesIn e.link then (6, haltChain e.link s)
  else (0, wakeFlow e.link (s.modLink e.link fun l =>
    if e.chain = 0 then { l with full := l.full + 1 } else { l with fullQ := l.fullQ ++ [h] }))

/-- The consumer takes the next full buffer (R195, R196). -/
def takeFull (e : LinkEnt) (s : State) : Option (W32 × State) :=
  let l := s.linkSt e.link
  if e.chain = 0 then
    if l.full = 0 then none
    else
      let h := BitVec.ofNat 32 (l.readLap * 2 ^ 16 + l.readIdx)
      let wrap := e.buffers ≤ l.readIdx + 1
      some (h, s.modLink e.link fun l => { l with
        full := l.full - 1, readIdx := if wrap then 0 else l.readIdx + 1, readLap := if wrap then l.readLap + 1 else l.readLap })
  else match l.fullQ with
    | [] => none
    | h :: q => some (h, s.modLink e.link fun l => { l with fullQ := q })

/-- SEQ of a granule of a link buffer (R316). -/
def linkSeq (h : W32) (g : Nat) : Nat := h.toNat / 65536 * 65536 + 8 * (h.toNat % 65536) + g

/-- The header a granule of a link buffer is checked under: that of the link, unless the tile brought its own (R316, R322):
STREAM, NOSTREAM, SEQ. -/
def State.bufferHead (s : State) (link : Nat) (h : W32) (g : Nat) : Nat × Bool × Nat :=
  ((cget [] (s.linkSt link).heads (h.toNat % 65536))[g]?).getD (0xFFFF, true, linkSeq h g)

/-- The oldest fetch in flight of a link has arrived; a block whose tiles have all arrived leaves the data queue. -/
def blockArrived (link : Nat) (s : State) : State :=
  match s.img.linkChannel link with
  | none => s
  | some c => s.modChannel c fun x =>
    let i := x.data.findIdx fun d => d.link == link && decide (d.arrived < d.started)
    { x with data := x.data.zipIdx.filterMap fun (d, j) =>
        if j = i then (if d.tiles ≤ d.arrived + 1 && d.tiles ≤ d.started then none else some { d with arrived := d.arrived + 1 })
        else some d }

/-- A tile arrives in a link's buffers, whose fetch is in flight (R175, R192). -/
def execTileArrival (link : Nat) (s : State) : Result :=
  match s.img.flow? link, (s.linkSt link).flight with
  | some e, h :: q => done (fillBuffer e h (blockArrived link (s.modLink link fun l => { l with flight := q }))).2
  | _, _ => .next s

/-! ## Granules as a consumer reads them (R302, R320) -/

/-- What reading a granule gave: its bytes, an uncorrectable word at a tier and address, or a failed check of a SEQ. -/
inductive GRead where
  | ok (b : List Byte)
  | ue (tier addr : Nat)
  | bad (tier granule seq : Nat)

/-- Read a granule and check it under a header. -/
def readGranule (cls tier granule stream : Nat) (noStream : Bool) (seq : Nat) (s : State) : GRead × State :=
  match readFixed cls (if noStream then 0xFFFF else stream) tier (512 * granule) 512 s with
  | (none, s) => (.ue tier (512 * granule), s)
  | (some b, s) => (if tagOf stream noStream seq b = (s.tier tier).tag granule then .ok b else .bad tier granule seq, s)

/-- Granules one after another: tier, granule, and the header they are checked under. -/
def readGranules (cls : Nat) : List (Nat × Nat × Nat × Bool × Nat) → State → GRead × State
  | [], s => (.ok [], s)
  | (t, g, st, ns, q) :: rest, s =>
    match readGranule cls t g st ns q s with
    | (.ok b, s) =>
      match readGranules cls rest s with
      | (.ok c, s) => (.ok (b ++ c), s)
      | r => r
    | r => r

/-! ## Tiles from another device (R322, R353) -/

/-- Write a tile's granules and tags into a link's buffer. -/
def writeTile (e : LinkEnt) (h : W32) (bytes : List Byte) (tags : List W32) (s : State) : State :=
  let a := s.img.bufferAddr e (h.toNat % 65536)
  let s := writeMem 0 a bytes s
  s.each tags.zipIdx fun s (v, g) => setTag 0 (a / 512 + g) v s

/-- A tile of another device, or a GAP, arrives in a buffer: EMPTY falls and FULL rises at the consumer's end (R195); a
buffer beyond BUFFERS halts the channel. -/
def arriveBuffer (e : LinkEnt) (h : W32) (gap : Bool) (src : Peer) (s : State) : State :=
  let l := s.linkSt e.link
  let s := s.modKimg e.link fun k => { k with src := some src }
  if e.chain = 0 && l.empty = 0 then haltChain e.link s
  else
    let s := if gap then s.modLink e.link fun l => { l with gaps := l.gaps ++ [h.toNat] } else s
    (fillBuffer e h (if e.chain = 0 then s.modLink e.link fun l => { l with empty := l.empty - 1 } else s)).2

/-! ## Tiles to other devices (R353, R359, R361 to R363) -/

/-- The tags of a tile that is not tagged yet: link data, under the buffer of every receiver that it fills (R316, R322). -/
def tagTile (h : W32) (t : OutTile) : OutTile :=
  if t.tags.isEmpty then
    { t with tags := (List.range (ceilDiv t.bytes.length 512)).map fun g => tagOf 0xFFFF true (linkSeq h g) (slice (512 * g) 512 t.bytes) }
  else t

/-- The bytes of a tile message: tile header and granules (R353). -/
def tileBytes (m : TileMsg) : List Byte :=
  let n := m.tile.tags.length
  leBytes 2 m.link ++ leBytes 2 m.buffer ++ leBytes 2 m.lap ++
    [BitVec.ofNat 8 n, BitVec.ofNat 8 ((if m.tile.first then 1 else 0) + if m.tile.last then 2 else 0)] ++
    slice 0 32 (m.tile.tags.flatMap fun v => leBytes 4 v.toNat) ++ slice 0 (512 * n) m.tile.bytes

/-- A filled tile starts towards one receiver: queued for a Kryter link, sent as an ST TILE, or kept here. -/
def startTile (e : LinkEnt) (m : TileMsg) (s : State) (b : Branch) : State :=
  match s.branchWay e.link b with
  | some (.kryter k) =>
    s.modKimg e.link fun x =>
      if x.msgs.any fun y => y.buffer == m.buffer && y.lap == m.lap then
        { x with msgs := x.msgs.map fun y => if y.buffer == m.buffer && y.lap == m.lap then { y with ports := y.ports ++ [k] } else y }
      else { x with msgs := x.msgs ++ [{ m with ports := [k] }] }
  | some (.dev w) => sendDev w 0x50 e.link e.link (tileBytes m) s
  | some .here =>
    let h := BitVec.ofNat 32 (m.lap * 65536 + m.buffer)
    arriveBuffer e h false .here (writeTile e h m.tile.bytes m.tile.tags s)
  | none => s

/-- A branch as the next tile finds it: a dropped one rejoins at the first tile of a later block once no GAP is queued for it
(R363). -/
def Branch.rejoin (first : Bool) (b : Branch) : Branch :=
  if first && !b.live && !b.barred && b.gapQ.isEmpty then { b with live := true } else b

/-- Fill the next buffer of a link with each produced tile for which every live receiver has released it (R361). The hold
starts where some have released the buffer and others have not. A tile waits while there is no way to a receiver. -/
def fillTiles (e : LinkEnt) : Nat → State → State
  | 0, s => s
  | fuel + 1, s =>
    let k := s.kimg e.link
    match k.tiles with
    | [] => s
    | t :: rest =>
      let bs := k.branches.map (Branch.rejoin t.first)
      let live := bs.filter (·.live)
      let l := s.linkSt e.link
      let room := if e.chain = 0 then live.all fun b => b.empty != 0 else !l.freeQ.isEmpty
      if !s.takesPart || live.any fun b => (s.branchWay e.link b).isNone then s
      else if room then
        let (buffer, lap) := match e.chain, l.freeQ with
          | 0, _ => (l.fillIdx, l.fillLap)
          | _, h :: _ => (h.toNat % 65536, h.toNat / 65536)
          | _, [] => (0, 0)
        let wrap := e.buffers ≤ l.fillIdx + 1
        let s := s.modLink e.link fun l => if e.chain = 0 then
            { l with fillIdx := if wrap then 0 else l.fillIdx + 1, fillLap := if wrap then (l.fillLap + 1) % 65536 else l.fillLap }
          else { l with freeQ := l.freeQ.drop 1 }
        let s := s.modKimg e.link fun k => { k with
          tiles := rest, holding := false
          branches := bs.map fun b => if b.live then { b with empty := if e.chain = 0 then b.empty - 1 else b.empty }
            else { b with barred := false, gapQ := b.gapQ ++ [(lap, buffer)] } }
        let t := tagTile (BitVec.ofNat 32 (lap * 65536 + buffer)) t
        fillTiles e fuel (live.foldl (startTile e { link := e.link, buffer := buffer, lap := lap, tile := t, ports := [] }) s)
      else if e.mcast ≠ 0 && live.any fun b => b.empty != 0 then s.modKimg e.link fun k => { k with branches := bs, holding := true }
      else s

/-- Fill every buffer that can be filled. -/
def fillAll (link : Nat) (s : State) : State :=
  match s.img.link? link with
  | some e => wakeFlow link (fillTiles e ((s.kimg link).tiles.length) s)
  | none => s

/-- A stage or Bellows has produced a tile for another device. -/
def produceTile (link : Nat) (t : OutTile) (s : State) : State :=
  fillAll link (s.modKimg link fun k => { k with tiles := k.tiles ++ [t] })

/-- A branch is dropped: counted, event 0x0704 (R361). -/
def dropBranch (e : LinkEnt) (pos : Nat) (s : State) : State :=
  let s := s.modKimg e.link fun k => { k with
    drops := satInc k.drops, branches := k.branches.map fun b => if b.pos = pos then { b with live := false, barred := !k.tiles.isEmpty } else b }
  fire 6 (record 0x0704 (BitVec.ofNat 32 e.link) (BitVec.ofNat 32 pos) (BitVec.ofNat 32 (s.linkSt e.link).fillIdx)
    (BitVec.ofNat 32 e.hold) s)

/-- A receiver returns buffers, or a handle, to this producer (R195, R196). -/
def creditBranch (e : LinkEnt) (fits : Branch → Bool) (n : Nat) (s : State) : State :=
  let k := s.kimg e.link
  match k.branches.find? fits with
  | none => s
  | some b =>
    if e.buffers < b.empty + n then haltChain e.link s
    else fillAll e.link (s.modKimg e.link fun k => { k with
      branches := k.branches.map fun c => if c.pos = b.pos then { c with empty := c.empty + n } else c })

/-- The consumer releases a buffer: EMPTY rises or the handle returns, here and at a producer on another device. -/
def releaseBuffer (e : LinkEnt) (h : W32) (s : State) : Nat × State :=
  let src := (s.kimg e.link).src
  let s := s.modLink e.link fun l => { l with
    released := l.released + 1, gaps := l.gaps.filter (· != h.toNat), heads := cput [] (h.toNat % 65536) [] l.heads }
  match e.chain, src with
  | 0, some .here =>
    let (n, s) := raiseEmpty e 1 s
    (n, creditBranch e (fun b => s.branchWay e.link b == some .here) 1 s)
  | 0, some p => let (n, s) := raiseEmpty e 1 s; (n, sendSignal p 1 e.link 1 s)
  | 0, none => raiseEmpty e 1 s
  | _, some .here => let (n, s) := returnHandle e.link h s; (n, fillAll e.link s)
  | _, some p => (0, sendSignal p 2 e.link h s)
  | _, none => returnHandle e.link h s

end Sys2Proof.Machine
end

