-- ==== Sys2Proof/Machine/Bellows.lean ====
section
/-! DEFINITION. Bellows channels: descriptors, their checks and their transfer units (R184 to R191, R197, R201), fetch-ahead
(R192), text records and weight streams (R194, R233), restarts (R200), the BELLOWS registers (R202, R203). -/

namespace Sys2Proof.Machine

/-! ## Block lists (R187, R188) -/

/-- A block-list header. -/
structure Head where
  link : Nat
  stream : Nat
  count : Nat
  srcTier : Nat
  dstTier : Nat
  tag : Nat
  dir : Nat
  noStream : Bool
  bytes : Nat
  seq0 : Nat
  /-- A reserved field is nonzero. -/
  reserved : Bool
  deriving DecidableEq, Repr

def readHead (b : List Byte) : Head :=
  let t := field b 5 1
  let f := field b 6 1
  let ns := f / 2 % 2 == 1
  { link := field b 0 2, stream := if ns then 0xFFFF else field b 2 2, count := field b 4 1, srcTier := t % 4, dstTier := t / 4 % 4
    tag := t / 16 % 4, dir := f % 2, noStream := ns, bytes := field b 8 4, seq0 := field b 12 4
    reserved := t / 64 != 0 || f / 4 != 0 || field b 7 1 != 0 }

/-- A piece of a block list: a linear entry, or a strided entry with its parameters. -/
structure Piece where
  src : Nat
  dst : Nat
  len : Nat
  strided : Bool
  rows : Nat := 1
  srcStride : Nat := 0
  dstStride : Nat := 0
  /-- A reserved field is nonzero, or the entry is strided and last in the list. -/
  bad : Bool
  deriving DecidableEq, Repr

def readPieces : List (List Byte) → List Piece
  | [] => []
  | [e] => [{ src := field e 0 6, dst := field e 6 6, len := field e 12 3, strided := field e 15 1 % 2 == 1, bad := field e 15 1 != 0 }]
  | e :: p :: t =>
    let x : Piece := { src := field e 0 6, dst := field e 6 6, len := field e 12 3, strided := field e 15 1 % 2 == 1
                       bad := field e 15 1 / 2 != 0 }
    if x.strided then
      { x with rows := field p 0 4, srcStride := field p 4 4, dstStride := field p 8 4, bad := x.bad || field p 12 4 != 0 } :: readPieces t
    else x :: readPieces (p :: t)

def Piece.total (p : Piece) : Nat := if p.strided then p.len * p.rows else p.len
/-- Bytes of one transfer unit, and units of the piece (R190). -/
def Piece.unitLen (p : Piece) : Nat := if p.strided then p.len else 64
def Piece.units (p : Piece) : Nat := if p.strided then p.rows else ceilDiv p.len 64
def Piece.srcAt (p : Piece) (u : Nat) : Nat := p.src + u * if p.strided then p.srcStride else 64
def Piece.dstAt (p : Piece) (u : Nat) : Nat := p.dst + u * if p.strided then p.dstStride else 64

/-! ## The check of a descriptor (R189) -/

/-- Every unit of one side lies in its tier. -/
def State.pieceIn (s : State) (tier a stride : Nat) (p : Piece) : Bool :=
  let top := a + (if p.strided then (p.rows - 1) * stride else 0) + p.len
  decide (top ≤ s.tierTop tier)

/-- A write that R161 refuses: into staging, or into a tensor the image names. -/
def State.writeLocked (s : State) (tier a n : Nat) : Bool :=
  let tensors := if s.tensorsLocked then (s.image.staged.getD s.img).tensors else []
  (s.stagingLocked && tier == 2 && decide (a < 0x10000000)) || s.lockedRegions.any (overlaps tier a n) ||
    tensors.any fun t => t.regions.any fun r => overlaps tier a n (t.tier, r.1, r.2)

/-- Insert a byte range, given as start and end, into disjoint ranges in rising order, joining those it touches. -/
def joinRange (a b : Nat) : List (Nat × Nat) → List (Nat × Nat)
  | [] => [(a, b)]
  | (x, y) :: t =>
    if b < x then (a, b) :: (x, y) :: t
    else if y < a then (x, y) :: joinRange a b t
    else joinRange (min a x) (max b y) t

/-- Every destination granule the list writes is wholly written (R190). -/
def wholeGranules (ps : List Piece) : Bool :=
  let ranges := ps.foldl (fun l p => (List.range (if p.strided then p.rows else 1)).foldl (fun l i =>
    let a := p.dst + i * p.dstStride
    joinRange a (a + p.len) l) l) []
  ranges.all fun r => r.1 % 512 == 0 && r.2 % 512 == 0

/-- Rules of R188 and R190 for one entry. -/
def pieceForm (h : Head) (p : Piece) : Bool :=
  !p.bad &&
  (if p.strided then
    p.len % 4 == 0 && inRange 4 4096 p.len && inRange 1 65536 p.rows && p.srcStride % 4 == 0 && p.dstStride % 4 == 0
  else p.len % 64 == 0 && inRange 64 16777152 p.len) &&
  (h.tag != 1 || p.strided || (p.src % 512 == 0 && p.dst % 512 == 0 && p.len % 512 == 0))

/-- One entry: its form, then its ranges. -/
def State.pieceStatus (s : State) (h : Head) (p : Piece) : Nat :=
  let src := h.link = 0xFFFF || h.dir = 0
  let dst := h.link = 0xFFFF || h.dir = 1
  if !pieceForm h p then 1
  else if src && !s.pieceIn h.srcTier p.src p.srcStride p then 2
  else if dst && !s.pieceIn h.dstTier p.dst p.dstStride p then 2
  else if dst && (List.range (if p.strided then p.rows else 1)).any fun i => s.writeLocked h.dstTier (p.dst + i * p.dstStride) p.len then 2
  else 0

/-- The status of a descriptor: its header in table order, then its entries in list order; 0 where it passes. -/
def State.blockStatus (s : State) (h : Head) (ps : List Piece) : Nat :=
  if h.link ≠ 0xFFFF && (s.img.link? h.link).isNone then 1
  else if h.count = 0 || h.reserved || (h.link = 0xFFFF && h.dir ≠ 0) then 1
  else if h.bytes ≠ (ps.map Piece.total).sum || (h.tag ≠ 2 && h.seq0 ≠ 0) then 1
  else match (ps.map (s.pieceStatus h)).find? (· != 0) with
    | some c => c
    | none =>
      if h.tag ≠ 2 then 0
      else if (h.link ≠ 0xFFFF && h.dir = 0) || h.dstTier = 3 then (if h.dstTier = 3 || h.bytes % 512 = 0 then 0 else 1)
      else if wholeGranules ps then 0 else 1

/-! ## Descriptors -/

/-- The head control descriptor ends (R189); a halted channel stays so. -/
def endControl (c st : Nat) (s : State) : State :=
  s.modChannel c fun x => { x with
    control := x.control.drop 1, lastSeq := x.lastSeq + 1, lastStatus := BitVec.ofNat 8 st
    state := if x.state == .halted then .halted else .idle }

def setHead (c : Nat) (d : Desc) (s : State) : State :=
  s.modChannel c fun x => { x with control := d :: x.control.drop 1 }

/-- The head control descriptor meets an uncorrectable error: it ends with 0x03 and the channel halts; its own stream
aborts with the others (R198, R199). -/
def endHalted (c : Nat) (addr : W64) (stream link : Nat) (s : State) : State :=
  let x := s.channel c
  haltWith (s.descStreams (x.control ++ x.data)) c 3 addr stream link (endControl c 3 s)

/-- The bytes of a descriptor as memory delivers them; none where a word of it cannot be read. -/
def readBlock (d : Desc) (s : State) : Option (List Byte) × State :=
  let (b, s) := readFixed 6 0xFFFF d.tier d.addr 16 s
  match b with
  | none => (none, s)
  | some b =>
    let h := readHead b
    let (e, s) := readFixed 6 h.stream d.tier (d.addr + 16) (16 * h.count) s
    match e with
    | none => (none, s)
    | some e => (some (b ++ e), s)

/-- The entries of a block list. -/
def blockPieces (b : List Byte) : List Piece :=
  readPieces ((List.range (readHead b).count).map fun i => slice (16 + 16 * i) 16 b)

/-- SUBMIT to the control queue of the session's channel (R202). -/
def chSubmit (r : Nat) (s : State) : State :=
  let y := (s.sess r).sel
  let c := y.channel.toNat
  let x := s.channel c
  if x.state == .halted || 16 ≤ x.control.length then s.modChannel c fun x => { x with cmdErr := true }
  else s.modChannel c fun x => { x with
    control := x.control ++ [{ tier := y.descHi.toNat / 2 ^ 30, addr := y.descHi.toNat % 2 ^ 16 * 2 ^ 32 + y.descLo.toNat }] }

def execChSubmit (r : Nat) (s : State) : Result := byReader .session r (fun s => chSubmit r s) s

/-- A control descriptor reaches the head of its queue and is checked (R189); a word of it that cannot be read halts the
channel (R302, class 6). -/
def execDescriptorCheck (c : Nat) (s : State) : Result :=
  let x := s.channel c
  match x.control with
  | [] => .next s
  | d :: _ =>
    if d.checked || x.state == .halted then .next s
    else if d.tier = 3 || s.tierTop d.tier < d.addr + 16 then done (endControl c 2 s)
    else
      match readBlock d s with
      | (none, s) =>
        let h := readHead ((s.tier d.tier).deliver d.addr 16)
        done (endHalted c (tierAddr d.tier d.addr) h.stream h.link s)
      | (some b, s) =>
        let h := readHead b
        if s.tierTop d.tier < d.addr + 16 + 16 * h.count then done (endControl c 2 s)
        else
          let st := s.blockStatus h (blockPieces b)
          if st ≠ 0 then done (endControl c st s)
          else
            let d := { d with checked := true, block := b, stream := h.stream, noStream := h.noStream, link := h.link }
            done (setHead c d s)

/-! ## Granules of a list (R190, R317) -/

/-- A unit of one side touches a granule. -/
def unitMeets (a n g : Nat) : Bool := decide (a < 512 * (g + 1)) && decide (512 * g < a + n)

/-- Units of a piece from u on, and before u, touch a granule. -/
def Piece.laterMeets (p : Piece) (at_ : Nat → Nat) (u g : Nat) : Bool :=
  if p.strided then (List.range (p.rows - u)).any fun i => unitMeets (at_ (u + i)) p.len g
  else decide (u < p.units) && unitMeets (at_ u) (p.len - 64 * u) g
def Piece.beforeMeets (p : Piece) (at_ : Nat → Nat) (u g : Nat) : Bool :=
  if p.strided then (List.range u).any fun i => unitMeets (at_ i) p.len g
  else decide (0 < u) && unitMeets (at_ 0) (64 * u) g

/-- Destination granules that a unit writes last. -/
def lastGranules (ps : List Piece) (i u : Nat) : List Nat :=
  match ps[i]? with
  | none => []
  | some p => (granulesOf (p.dstAt u) p.unitLen).filter fun g =>
      !p.laterMeets p.dstAt (u + 1) g && !(ps.drop (i + 1)).any fun q => q.laterMeets q.dstAt 0 g
/-- Source granules that a unit is the first to touch. -/
def firstGranules (ps : List Piece) (i u : Nat) : List Nat :=
  match ps[i]? with
  | none => []
  | some p => (granulesOf (p.srcAt u) p.unitLen).filter fun g =>
      !p.beforeMeets p.srcAt u g && !(ps.take i).any fun q => q.beforeMeets q.srcAt q.units g

/-- The slot that stands at an index of a stream's output ring, counted from its HEAD. -/
def Stream.ringSlot (x : Stream) (i : Nat) : Nat := ((x.run.tokens[i]?).map (·.slot)).getD 0

/-- The header of the kind of data that stands at an address of tiers 0 to 2 (R316): a queue, a key/value area, a
voice-cache slot, a link buffer, or memory the host writes. -/
def State.kindHeader (s : State) (tier a : Nat) : Nat × Bool × Nat :=
  let plain := (0xFFFF, true, a / 512)
  match tier with
  | 1 =>
    if 0xBC00000000 ≤ a then
      let o := a - 0xBC00000000
      (0xFFFF, true, 512 * (o / 2 ^ 18) + o % 2 ^ 18 / 512)
    else match s.queues.find? fun e => decide (e.2.base ≤ a) && decide (a < e.2.base + 4096 * e.2.pages) with
    | some (k, q) =>
      let id := k / 32
      if k % 32 = 2 then
        let g := ((s.plan? (s.stream id).plan.toNat).map PlanEnt.granules).getD 1
        let n := (a - q.base) / 512
        let i := ((n / g : Nat) - (q.head.toNat : Int)) % max 1 q.depth
        (id, false, (s.stream id).ringSlot i.toNat * g + n % g)
      else (id, false, (a - q.base) / 512)
    | none =>
      match s.streams.find? fun e => match e.2.area, s.plan? e.2.plan.toNat with
          | some b, some p => decide (s.partBase p.plan + b * p.area ≤ a) && decide (a < s.partBase p.plan + (b + 1) * p.area)
          | _, _ => false with
      | some (id, x) =>
        match x.area, s.plan? x.plan.toNat with
        | some b, some p =>
          let o := a - (s.partBase p.plan + b * p.area)
          (id, false, o / max 1 p.kvBytes * ceilDiv p.kvBytes 512 + o % max 1 p.kvBytes / 512)
        | _, _ => plain
      | none => plain
  | 0 =>
    match s.img.links.find? fun e => decide (s.img.bufferAddr e 0 ≤ a) && decide (a < s.img.bufferAddr e 0 + 4096 * e.buffers) with
    | some e =>
      let i := (a - s.img.bufferAddr e 0) / 4096
      let l := s.linkSt e.link
      let lap := if e.chain = 1 then (cget 0 l.gens i).toNat else if i < l.fillIdx then l.fillLap else l.fillLap - 1
      (0xFFFF, true, lap * 65536 + 8 * i + a % 4096 / 512)
    | none => plain
  | _ => plain

/-! ## Transfer units (R186, R190, R191) -/

/-- The next bytes a block moves: the head unit, or the part of it that the tile in hand still takes. `pos`: bytes of the
list before them; `ends`: the unit ends with them. -/
structure Leg where
  srcTier : Nat
  dstTier : Nat
  src : Nat
  dst : Nat
  n : Nat
  pos : Nat
  ends : Bool

/-- The next bytes of a block, `hb` the buffer on its link's side. -/
def legOf (m : Image) (h : Head) (ps : List Piece) (p : Piece) (link : Option LinkEnt) (hb : W32) (d : Desc) : Leg :=
  let pos := ((ps.take d.entry).map Piece.total).sum + d.unit * p.unitLen + d.off
  let left := p.unitLen - d.off
  match link with
  | none => { srcTier := h.srcTier, dstTier := h.dstTier, src := p.srcAt d.unit, dst := p.dstAt d.unit, n := left, pos := pos, ends := true }
  | some e =>
    let n := min left (4096 - pos % 4096)
    let side := m.bufferAddr e (hb.toNat % 65536) + pos % 4096
    { srcTier := if h.dir = 0 then h.srcTier else 0, dstTier := if h.dir = 0 then 0 else h.dstTier
      src := if h.dir = 0 then p.srcAt d.unit + d.off else side
      dst := if h.dir = 0 then side else p.dstAt d.unit + d.off
      n := n, pos := pos, ends := n == left }

/-- A block moves on past bytes of its head unit. -/
def Desc.past (d : Desc) (p : Piece) (n : Nat) : Desc :=
  if d.off + n < p.unitLen then { d with off := d.off + n }
  else if d.unit + 1 < p.units then { d with off := 0, unit := d.unit + 1 }
  else { d with off := 0, unit := 0, entry := d.entry + 1 }

/-- What moving bytes gave: the block past them (and the bytes), an uncorrectable word, or a failed check of a granule
under a header. -/
inductive Moved where
  | ok (d : Desc) (b : List Byte)
  | ue (tier addr : Nat)
  | bad (tier granule stream : Nat) (noStream : Bool) (seq : Nat)

/-- Source granules that a leg is the first of its block to touch. -/
def Leg.fresh (g : Leg) (h : Head) (ps : List Piece) (link : Option LinkEnt) (d : Desc) : List Nat :=
  if g.srcTier = 3 then []
  else if link.isSome && h.dir = 1 then (granulesOf g.src g.n).filter fun x => g.src ≤ 512 * x
  else if d.off = 0 then firstGranules ps d.entry d.unit else []

/-- The header a source granule is checked under. Memory the host writes is checked under its own; a stream's granules there
by their place in the list (R316, R321); a buffer of the block's own link under what its tile brought. -/
def State.sourceHead (s : State) (h : Head) (link : Option LinkEnt) (hb : W32) (g : Leg) (moved x : Nat) : Nat × Bool × Nat :=
  match link with
  | some e => if h.dir = 1 then s.bufferHead e.link hb (x - s.img.bufferAddr e (hb.toNat % 65536) / 512) else s.kindHeader g.srcTier (512 * x)
  | none =>
    let k := s.kindHeader g.srcTier (512 * x)
    if h.tag = 3 then (h.stream, h.noStream, if h.noStream || !k.2.1 then k.2.2 else moved) else k

/-- Check source granules in order. -/
def checkSource (h : Head) (link : Option LinkEnt) (hb : W32) (g : Leg) : List Nat → Desc → State → Moved × State
  | [], d, s => (.ok d [], s)
  | x :: t, d, s =>
    let (st, ns, q) := s.sourceHead h link hb g d.moved x
    match readGranule 6 g.srcTier x st ns q s with
    | (.ok _, s) => checkSource h link hb g t { d with moved := d.moved + if h.tag = 3 then 1 else 0 } s
    | (.ue tier a, s) => (.ue tier a, s)
    | (.bad tier x q, s) => (.bad tier x st ns q, s)

/-- Bytes moved, and a request saved where the unit joins the one before it on the data queue: same tiers and TAG, end to
end in source and destination, the whole request within one 4 KiB page of the source (R191, R202). -/
def noteLeg (c : Nat) (data linear : Bool) (tag : Nat) (g : Leg) (s : State) : State :=
  let x := s.channel c
  let kind := (g.srcTier * 4 + g.dstTier) * 4 + tag
  let (saved, last) :=
    if !data then (0, x.lastUnit)
    else if !linear then (0, none)
    else match x.lastUnit with
      | some (k, start, se, de, _) =>
        if k = kind && se = g.src && de = g.dst && start / 4096 = (g.src + g.n - 1) / 4096 then
          (1, some (kind, start, g.src + g.n, g.dst + g.n, g.n))
        else (0, some (kind, g.src, g.src + g.n, g.dst + g.n, g.n))
      | none => (0, some (kind, g.src, g.src + g.n, g.dst + g.n, g.n))
  s.modChannel c fun x => { x with
    lastUnit := last, mergedLive := satAdd x.mergedLive saved, bytesLive := satAdd x.bytesLive g.n }

/-- Read the next bytes of a block, its source granules checked first: under CHECK, and wherever Bellows loads an input tile
whose tags it reads at all (R190, R320). -/
def readLeg (c : Nat) (data : Bool) (h : Head) (ps : List Piece) (p : Piece) (link : Option LinkEnt) (hb : W32) (g : Leg)
    (d : Desc) (s : State) : Moved × State :=
  let fresh := if h.tag = 3 || (data && h.dir = 0 && h.tag != 0) then g.fresh h ps link d else []
  match checkSource h link hb g fresh d s with
  | (.ok d _, s) =>
    match readFixed 6 h.stream g.srcTier g.src g.n s with
    | (none, s) => (.ue g.srcTier g.src, s)
    | (some b, s) => (.ok d b, noteLeg c data (!p.strided) h.tag g s)
  | r => r

/-- A granule of a link buffer has its last byte: its tag and, where that is not of the link's own header, its header. -/
def tagBuffer (h : Head) (e : LinkEnt) (hb : W32) (g : Leg) (d : Desc) (s : State) (x : Nat) : State :=
  let i := hb.toNat % 65536
  let own := x - s.img.bufferAddr e i / 512
  let note := fun (y : Nat × Bool × Nat) (s : State) => s.modLink e.link fun l =>
    let old := cget [] l.heads i
    let gap := (List.range (own - old.length)).map fun k => (0xFFFF, true, linkSeq hb (old.length + k))
    { l with heads := cput [] i (old ++ gap ++ [y]) l.heads }
  match h.tag with
  | 1 =>
    let a := g.src + (512 * x - g.dst)
    note (s.kindHeader g.srcTier a) (setTag 0 x ((s.tier g.srcTier).tag (a / 512)) s)
  | 2 => note (h.stream, h.noStream, h.seq0 + d.moved + own % 8) (makeTag 0 x h.stream h.noStream (h.seq0 + d.moved + own % 8) s)
  | 3 => makeTag 0 x 0xFFFF true (linkSeq hb own) s
  | _ => s

/-- Granules of the destination that are wholly written once a leg is. -/
def Leg.lasts (g : Leg) (h : Head) (ps : List Piece) (link : Option LinkEnt) (d : Desc) : List Nat :=
  if g.dstTier = 3 || h.tag = 0 then []
  else if link.isSome && h.dir = 0 then
    (granulesOf g.dst g.n).filter fun x => decide (512 * (x + 1) ≤ g.dst + g.n) || g.pos + g.n == h.bytes
  else if g.ends then lastGranules ps d.entry d.unit else []

/-- The tags of the granules a leg completes: those its source brings (CARRY), those made (MAKE; under CHECK by the kind of
the destination). `base`: granules made for the tiles before this one. -/
def tagLeg (h : Head) (ps : List Piece) (link : Option LinkEnt) (hb : W32) (g : Leg) (d : Desc) (s : State) : Desc × State :=
  let strided := ((ps[d.entry]?).map (·.strided)).getD false
  let xs := if h.tag = 1 && (strided || g.srcTier == 3) then [] else g.lasts h ps link d
  match link, h.dir with
  | some e, 0 =>
    let d' := { d with moved := g.pos / 4096 * 8 }
    (if h.tag = 2 then { d with moved := d.moved + xs.length } else d, xs.foldl (tagBuffer h e hb g d') s)
  | _, _ =>
    match h.tag with
    | 1 => (d, xs.foldl (fun s x => setTag g.dstTier x ((s.tier g.srcTier).tag ((g.src + (512 * x - g.dst)) / 512)) s) s)
    | 2 => xs.foldl (fun (acc : Desc × State) x =>
        ({ acc.1 with moved := acc.1.moved + 1 }, makeTag g.dstTier x h.stream h.noStream (h.seq0 + acc.1.moved) acc.2)) (d, s)
    | 3 => (d, xs.foldl (fun s x =>
        let (st, ns, q) := s.kindHeader g.dstTier (512 * x)
        makeTag g.dstTier x st ns q s) s)
    | _ => (d, s)

/-- Move the next bytes of a block from memory to memory. -/
def moveLeg (c : Nat) (data : Bool) (h : Head) (ps : List Piece) (p : Piece) (link : Option LinkEnt) (hb : W32) (d : Desc)
    (s : State) : Moved × State :=
  let g := legOf s.img h ps p link hb d
  match readLeg c data h ps p link hb g d s with
  | (.ok d b, s) =>
    let (d, s) := tagLeg h ps link hb g d (writeMem g.dstTier g.dst b s)
    (.ok (d.past p g.n) b, s)
  | r => r

/-- A tile of a link, or a block's last one, ends with these bytes. -/
def tileEnds (h : Head) (ps : List Piece) (d : Desc) : Bool :=
  let pos := ((ps.take d.entry).map Piece.total).sum + d.unit * ((ps[d.entry]?).map Piece.unitLen).getD 0 + d.off
  pos % 4096 == 0 || pos == h.bytes

/-! ## The control queue (R186, R189) -/

/-- A block whose CHECK granule failed ends with 0x04; the stream it names aborts (R321). -/
def failCheck (c : Nat) (h : Head) (tier g seq : Nat) (s : State) : State :=
  let s := endControl c 4 (tagConsumerFail tier g h.stream h.noStream seq 2 s)
  if h.noStream then s else abortStream h.stream 7 (BitVec.ofNat 32 seq) 0 s

/-- A buffer of the link for the descriptor's next bytes: the one it holds, or the next one. None: it waits. -/
def linkBuffer (e : LinkEnt) (dir : Nat) (d : Desc) (s : State) : Option (W32 × State) :=
  match d.buf with
  | some h => some (h, s)
  | none => if dir = 0 then takeBuffer e s else takeFull e s

/-- A tile of a link is complete: the buffer is full (a fill) or released (a drain). The status of R189. -/
def leaveBuffer (link : Option LinkEnt) (dir : Nat) (h : W32) (s : State) : Nat × State :=
  match link with
  | none => (0, s)
  | some e => if dir = 0 then fillBuffer e h s else releaseBuffer e h s

/-- The head descriptor failed its chain, which has halted the channel: it ends with 0x06, whether it still stands there or
its stream's abort has ended it. -/
def endChain (c : Nat) (d : Desc) (before : W16) (s : State) : State :=
  let x := s.channel c
  if x.control.head? == some d then endControl c 6 s
  else if x.lastSeq = before + 1 then s.modChannel c fun x => { x with lastStatus := 6 } else s

/-- The head descriptor moves one unit. -/
def moveUnit (c : Nat) (d0 : Desc) (h : Head) (ps : List Piece) (p : Piece) (s : State) : State :=
  let link := s.img.link? h.link
  let got := match link with
    | none => some ((0 : W32), s)
    | some e => linkBuffer e h.dir d0 s
  match got with
  | none => s.modChannel c fun x => { x with state := .wait }
  | some (hb, s) =>
    match moveLeg c false h ps p link hb d0 s with
    | (.ue tier a, s) => endHalted c (tierAddr tier a) h.stream h.link s
    | (.bad tier x _ _ seq, s) => failCheck c h tier x seq s
    | (.ok d _, s) =>
      let s := s.modChannel c fun x => { x with state := .idle }
      let full := tileEnds h ps d
      let before := (s.channel c).lastSeq
      let (st, s) := if full then leaveBuffer link h.dir hb s else (0, s)
      let d := { d with buf := if link.isSome && !full then some hb else none
                        status := if d.status = 0 then BitVec.ofNat 8 st else d.status }
      if st = 6 then endChain c d0 before s
      else if d.entry < ps.length then setHead c d s
      else endControl c d.status.toNat s

/-! ## Blocks of the data queue (R184, R192) -/

/-- An image link whose tiles travel to another device, loaded by Bellows here. -/
def LinkEnt.remote (e : LinkEnt) : Bool := e.transport == 2 || e.transport == 3

/-- A data block's direction: of one whose list is not read yet, into the link's buffers. -/
def Desc.dir (d : Desc) : Nat := if d.block.isEmpty then 0 else (readHead d.block).dir

/-- A block of a link has a tile it can start (R192): the consumer has released enough of its tiles, and the link has a
buffer for it; a block that drains the link has a tile to take. Of tiles sent to other devices, those no live receiver still
holds are released. -/
def State.fetchReady (s : State) (e : LinkEnt) (d : Desc) : Bool :=
  let l := s.linkSt e.link
  decide (d.started < d.tiles) &&
    (if d.dir = 1 then s.tilesIn e.link != 0
     else if e.remote && e.prod ≠ 0xFFFF then
      let live := (s.kimg e.link).branches.filter (·.live)
      let out := if e.chain = 0 then live.foldl (fun n b => max n (e.buffers - b.empty)) 0 else e.buffers - l.freeQ.length
      (decide (d.started + 1 ≤ e.ahead) || decide (out + 1 ≤ e.ahead)) && (s.kimg e.link).tiles.isEmpty &&
        (if e.chain = 0 then live.any fun b => b.empty != 0 else !l.freeQ.isEmpty)
     else (decide (d.started + 1 ≤ e.ahead) || decide (l.started + 1 ≤ l.released + e.ahead)) &&
      (if e.chain = 0 then l.empty != 0 else !l.freeQ.isEmpty))

/-- A descriptor of the link has tiles still to start. -/
def Desc.open_ (link : Nat) (d : Desc) : Bool := d.link == link && decide (d.started < d.tiles)

/-- The link's block in progress: the oldest of its descriptors with a tile to start. -/
def State.block (s : State) (c link : Nat) : Option Desc := (s.channel c).data.find? (Desc.open_ link)

/-- Update the link's block in progress, or take it off the queue. -/
def modBlock (c link : Nat) (f : Desc → Option Desc) (s : State) : State :=
  s.modChannel c fun x =>
    let i := x.data.findIdx (Desc.open_ link)
    { x with data := x.data.zipIdx.filterMap fun (d, j) => if j = i then f d else some d }

/-- The data queue of a channel has a unit it can start (R186). -/
def State.dataReady (s : State) (c : Nat) : Bool :=
  (s.img.linksOf c).any fun l => match s.img.flow? l, s.block c l with
    | some e, some d => s.fetchReady e d
    | _, _ => false

/-- A channel moves one unit of its head control descriptor, unless its data queue has a unit it can start (R186). Firmware's
own transfers of contexts (R254) end by their commands. -/
def execBellowsUnitTransfer (c : Nat) (ups : List Upset) (s : State) : Result :=
  let s := applyUpsets ups s
  let x := s.channel c
  match x.control with
  | [] => .next s
  | d :: _ =>
    if !d.checked || x.state == .halted || d.role != 0 || s.dataReady c then .next s
    else
      let ps := blockPieces d.block
      match ps[d.entry]? with
      | some p => done (moveUnit c d (readHead d.block) ps p s)
      | none => done (endControl c d.status.toNat s)

/-- The buffer that the head descriptor waits for has come. -/
def State.waitOver (s : State) (d : Desc) : Bool :=
  match s.img.link? d.link with
  | some e => (linkBuffer e d.dir d s).isSome
  | none => false

/-- A control descriptor has waited on an empty queue for BELLOWS_WAIT.LIMIT cc; what has arrived meanwhile is taken (R177,
R196, R202). -/
def execWaitLimit (c waited : Nat) (s : State) : Result :=
  let x := s.channel c
  match x.control with
  | [] => .next s
  | d :: _ =>
    if x.state == .wait && !s.waitOver d && max 1024 s.bellows.waitLim.toNat ≤ waited then done (endControl c 7 s) else .next s

/-! ## Fetch-ahead (R192) -/

/-- A tile of a data block has started. -/
def startTileOf (c link : Nat) (d : Desc) (s : State) : State :=
  modBlock c link (fun _ => some { d with started := d.started + 1 }) (s.modLink link fun l => { l with started := l.started + 1 })

/-- A block that takes tiles out of its link, or sends them on, has none of them to arrive here. -/
def closeTile (c link : Nat) (d : Desc) (s : State) : State :=
  let d := { d with started := d.started + 1, arrived := d.arrived + 1 }
  modBlock c link (fun _ => if d.tiles ≤ d.started then none else some d)
    (s.modLink link fun l => { l with started := l.started + 1 })

/-- The step that takes the next tile of a link, in the order in which a stage's steps read it. -/
def State.taker (s : State) (e : LinkEnt) : Option Step :=
  (s.stage e.cons).steps.find? fun t => t.state != .done && ((s.img.prog? t.prog).map ProgEnt.reads).any (·.contains e.link)

/-- A source granule of an input tile failed its check (R320, R321): the stream its header names aborts, or every stream of the
step that takes the tile. -/
def failLoad (e : LinkEnt) (tier g stream : Nat) (noStream : Bool) (seq : Nat) (s : State) : State :=
  let s := tagConsumerFail tier g stream noStream seq 2 s
  let ids := if noStream then ((s.taker e).map Step.streams).getD [] else [stream]
  s.each ids fun s id => abortStream id 7 (BitVec.ofNat 32 seq) 0 s

/-- A data block meets an uncorrectable error: it ends with 0x03 and its channel halts (R198). -/
def haltBlock (c link : Nat) (d : Desc) (tier a : Nat) (s : State) : State :=
  let x := s.channel c
  haltWith (s.descStreams (x.control ++ x.data)) c 3 (tierAddr tier a) (if d.noStream then 0xFFFF else d.stream) (haltLinkOf link)
    (modBlock c link (fun _ => none) s)

/-- The units of a tile one after another. -/
def moveTile (c : Nat) (e : LinkEnt) (h : Head) (ps : List Piece) (hb : W32) : Nat → Desc → State → Moved × State
  | 0, d, s => (.ok d [], s)
  | fuel + 1, d, s =>
    match ps[d.entry]? with
    | none => (.ok d [], s)
    | some p =>
      match moveLeg c true h ps p (some e) hb d s with
      | (.ok d _, s) => if tileEnds h ps d then (.ok d [], s) else moveTile c e h ps hb fuel d s
      | r => r

/-- The bytes of a tile that travels to another device, unit after unit, and the tags that go with it: those of the source
(CARRY), or made under the header (MAKE); under CHECK and NONE none yet (R190, R322). -/
def gatherTile (c : Nat) (e : LinkEnt) (h : Head) (ps : List Piece) (hb : W32) : Nat → Desc → List Byte → State → Moved × State
  | 0, d, b, s => (.ok d b, s)
  | fuel + 1, d, b, s =>
    match ps[d.entry]? with
    | none => (.ok d b, s)
    | some p =>
      let g := legOf s.img h ps p (some e) hb d
      match readLeg c true h ps p (some e) hb g d s with
      | (.ok d x, s) =>
        let d := d.past p g.n
        if tileEnds h ps d then (.ok d (b ++ x), s) else gatherTile c e h ps hb fuel d (b ++ x) s
      | r => r

/-- The granules of the linear entries of a list in order, for CARRY: all its addresses and lengths are whole granules. -/
def carried (h : Head) (ps : List Piece) (s : State) : List W32 :=
  ps.flatMap fun p => if p.strided then [] else (granulesOf p.src p.len).map (s.tier h.srcTier).tag

/-- The tags a tile of another device takes along; free values where TAG = NONE writes none. -/
def tileTags (h : Head) (ps : List Piece) (tile : Nat) (b : List Byte) (s : State) : List W32 × State :=
  let n := ceilDiv b.length 512
  match h.tag with
  | 1 => ((carried h ps s).drop (8 * tile) |>.take n, s)
  | 2 => ((List.range n).map fun g => tagOf h.stream h.noStream (h.seq0 + 8 * tile + g) (slice (512 * g) 512 b), s)
  | 3 => ([], s)
  | _ => ((List.range n).map fun g => (Config.freeValue (s.free + g)).setWidth 32, { s with free := s.free + n })

/-- A tile of a data block is fetched into the link's next buffer, or drained out of its next full one. -/
def fetchTile (c : Nat) (e : LinkEnt) (h : Head) (d : Desc) (s : State) : State :=
  let ps := blockPieces d.block
  if h.dir = 0 && e.remote && e.prod ≠ 0xFFFF then
    let hb := BitVec.ofNat 32 (((s.linkSt e.link).fillIdx + (s.kimg e.link).tiles.length) % max 1 e.buffers)
    match gatherTile c e h ps hb 1026 d [] s with
    | (.ue tier a, s) => haltBlock c e.link d tier a s
    | (.bad tier x st ns q, s) => failLoad e tier x st ns q (modBlock c e.link (fun _ => none) s)
    | (.ok d' b, s) =>
      let (ts, s) := tileTags h ps d.started b s
      produceTile e.link ⟨d.started == 0, d.started + 1 == d.tiles, b, ts⟩ (closeTile c e.link d' s)
  else
    match if h.dir = 0 then takeBuffer e s else takeFull e s with
    | none => s
    | some (hb, s) =>
      match moveTile c e h ps hb 1026 d s with
      | (.ue tier a, s) => haltBlock c e.link d tier a s
      | (.bad tier x st ns q, s) => failLoad e tier x st ns q (modBlock c e.link (fun _ => none) s)
      | (.ok d' _, s) =>
        if h.dir = 0 then (startTileOf c e.link d' s).modLink e.link fun l => { l with flight := l.flight ++ [hb] }
        else (releaseBuffer e hb (closeTile c e.link d' s)).2

/-- The block of a MOVE record starts a tile: its list, which the spec leaves to the image, comes with the first of them, and
is checked then. One that fails ends (R153, R189); a list that is not the record's is no list of it. -/
def startMove (c : Nat) (e : LinkEnt) (d : Desc) (list : List Byte) (s : State) : State :=
  if !d.block.isEmpty then fetchTile c e (readHead d.block) d s
  else
    let h := readHead list
    let st := if h.link ≠ e.link || h.bytes ≠ d.bytes || list.length < 16 * (h.count + 1) then 1 else s.blockStatus h (blockPieces list)
    if st ≠ 0 then modBlock c e.link (fun _ => none) s
    else
      let d := { d with block := list.take (16 * (h.count + 1)), checked := true, stream := h.stream, noStream := h.noStream }
      let s := modBlock c e.link (fun _ => some d) s
      if s.fetchReady e d then fetchTile c e h d s else s

/-! ## Text records (R233) -/

/-- The FEATURES entries at the head of a command queue. -/
def headFeatures (extra : Nat) (l : List (List Byte)) : List (List Byte) :=
  l.takeWhile fun e => entryOp e = 1 && !malformed extra e

/-- The records a stream offers a level-0 step: those not consumed of the FEATURES entries at the head of its queue; a
DRAINING stream's entries are not read. -/
def State.textRecords (s : State) (id : Nat) : List Byte :=
  let x := s.stream id
  if x.state == .draining then [] else
    ((headFeatures x.inp.extraCq (s.entries id)).flatMap fun e => slice 8 (8 * entryCount e) e).drop (8 * x.inp.consumed)

/-- Check the granules of the first `n` entries of a stream's command queue (R233, R321). -/
def checkEntries (id n : Nat) (s : State) : GRead × State :=
  let q := s.queue (qid id 0)
  let at_ := fun (i : Nat) => 64 * ((q.head.toNat + i) % max 1 q.depth) / 512
  let gs := ((List.range n).map at_).eraseDups
  gs.foldl (fun (acc : GRead × State) g =>
    match acc with
    | (.ok _, s) => readGranule 6 1 (q.base / 512 + g) id false g s
    | acc => acc) (.ok [], s)

/-- A stream's records for one step, at most `room` bytes: what its granules' check lets through. -/
def takeText (c link : Nat) (acc : Option (List Byte × Nat) × State) (id : Nat) : Option (List Byte × Nat) × State :=
  match acc with
  | (none, s) => (none, s)
  | (some (b, room), s) =>
    let x := s.stream id
    let recs := (s.textRecords id).take (room / 8 * 8)
    if recs.isEmpty then (some (b, room), s) else
      let last := x.inp.consumed + recs.length / 8
      let used := (headFeatures x.inp.extraCq (s.entries id)).foldl (fun (a : Nat × Nat) e =>
        if a.2 < last then (a.1 + 1, a.2 + entryCount e) else a) (0, 0)
      match checkEntries id used.1 s with
      | (.ue tier a, s) =>
        let y := s.channel c
        (none, haltWith (s.descStreams (y.control ++ y.data)) c 3 (tierAddr tier a) id (haltLinkOf link) s)
      | (.bad tier g seq, s) => (some (b, room), abortStream id 7 (BitVec.ofNat 32 seq) 0 (tagConsumerFail tier g id false seq 2 s))
      | (.ok _, s) =>
        (some (b ++ recs, room - recs.length),
          (s.modChannel c fun y => { y with bytesLive := satAdd y.bytesLive recs.length, lastUnit := none }).modStream id fun x =>
            { x with inp := { x.inp with placed := last } })

/-- Bellows places the records of a level-0 step's streams, row after row, in the next buffer of its input link, which takes
its own tags (R233, R317). -/
def fetchText (c : Nat) (e : LinkEnt) (d : Desc) (s : State) : State :=
  let t := (s.stage e.cons).steps.find? fun t => t.key == d.tid
  let ids := (t.map Step.streams).getD []
  match takeBuffer e s with
  | none => s
  | some (hb, s) =>
    match ids.foldl (takeText c e.link) (some ([], 4096), s) with
    | (none, s) => modBlock c e.link (fun _ => none) s
    | (some (b, _), s) =>
      let b := slice 0 (pad512 (max 1 b.length)) b
      let tags := (List.range (b.length / 512)).map fun g => tagOf 0xFFFF true (linkSeq hb g) (slice (512 * g) 512 b)
      (startTileOf c e.link d (writeTile e hb b tags s)).modLink e.link fun l => { l with flight := l.flight ++ [hb] }

/-! ## Weight streams (R194) -/

/-- The granules of one tile of a streamed tensor go to its window buffer with their tags, each checked first (R194, R320). -/
def moveWeights (c stage base : Nat) (s : State) (x : (Nat × Nat) × Nat) : State :=
  let ((tier, g), i) := x
  if (s.channel c).state == .halted then s else
    match readGranule 6 tier g 0xFFFF true g s with
    | (.ue tier a, s) =>
      let y := s.channel c
      haltWith (s.descStreams (y.control ++ y.data)) c 3 (tierAddr tier a) 0xFFFF 0xFFFF s
    | (r, s) =>
      let s := match r with
        | .bad tier g seq =>
          let s := tagConsumerFail tier g 0xFFFF true seq 2 s
          let taker := (s.stage stage).steps.find? fun (u : Step) => decide (u.wdone < u.wtiles)
          s.each ((taker.map Step.streams).getD []) fun s id => abortStream id 7 (BitVec.ofNat 32 seq) 0 s
        | _ => s
      let a := base + 512 * i
      let leg : Leg := { srcTier := tier, dstTier := 0, src := 512 * g, dst := a, n := 512, pos := 0, ends := true }
      let s := s.each (List.range 8) fun s k => noteLeg c true true 1 { leg with src := leg.src + 64 * k, dst := a + 64 * k, n := 64 } s
      setTag 0 (a / 512) ((s.tier tier).tag g) (writeMem 0 a ((s.tier tier).deliver (512 * g) 512) s)

/-- The next tile of a streamed tensor's block starts: its granules in the order of R32. -/
def fetchWeights (c : Nat) (e : LinkEnt) (d : Desc) (s : State) : State :=
  match s.img.tensor? d.tid, takeBuffer e s with
  | some t, some (hb, s) =>
    let gs := (t.granules.drop (8 * d.started)).take 8
    let s := gs.zipIdx.foldl (moveWeights c e.cons (s.img.bufferAddr e (hb.toNat % 65536))) s
    if (s.channel c).state == .halted then modBlock c e.link (fun _ => none) s
    else (startTileOf c e.link d s).modLink e.link fun l => { l with flight := l.flight ++ [hb] }
  | _, _ => s

/-- The fetch of the next tile of a link's block starts (R192). `head`, `entries`: the block list of a MOVE's block,
with its first tile. -/
def execTileFetchStart (link : Nat) (head entries : List Byte) (ups : List Upset) (s : State) : Result :=
  match s.img.flow? link, s.img.linkChannel link with
  | some e, some c =>
    let s := applyUpsets ups s
    match s.block c link with
    | none => .next s
    | some d =>
      if (s.channel c).state == .halted then .next s
      else if d.role = 1 && d.block.isEmpty then done (startMove c e d (head ++ entries) s)
      else if !s.fetchReady e d then .next s
      else done (match d.role with
        | 4 => fetchText c e d s
        | 5 => fetchWeights c e d s
        | _ => startMove c e d (head ++ entries) s)
  | _, _ => .next s

/-! ## Restart (R200) -/

/-- The chain of a link as RESTART leaves it: no buffer is on its way or held, no block queued. -/
def resetChain (e : LinkEnt) (l : LinkSt) : LinkSt :=
  let n := max l.started l.queued
  let l := { l with flight := [], gaps := [], heads := [], started := n, released := n }
  if e.chain = 0 then { l with empty := e.buffers, full := 0, readIdx := l.fillIdx, readLap := l.fillLap }
  else
    let gens := (List.range e.buffers).foldl (fun m i => cput 0 i (cget 0 m i + 1) m) l.gens
    { l with gens := gens, fullQ := [], freeQ := (List.range e.buffers).map fun i => BitVec.ofNat 32 ((cget 0 gens i).toNat * 65536 + i) }

/-- RESTART of a halted channel. -/
def chRestart (c : Nat) (s : State) : State :=
  let x := s.channel c
  if x.state != .halted then s.modChannel c fun x => { x with cmdErr := true } else
    let n := x.control.length + x.data.length
    let s := s.modChannel c fun x => { x with
      state := .idle, haltCode := 0, control := [], data := [], restarts := satInc x.restarts
      lastSeq := x.lastSeq + BitVec.ofNat 16 x.control.length, lastStatus := if x.control.isEmpty then x.lastStatus else 8 }
    let s := s.each (s.img.linksOf c) fun s l => match s.img.flow? l with
      | some e =>
        let s := s.modLink l (resetChain e)
        wakeFlow l (s.modKimg l fun k => { k with branches := k.branches.map fun b => { b with empty := e.buffers } })
      | none => s
    record 0x0303 (BitVec.ofNat 32 c) (s.channel c).restarts (BitVec.ofNat 32 n) 0 s

def execChRestart (r : Nat) (s : State) : Result := byReader .session r (fun s => chRestart (s.sess r).sel.channel.toNat s) s

/-! ## Registers (R202, R203) -/

def chStateCode (x : Channel) : Nat :=
  if x.state == .halted then 3 else if x.control.isEmpty && x.data.isEmpty then 0 else if x.state == .wait then 2 else 1

def readBellows (r off : Nat) (s : State) : W32 :=
  let y := (s.sess r).sel
  let x := s.channel y.channel.toNat
  let l := s.linkSt y.link.toNat
  let e := s.img.link? y.link.toNat
  match off with
  | 0x00 => y.channel.setWidth 32
  | 0x04 => at_ 24 ((s.img.linkChannel y.link.toNat).getD 0) ||| y.link.setWidth 32
  | 0x08 => s.bellows.waitLim.setWidth 32
  | 0x40 => bitAt 24 x.cmdErr ||| at_ 16 x.haltCode.toNat ||| at_ 8 x.control.length ||| at_ 0 (chStateCode x)
  | 0x48 => y.descLo
  | 0x4C => y.descHi
  | 0x50 => at_ 16 x.lastSeq.toNat ||| x.lastStatus.setWidth 32
  | 0x54 => lo32 x.haltAddr
  | 0x58 => hi32 x.haltAddr
  | 0x5C => at_ 16 x.haltStream.toNat ||| x.haltLink.setWidth 32
  | 0x60 => lo32 x.bytes
  | 0x64 => hi32 x.bytes
  | 0x68 => x.merged
  | 0x6C => x.restarts
  | 0x80 => match e with
    | some e => bitAt 31 true ||| bitAt 30 (e.chain == 1) ||| at_ 13 (if e.chain = 0 then l.empty else l.freeQ.length) |||
        at_ 0 (if e.chain = 0 then l.full else l.fullQ.length)
    | none => 0
  | 0x84 => l.stale
  | _ =>
    if 0x10 ≤ off && off ≤ 0x2C && off % 4 = 0 then
      (List.range 32).foldl (fun v i => v ||| bitAt i ((s.channel (32 * ((off - 0x10) / 4) + i)).state == .halted)) 0
    else 0

def writeBellows (r off : Nat) (v : W32) (s : State) : State :=
  let sel := fun (f : SessSel → SessSel) => s.modSess r fun x => { x with sel := f x.sel }
  match off with
  | 0x00 => sel fun y => { y with channel := v.setWidth 8 }
  | 0x04 => sel fun y => { y with link := v.setWidth 16 }
  | 0x08 => { s with bellows := { s.bellows with waitLim := v.setWidth 24 } }
  | 0x40 => s.modChannel (s.sess r).sel.channel.toNat fun x => { x with cmdErr := w1c x.cmdErr v 24 }
  | 0x44 =>
    match v.toNat % 16 with
    | 1 => chSubmit r s
    | 2 => chRestart (s.sess r).sel.channel.toNat s
    | _ => s.modChannel (s.sess r).sel.channel.toNat fun x => { x with cmdErr := true }
  | 0x48 => sel fun y => { y with descLo := v }
  | 0x4C => sel fun y => { y with descHi := v &&& 0xC000FFFF }
  | _ => s

end Sys2Proof.Machine
end

