-- ==== Sys2Proof/Machine/Profiles.lean ====
section
/-! DEFINITION. Voice profiles at rest: PROFILE_CMD (R251), STORE (R247, R397), fetches (R250, R398), the staging buffers. -/

namespace Sys2Proof.Machine

/-! ## Places (R246, R281, R284, R316) -/

def storeSlot (p : Nat) : Nat := 0x10000000 + p * 0x40000
def cacheSlot (i : Nat) : Nat := 0xBC00000000 + i * 0x40000
/-- Offset of the protection record in a store slot (R397). -/
def protectAt : Nat := 262080
def protectSlot (p : Nat) : Nat := 0x1003FFC0 + p * 0x40000

/-- The profile key in force. -/
def State.profileKey (s : State) : BitVec 256 := s.sec.profileKey.getD Config.noProfileKey

def State.modProf (s : State) (r : Nat) (f : SessProf → SessProf) : State := s.modSess r fun x => { x with prof := f x.prof }

/-- The staged bytes [o, o + n) of a session. -/
def State.staged (s : State) (r o n : Nat) : List Byte := (List.range n).map fun i => cget 0 (s.sess r).prof.staging (o + i)

/-- A profile command ends with a result (R251). -/
def endProfileCmd (r code : Nat) (s : State) : State :=
  s.modProf r fun x => { x with busy := none, result := BitVec.ofNat 8 code }

/-- Every PREFETCH of a profile ends with a result. -/
def endPrefetches (p code : Nat) (s : State) : State :=
  s.each (List.range 8) fun s r => if (s.sess r).prof.busy == some (3, p) then endProfileCmd r code s else s

/-! ## The commands (R251) -/

/-- The header of the staged profile keeps R247. -/
def stagedOk (r p : Nat) (s : State) : Bool :=
  let h := s.staged r 0 16
  let len := field h 0 4
  len % 64 == 0 && decide (64 ≤ len) && decide (len ≤ protectAt) && field h 4 4 == p

/-- Why a STORE fails, if it does. -/
def storeRefusal (r p : Nat) (s : State) : Option Nat :=
  if s.profCap.toNat ≤ p then some 1
  else if !stagedOk r p s then some 2
  else if s.pins p ≠ 0 then some 3
  else none

/-- A profile command is taken by a session that runs none, outside a zeroisation (R251, R406). -/
def startProfileCmd (r cmd p : Nat) (f : State → State) (s : State) : State :=
  if (s.sess r).prof.busy.isSome || s.sec.wiping then s.modProf r fun x => { x with cmdErr := true }
  else f (s.modProf r fun x => { x with busy := some (cmd, p) })

def doStore (r p : Nat) : State → State :=
  startProfileCmd r 1 p fun s => match storeRefusal r p s with
    | some c => endProfileCmd r c s
    | none => s

/-- DELETE: from its acceptance the profile is EMPTY, its slot and cache copy zeros; a fetch of it ends. -/
def doDelete (r p : Nat) : State → State :=
  startProfileCmd r 2 p fun s =>
    let x := s.profile p
    if s.profCap.toNat ≤ p then endProfileCmd r 1 s
    else if s.pins p ≠ 0 then endProfileCmd r 3 s
    else if !x.stored then endProfileCmd r 4 s
    else
      let zeros := List.replicate 0x40000 (0 : Byte)
      let s := writeMem 2 (storeSlot p) zeros s
      let s := match x.slot with
        | some i => writeMem 1 (cacheSlot i) zeros s
        | none => s
      endPrefetches p 4 (s.modProfile p fun _ => {})

def doPrefetch (r p : Nat) : State → State :=
  startProfileCmd r 3 p fun s =>
    if s.profCap.toNat ≤ p then endProfileCmd r 1 s
    else if !(s.profile p).stored then endProfileCmd r 4 s
    else if !s.placeable p then endProfileCmd r 6 s
    else startFetch p s

/-! ## Self-tests (R409) -/

def State.modSec (s : State) (f : Sec → Sec) : State := { s with sec := f s.sec }

/-- The codes of the pre-operational tests; of the continuous tests of a draw, the conditional test of a key pair, and the
integrity test of a key-store write (R395, R409). -/
def bootTests : List (BitVec 8) := [1, 2, 3, 4, 5, 6, 7, 8, 9]
def drawTests : List (BitVec 8) := [0x0A, 0x0B]
def pairTests : List (BitVec 8) := [0x0C]
def storeTests : List (BitVec 8) := [0x0D]

/-- A self-test fails: MODE ERROR with its code, event 0x0902. -/
def testFailed (code : BitVec 8) (s : State) : State :=
  let s := s.modSec fun x => { x with mode := .error, errCode := code, error := true }
  fire 8 (record 0x0902 (code.setWidth 32) 0 0 0 s)

/-- The outcome of some tests: the one at a place of the list fails, or none. -/
def endTests (codes : List (BitVec 8)) (fails : Option Nat) (s : State) : State :=
  match fails.bind fun i => codes[i % codes.length]? with
  | some code => testFailed code s
  | none => s

/-- The pre-operational tests run, at boot with the key store's. -/
def runTests (codes : List (BitVec 8)) (s : State) : State :=
  endTests codes (Config.selfTestFails s.free) { s with free := s.free + 1 }

/-- The tests of a draw, a key pair or a key-store write run on every use: one that fails puts MODE into ERROR; the use itself
stands. -/
def useTest (codes : List (BitVec 8)) (s : State) : State :=
  endTests codes (Config.useTestFails s.free) { s with free := s.free + 1 }

/-- The number of the next DRBG draw (R394), tested as it is used. -/
def takeDraw (s : State) : Nat × State := (s.sec.drbg, useTest drawTests (s.modSec fun x => { x with drbg := x.drbg + 1 }))

/-! ## Profile commands (R251, R397) -/

/-- STORE's effect: the profile is encrypted into its slot under the next value of the store counter, 2^20 of which the key
store reserves at a time (R397). -/
def storeProfile (r p : Nat) (s : State) : State :=
  let h := s.staged r 0 16
  let len := field h 0 4
  let iv := leBytes 4 p ++ leBytes 8 s.sec.storeCtr
  let aad := leBytes 4 p ++ leBytes 4 len ++ leBytes 8 (field h 8 8)
  let (c, tag) := Config.gcmSeal s.profileKey iv aad (s.staged r 0 len)
  let rec_ := leBytes 4 1 ++ iv ++ leBytes 16 tag.toNat ++ leBytes 4 len ++ leBytes 4 p ++ leBytes 8 (field h 8 8) ++
    List.replicate 16 0
  let s := writeMem 2 (protectSlot p) rec_ (writeMem 2 (storeSlot p) (slice 0 len c) s)
  let s := if s.sec.storeCtr % 2 ^ 20 = 0 then useTest storeTests s else s
  let s := s.modSec fun x => { x with storeCtr := x.storeCtr + 1 }
  let s := s.modProf r fun x => { x with staging := [] }
  s.modProfile p fun x => { x with stored := true, len := len, version := BitVec.ofNat 64 (field h 8 8), slot := none }

/-- A profile command finishes (R251). A PREFETCH finishes with its fetch, or here where the profile is RESIDENT. -/
def profileCmdEnd (r : Nat) (s : State) : State :=
  match (s.sess r).prof.busy with
  | none => s
  | some (cmd, p) =>
    match cmd with
    | 1 => match storeRefusal r p s with
      | some c => endProfileCmd r c s
      | none => endProfileCmd r 0 (storeProfile r p s)
    | 2 => endProfileCmd r 0 s
    | _ => if (s.profile p).fetching.isSome then s else endProfileCmd r 0 s

def execStore (r profile : Nat) (s : State) : Result := byReader .session r (fun s => doStore r (profile % 2 ^ 20) s) s
def execDelete (r profile : Nat) (s : State) : Result := byReader .session r (fun s => doDelete r (profile % 2 ^ 20) s) s
def execPrefetch (r profile : Nat) (s : State) : Result := byReader .session r (fun s => doPrefetch r (profile % 2 ^ 20) s) s
def execProfileCmdEnd (r : Nat) (s : State) : Result := done (profileCmdEnd r s)

/-- PROFILE_CMD (R256). -/
def writeProfileCmd (r : Nat) (v : W32) (s : State) : State :=
  let p := v.toNat % 2 ^ 20
  match v.toNat / 2 ^ 28 with
  | 1 => doStore r p s
  | 2 => doDelete r p s
  | 3 => doPrefetch r p s
  | _ => s.modProf r fun x => { x with cmdErr := true }

/-! ## Fetches (R248, R250, R398) -/

/-- A read that ends at uncorrectable data, and what goes on with its bytes. -/
def readThen (r : Option (List Byte) × State) (f : List Byte → State → Option (List Byte) × State) : Option (List Byte) × State :=
  match r with
  | (none, s) => (none, s)
  | (some b, s) => f b s

/-- The plaintext of a stored profile: none where a word cannot be read or the protection fails. -/
def openProfile (p : Nat) (s : State) : Option (List Byte) × State :=
  readThen (readFixed 8 0xFFFF 2 (protectSlot p) 64 s) fun b s =>
    let len := field b 32 4
    if s.sec.mode == .error || field b 0 4 ≠ 1 || field b 36 4 ≠ p || len % 64 ≠ 0 || len = 0 || protectAt < len then (none, s)
    else readThen (readFixed 8 0xFFFF 2 (storeSlot p) len s) fun c s =>
      (Config.gcmOpen s.profileKey (slice 4 12 b) (slice 36 4 b ++ slice 32 4 b ++ slice 40 8 b) c
        (BitVec.ofNat 128 (field b 16 16)), s)

/-- The stream awaits the profile: it pins it, or its next token reads it. -/
def State.awaitsProfile (s : State) (p : Nat) (id : Nat) : Bool :=
  let x := s.stream id
  (x.pinned && x.voice.toNat == p) || ((x.state == .running || x.state == .draining) && (s.nextVoice id).toNat == p)

/-- A fetch fails: the streams that await the profile abort with cause 0x05, event 0x0205 (R250, R258). -/
def fetchFailed (p : Nat) (s : State) : State :=
  let s := s.modProfile p fun x => { x with fetching := none }
  let ids := (s.streams.map (·.1)).filter fun id => s.awaitsProfile p id && abortable (s.stream id).state
  let s := s.each ids fun s id => abortStream id 5 (BitVec.ofNat 32 p) 0 s
  record 0x0205 (BitVec.ofNat 32 p) (BitVec.ofNat 32 ids.length) 0 0 (endPrefetches p 5 s)

/-- A profile fetch ends (R250, R398). -/
def execProfileFetchComplete (profile : Nat) (ups : List Upset) (s : State) : Result :=
  match (s.profile profile).fetching with
  | none => .next s
  | some i =>
    match openProfile profile (applyUpsets ups s) with
    | (none, s) => done (fetchFailed profile s)
    | (some b, s) =>
      let a := cacheSlot i
      let s := writeTagged 1 a b 0xFFFF true (fun g => 512 * i + (g - a / 512)) s
      let s := released profile (s.modProfile profile fun x => { x with fetching := none, slot := some i })
      let s := endPrefetches profile 0 s
      done (s.each (s.streams.map (·.1)) fun s id => if s.awaitsProfile profile id then progress id s else s)

end Sys2Proof.Machine
end

