-- ==== Sys2Proof/Machine/Transport.lean ====
section
/-! DEFINITION. Suithen Transport (R330 to R336, R472): checks, replies, repeats, sessions; the destination table (R337
to R339); neighbour messages, link and frame commands of the Ethernet port (R327 to R329, R338, R345). -/

namespace Sys2Proof.Machine

/-- What a request's execution answers: a reply payload, or STATUS, DETAIL and ARG of an error reply (R334). -/
inductive Reply where
  | ok (payload : List Byte)
  | err (status detail arg : Nat)
  deriving DecidableEq, Repr

def errorPayload (status detail arg : Nat) : List Byte := leBytes 2 status ++ leBytes 2 detail ++ leBytes 4 arg

/-- The reply message to a request (R472). -/
def replyMsg (typ : Byte) (q : Req) (session : Byte) (y : Reply) : Msg :=
  match y with
  | .ok p => ⟨typ, true, false, session, q.srcDev, q.reqId, q.arg, p, q.ip, q.port⟩
  | .err st d a => ⟨typ, true, true, session, q.srcDev, q.reqId, q.arg, errorPayload st d a, q.ip, q.port⟩

def rxBad (s : State) : State := s.modEth fun e => { e with rxBad := satInc e.rxBad }
def rxDrop (s : State) : State := s.modEth fun e => { e with rxDrop := satInc e.rxDrop }

/-- Check 4 of R331. -/
def forUs (dst : W16) (s : State) : Bool := dst == s.eth.devAddr || dst == 0xFFFF

/-- The reply to an executed request: kept with its session's last 16, and sent (R335). -/
def answer (typ : Byte) (q : Req) (y : Reply) (s : State) : State :=
  let i := q.session.toNat
  let m := replyMsg typ q q.session y
  let s := if (s.sess i).isOpen then
      s.modSess i fun x => { x with replies := ((q.reqId, m) :: x.replies).take 16 }
    else s
  sendOut (.st m) s

/-- A request of an open session: checks 4 and 6 of R331, the repeat of R335, then execution, the counts of R450 and R455,
and the reply. The execution answers none where the reply waits for a ring's members (R366). -/
def serveOpt (typ : Byte) (q : Req) (f : State → Option Reply × State) (s : State) : State :=
  if !s.receives then s
  else if !forUs q.dstDev s then rxDrop s
  else
    let i := q.session.toNat
    if !(decide (i < 8) && (s.sess i).isOpen) then
      sendOut (.st (replyMsg typ q q.session (.err 4 0 0))) (rxBad s)
    else if s.kl.waits.any fun w => w.req.session == q.session && w.req.reqId == q.reqId then s
    else match (s.sess i).replies.find? (·.1 = q.reqId) with
      | some (_, m) => sendOut (.st m) s
      | none =>
        let s := s.modSess i fun x => { x with int := { x.int with reqs := x.int.reqs + 1 } }
        let s := s.modLive fun c => { c with exec := satInc c.exec }
        match f s with
        | (some y, s) => answer typ q y s
        | (none, s) => s

/-- A request that is answered as it is executed. -/
def serve (typ : Byte) (q : Req) (f : State → Reply × State) (s : State) : State :=
  serveOpt typ q (fun s => let (y, s) := f s; (some y, s)) s

/-- A NOP is answered with an empty reply; its ARG is 0 and its payload empty (R332). -/
def execNop (q : Req) (s : State) : Result :=
  done (serve 0x03 q (fun s => (if q.payload.isEmpty && q.arg == 0 then .ok [] else .err 5 0 0, s)) s)

/-! ## Sessions (R335, R336, R400, R421) -/

/-- A session closes: its registers, build and staging buffers, Crypto Officer rights, KEK and freeze go. -/
def closeSess (i : Nat) (s : State) : State :=
  let s := s.setSess i {}
  let s := s.modEth fun e => { e with opens := e.opens.map fun o => if o.2.2.2.1 = i then (o.1, o.2.1, o.2.2.1, 8, o.2.2.2.2) else o }
  pumpAll (s.modReader i fun _ => {})

/-- A session opens with every copy of a per-session register at its reset value. -/
def openSess (i : Nat) (role : Bool) (s : State) : State :=
  (s.setSess i (freshSession role)).modReader i fun _ => {}

/-- The session a SESSION_OPEN is given, or the error (R332, R334). -/
def pickSession (q : Req) (s : State) : Nat ⊕ Reply :=
  let want := bitsOf q.arg.toNat 0 8
  let role := bitsOf q.arg.toNat 8 8
  if !q.payload.isEmpty || 1 < role || 2 ^ 16 ≤ q.arg.toNat || (7 < want && want != 0xFF) then .inr (.err 5 0 0)
  else if want = 0xFF then
    match lowestFree (fun i => (s.sess i).isOpen) 8 0 with
    | some i => .inl i
    | none => .inr (.err 4 0 0)
  else if (s.sess want).isOpen then .inr (.err 4 0 0) else .inl want

def execSessionOpen (q : Req) (s : State) : Result :=
  if !s.receives then .next s
  else if !forUs q.dstDev s then done (rxDrop s)
  else match s.eth.opens.find? fun o => o.1 == q.reqId && o.2.1 == q.ip && o.2.2.1 == q.port && decide (o.2.2.2.1 < 8) with
    | some o => done (sendOut (.st o.2.2.2.2) s)
    | none =>
      let s := s.modLive fun c => { c with exec := satInc c.exec }
      let (i, m, s) := match pickSession q s with
        | .inl i => (i, replyMsg 0x01 q (BitVec.ofNat 8 i) (.ok []), openSess i (q.arg.getLsbD 8) s)
        | .inr y => (0xFF, replyMsg 0x01 q q.session y, s)
      let s := s.modEth fun e => { e with opens := ((q.reqId, q.ip, q.port, i, m) :: e.opens).take 16 }
      done (sendOut (.st m) s)

def execSessionClose (q : Req) (s : State) : Result :=
  done (serve 0x02 q (fun s =>
    if !q.payload.isEmpty || q.arg ≠ 0 then (.err 5 0 0, s) else (.ok [], closeSess q.session.toNat s)) s)

/-- The lease passes without a message of the session: it closes, event 0x0606 (R336, R348). -/
def execSessionLeaseExpiry (sess : Nat) (s : State) : Result :=
  if sess < 8 && (s.sess sess).isOpen then
    done (fire 5 (record 0x0606 (BitVec.ofNat 32 sess) (lo32 s.tl.pos) 0 0 (closeSess sess s)))
  else .next s

/-! ## Messages that fail a check (R331) -/

/-- TYPEs a host may send (R332). -/
def hostType (t : Nat) : Bool :=
  [0x01, 0x02, 0x03, 0x10, 0x11, 0x20, 0x21, 0x30, 0x31, 0x32, 0x38, 0x39].contains t || (decide (0x60 ≤ t) && decide (t ≤ 0x6E))

/-- A device address is a member of some ring of this device (R369). -/
def State.ringMember (s : State) (a : W16) : Bool := s.kl.ring.any fun e => e.2.getLsbD 31 && ringAddr e.2 == a

/-- The header of a raw message as a request. -/
def rawReq (ip : BitVec 128) (port : W16) (raw : List Byte) : Req :=
  ⟨BitVec.ofNat 8 (field raw 3 1), BitVec.ofNat 16 (field raw 4 2), BitVec.ofNat 16 (field raw 6 2),
    BitVec.ofNat 32 (field raw 8 4), BitVec.ofNat 64 (field raw 16 8), ip, port, []⟩

/-- The error reply to a message whose CHECK failed: its header echoed with REPLY, ERROR and LEN set (R331). -/
def rawEcho (raw : List Byte) : List Byte :=
  let flags : Byte := BitVec.ofNat 8 (field raw 2 1) ||| 3
  let m := raw.take 2 ++ [flags] ++ slice 3 9 raw ++ leBytes 2 8 ++ slice 14 10 raw ++ errorPayload 1 0 0
  m ++ leBytes 4 (crc32c m).toNat

/-- The checks of R331 in order, on a whole datagram. -/
def execStMessageRefused (ip : BitVec 128) (port : W16) (raw : List Byte) (s : State) : Result :=
  let n := raw.length
  let len := field raw 12 2
  let typ := field raw 1 1
  let q := rawReq ip port raw
  let bad := fun st => done (sendOut (.st (replyMsg (BitVec.ofNat 8 typ) q q.session (.err st 0 0))) (rxBad s))
  if !s.receives then .next s
  else if n < 28 then done (rxBad s)
  else if n ≠ 24 + len + 4 || 8192 < len then bad 2
  else if (crc32c (raw.take (n - 4))).toNat ≠ field raw (n - 4) 4 then
    done (sendOut (.stRaw (rawEcho raw) ip port) (ingressBad (rxBad s)))
  else if field raw 0 1 ≠ 1 || field raw 2 1 / 4 ≠ 0 || field raw 14 2 ≠ 0 then bad 2
  else if !forUs q.dstDev s then done (rxDrop s)
  else if 0x50 ≤ typ && typ ≤ 0x52 && q.srcDev ≠ 0xFFFE then
    (if !s.takesPart then bad 3 else if q.session = 0xFF && s.ringMember q.srcDev then .next s else bad 4)
  else if !hostType typ then bad 3
  else if typ = 1 || (q.session.toNat < 8 && (s.sess q.session.toNat).isOpen) then .next s
  else bad 4

/-! ## The destination table (R337 to R339, R453) -/

/-- An entry's fields keep R338. -/
def destOk (e : BitVec 512) : Bool :=
  let f := destField e
  match f 0 1 with
  | 0 => e == 0
  | k =>
    let v6 := f 2 1 == 1
    let multicast := if v6 then f 24 1 == 0xFF else decide (0xE0 ≤ f 24 1) && decide (f 24 1 ≤ 0xEF)
    decide (k ≤ 2) && decide (f 2 1 ≤ 1) && decide (f 3 1 < 64) && decide (1 ≤ f 4 1) && f 46 18 == 0 &&
    (v6 || f 28 12 == 0) && (f 22 2 / 4096 % 2 == 0) && (!multicast || f 40 6 == 0) &&
    (if k == 1 then
      decide (f 1 1 ≤ 3) && decide (6 ≤ f 10 2) && decide (f 10 2 ≤ 1440) &&
      (match f 1 1 with
        | 2 => f 5 1 == 0
        | 3 => f 5 1 == 8
        | _ => decide (96 ≤ f 5 1) && decide (f 5 1 ≤ 127))
    else f 1 1 == 0 && f 5 1 == 0 && f 10 12 == 0)

/-- A stream or an INT_DEST names the entry (R339, R453). -/
def destInUse (entry : Nat) (s : State) : Bool :=
  (s.streams.any fun x => (x.2.bind.map (·.entry)) == some entry || x.2.cplDest == some entry || x.2.audioDest == some entry) ||
  s.sessions.any fun x => x.2.isOpen && x.2.int.destValid && x.2.int.destEntry.toNat == entry

def execDestWrite (q : Req) (s : State) : Result :=
  done (serve 0x38 q (fun s =>
    let entry := q.arg.toNat
    let e := BitVec.ofNat 512 (leNat q.payload)
    if 4096 ≤ entry || q.payload.length ≠ 64 then (.err 5 0 0, s)
    else if destInUse entry s then (.err 12 0 0, s)
    else if !destOk e then (.err 5 0 0, s)
    else
      let s := s.modEth fun x => { x with dest := cput 0 entry e x.dest, resolved := x.resolved.filter (·.1 != entry) }
      (.ok [], if destKind e ≠ 0 && s.unresolved entry then sendOut (.resolve entry) s else s)) s)

def execDestRead (q : Req) (s : State) : Result :=
  done (serve 0x39 q (fun s =>
    if 4096 ≤ q.arg.toNat || !q.payload.isEmpty then (.err 5 0 0, s)
    else (.ok (leBytes 64 (s.dest q.arg.toNat).toNat), s)) s)

/-! ## Neighbours, link, frames -/

/-- An ARP request for the device's IPv4 address is answered (R327). -/
def execArp (senderMac : BitVec 48) (senderIp targetIp : W32) (s : State) : Result :=
  if s.receives && targetIp ≠ 0 && targetIp = s.eth.ip4 then done (sendOut (.arpReply senderMac senderIp) s) else .next s

/-- The link-local address formed from the MAC as modified EUI-64. -/
def linkLocal : BitVec 128 :=
  let m := Config.mac.toNat
  BitVec.ofNat 128 (0xFE80 * 2 ^ 112 + ((m / 2 ^ 24) ^^^ 0x020000) * 2 ^ 40 + 0xFFFE * 2 ^ 24 + m % 2 ^ 24)

/-- The device answers on its link-local address and its global one, where one is set. -/
def State.ownsV6 (s : State) (a : BitVec 128) : Bool := a == linkLocal || (a != 0 && a == s.eth.ip6)

/-- A neighbour solicitation for a device address is answered with an advertisement (R327). -/
def execNeighbourSolicitation (source target : BitVec 128) (s : State) : Result :=
  if s.receives && s.ownsV6 target then done (sendOut (.advertisement source target) s) else .next s

/-- An echo request to a device address is answered (R327). -/
def execEchoRequest (source dest : BitVec 128) (v6 : Bool) (data : List Byte) (s : State) : Result :=
  let ours := if v6 then s.ownsV6 dest else s.eth.ip4 ≠ 0 && dest = s.eth.ip4.setWidth 128
  if s.receives && ours then done (sendOut (.echoReply dest source v6 data) s) else .next s

/-- A datagram to a port other than ST or PTP is discarded and counted; no ICMP is sent (R327). -/
def execUdpOtherPort (dport : W16) (s : State) : Result :=
  if s.receives && dport ≠ s.eth.stPort && dport ≠ 319 && dport ≠ 320 then done (rxDrop s) else .next s

/-- With MACsec enabled an unprotected or invalid frame is discarded and counted (R345): no key for its association, its
channel disabled, its integrity check failed, or its packet number outside the replay window. A frame that passes
advances the association's packet number. -/
def execMacsecDrop (sc an : Nat) (isProtected icvOk : Bool) (pn : Nat) (s : State) : Result :=
  let m := s.eth.macsec
  let drop := done (s.modMacsec fun m => { m with drop := satInc m.drop })
  if !(s.receives && m.en) then .next s
  else if !isProtected || !icvOk || !m.rxEnable.getLsbD sc || s.sec.mode == .error then drop
  else match m.rx.find? (·.1 = sc * 4 + an) with
    | none => drop
    | some (k, a) =>
      if pn + m.window.toNat < a.pn then drop
      else done (s.modMacsec fun m => { m with rx := cput {} k { a with pn := max a.pn (pn + 1) } m.rx })

/-- An on-link unicast destination address is resolved, or asked for again every 60 s (R338). -/
def execAddressResolution (entry : Nat) (found : Option (BitVec 48)) (s : State) : Result :=
  let e := s.dest entry
  if destKind e = 0 || destField e 40 6 ≠ 0 || destMulticast e then .next s
  else match found with
    | some mac => done (s.modEth fun x => { x with resolved := cput 0 entry mac x.resolved })
    | none => done (sendOut (.resolve entry) s)

/-- The link comes up, at 1.6 Tb/s or 800 Gb/s: event 0x0601; after three failed trainings at 1.6 Tb/s under SPEED 0,
at 800 Gb/s with event 0x0603; under SPEED 1 at no other speed than 1.6 Tb/s (R328, R348). -/
def execEthLinkUp (at16 : Bool) (fails : Nat) (s : State) : Result :=
  let e := s.eth
  let auto := e.speed = 0 || e.speed = 3
  let rate800 := if auto then !at16 || decide (3 ≤ fails) else e.speed = 2
  if e.up || !e.linkEn || (e.speed = 1 && !at16) || s.pwr.inReset || s.pwr.state == .shutdown || s.pwr.stage.toNat < 2 then .next s
  else
    let s := s.modEth fun e => { e with
      up := true, rate800 := rate800, ptpState := if e.ptpState == .initializing then .listening else e.ptpState }
    let s := fire 5 (record 0x0601 (if rate800 then 1 else 0) (lo32 s.tl.pos) (hi32 s.tl.pos) 0 s)
    done (if auto && decide (3 ≤ fails) then fire 5 (record 0x0603 (BitVec.ofNat 32 fails) 0 0 0 s) else s)

/-- The link goes down: from then on every frame that falls due is discarded and counted (R329, R348). -/
def linkDown (s : State) : State :=
  if !s.eth.up then s else
    let s := s.modEth fun e => { e with up := false, rate800 := false, lost := true }
    fire 5 (record 0x0602 (lo32 s.tl.pos) (hi32 s.tl.pos) 0 0 s)

def execEthLinkDown (s : State) : Result := done (linkDown s)

/-- IGMPv3 or MLDv2 reports for the PTP groups, at a join or in answer to a query (R327, R344); one of a join that falls due
while the link is down is discarded and counted (R329). Under IPV6 the AES67
profile joins ff0e::181, otherwise 224.0.1.129. -/
def execIgmpMldReport (v6 query : Bool) (s : State) : Result :=
  let joined6 := s.eth.ptpV6 && s.eth.ptpProf ≠ 1
  let due := if query then s.receives else !s.pwr.inReset && s.pwr.state != .shutdown && s.eth.ptpState != .faulty
  if v6 == joined6 && due then done (sendOut (.groupReport v6) s) else .next s

/-! ## Registers of the ETH block (R347) -/

def ptpCode : PtpState → Nat
  | .initializing => 0 | .listening => 1 | .uncalibrated => 2 | .slave => 3 | .faulty => 4

/-- The transmit association's packet number is at least num / den of its limit. -/
def txPast (num den : Nat) (m : Macsec) : Bool :=
  match m.tx.find? (·.1 = m.txAn.toNat) with
  | some (_, a) => decide (num * pnLimit a ≤ den * a.pn)
  | none => false

def readEth (off : Nat) (s : State) : W32 :=
  let e := s.eth
  match off with
  | 0x00 => at_ 8 e.speed.toNat ||| bitAt 0 e.linkEn
  | 0x04 => bitAt 2 e.lost ||| bitAt 1 e.rate800 ||| bitAt 0 e.up
  | 0x08 => BitVec.ofNat 32 Config.mac.toNat
  | 0x0C => BitVec.ofNat 32 (Config.mac.toNat / 2 ^ 32)
  | 0x10 => e.devAddr.setWidth 32
  | 0x14 => e.ip4
  | 0x18 => BitVec.ofNat 32 (e.ip6.toNat / 2 ^ 96)
  | 0x1C => BitVec.ofNat 32 (e.ip6.toNat / 2 ^ 64)
  | 0x20 => BitVec.ofNat 32 (e.ip6.toNat / 2 ^ 32)
  | 0x24 => BitVec.ofNat 32 e.ip6.toNat
  | 0x28 => e.stPort.setWidth 32
  | 0x2C => e.lease.setWidth 32
  | 0x30 => at_ 8 e.dscpPtp.toNat ||| e.dscpSt.setWidth 32
  | 0x34 => (List.range 8).foldl (fun v i => v ||| bitAt i (s.sess i).isOpen) 0
  | 0x40 => at_ 8 e.ptpDomain.toNat ||| bitAt 2 e.ptpV6 ||| e.ptpProf.setWidth 32
  | 0x44 => at_ 8 ((e.master.map (·.steps.toNat)).getD 0) ||| at_ 0 (ptpCode e.ptpState)
  | 0x60 => e.rxBad
  | 0x64 => e.rxDrop
  | 0x68 => e.txDrop
  | 0x80 => bitAt 0 e.macsec.en
  | 0x84 => bitAt 3 (txPast 1 1 e.macsec) ||| bitAt 2 (txPast 3 4 e.macsec) ||| e.macsec.txAn.setWidth 32
  | 0x88 => e.macsec.drop
  | _ => 0

/-- ETH_PTP_CFG: the engine restarts in LISTENING with the new profile and domain (R344). -/
def writePtpCfg (v : W32) (s : State) : State :=
  let s := s.modEth fun e => { e with
    ptpDomain := BitVec.ofNat 8 (bitsOf v.toNat 8 8), ptpV6 := v.getLsbD 2, ptpProf := v.setWidth 2
    ptpState := .listening, master := none }
  { s with tl := { s.tl with ptpKnown := false } }

def execEthPtpCfg (r : Nat) (v : W32) (s : State) : Result := byReader .session r (fun s => writePtpCfg v s) s

/-- ETH_DEV_ADDR: 0xFFFE is ignored; a new address goes to every UP Kryter peer in an ADDR record (R371). -/
def writeDevAddr (v : W32) (s : State) : State :=
  let a : W16 := v.setWidth 16
  if a = 0xFFFE then s else
    let s := s.modEth fun e => { e with devAddr := a }
    s.each (List.range 7) fun s k =>
      if (s.klink k).state == .up then queueSignals k [signalRecord 4 0 (a.setWidth 32)] s else s

def execEthDevAddr (r : Nat) (v : W32) (s : State) : Result := byReader .subset r (fun s => writeDevAddr v s) s

/-- Replace 32 bits of the global IPv6 address, word 0 the most significant. -/
def setIp6 (n : Nat) (v : W32) (e : Eth) : Eth :=
  let sh := 96 - 32 * n
  { e with ip6 := (e.ip6 &&& ~~~((0xFFFFFFFF : BitVec 128) <<< sh)) ||| (v.setWidth 128 <<< sh) }

def writeEth (off : Nat) (v : W32) (s : State) : State :=
  match off with
  | 0x00 =>
    let s := s.modEth fun e => { e with speed := BitVec.ofNat 2 (bitsOf v.toNat 8 2), linkEn := v.getLsbD 0 }
    if v.getLsbD 0 then s else linkDown s
  | 0x04 => s.modEth fun e => { e with lost := w1c e.lost v 2 }
  | 0x10 => writeDevAddr v s
  | 0x14 => s.modEth fun e => { e with ip4 := v }
  | 0x18 => s.modEth (setIp6 0 v)
  | 0x1C => s.modEth (setIp6 1 v)
  | 0x20 => s.modEth (setIp6 2 v)
  | 0x24 => s.modEth (setIp6 3 v)
  | 0x28 => s.modEth fun e => { e with stPort := v.setWidth 16 }
  | 0x2C => s.modEth fun e => { e with lease := v.setWidth 16 }
  | 0x30 => s.modEth fun e => { e with dscpPtp := BitVec.ofNat 6 (bitsOf v.toNat 8 6), dscpSt := v.setWidth 6 }
  | 0x40 => writePtpCfg v s
  | 0x80 => s.modMacsec fun m => { m with en := v.getLsbD 0 }
  | _ => s

end Sys2Proof.Machine
end

