-- ==== Sys2Proof/Machine/Egress.lean ====
section
/-! DEFINITION. Audio that leaves the device: exit checks (R323), Suithen Transport audio frames (R340, R341), RTP (R342,
R343), the provenance mark (R407), what a stream has at a position (R171, R378). -/

namespace Sys2Proof.Machine

/-! ## Slots and samples at an exit -/

/-- Words of a byte string, little-endian. -/
def wordsLE : List Byte → List W32
  | a :: b :: c :: d :: t => BitVec.ofNat 32 (leNat [a, b, c, d]) :: wordsLE t
  | _ => []

/-- Address of the slot of the i-th token in a stream's pipeline and ring: the first one's stands at HEAD. -/
def State.slotAddr (s : State) (id i : Nat) (p : PlanEnt) : Nat :=
  let q := s.queue (qid id 2)
  q.base + (q.head.toNat + i) % max 1 q.depth * (p.granules * 512)

/-- One granule of a slot at an exit: its SEQ, the tag that goes with it, and its bytes; zeros where the check fails
(R323). -/
structure Granule where
  seq : Nat
  tag : W32
  bytes : List Byte
  deriving DecidableEq, Repr

/-- Check every granule of slot j, the i-th token's, at an exit (R323). `checker`: 3 RTP, 4 SAP, 5 Suithen Transport audio. -/
def exitGranules (checker id i j : Nat) (p : PlanEnt) (s : State) : List Granule × State :=
  let base := s.slotAddr id i p / 512
  (List.range p.granules).foldl (fun (acc : List Granule × State) g =>
    let seq := j * p.granules + g
    let (r, s) := checkGranule 7 1 (base + g) id false seq acc.2
    match r with
    | some b => (acc.1 ++ [⟨seq, (s.tier 1).tag (base + g), b⟩], s)
    | none =>
      let z := List.replicate 512 (0 : Byte)
      (acc.1 ++ [⟨seq, tagOf id false seq z, z⟩],
        tagExitFail 1 (base + g) id seq checker j g (min 128 (p.spt - 128 * g)) s)) ([], s)

/-- The token, its place in the ring and the sample of it that a paced stream has at a position, while it produces output
(R171, R242, R342, R378). -/
def State.slotAt (s : State) (id pos : Nat) : Option (PlanEnt × Nat × Token × Nat) :=
  let x := s.stream id
  match s.plan? x.plan.toNat with
  | some p =>
    if p.kind = 0 && stMoving x.state then
      (x.run.tokens.zipIdx.find? fun (t, _) => decide (t.pos.toNat ≤ pos) && decide (pos < t.pos.toNat + p.period)).map fun (t, i) =>
        (p, i, t, (pos - t.pos.toNat) / ratioOf p.rate)
    else none
  | none => none

/-- The sample a stream has at a position, at an exit whose check of the slot comes before its first sample leaves. -/
def exitSample (exit checker id pos : Nat) (s : State) : Option W32 × State :=
  match s.slotAt id pos with
  | none => (none, s)
  | some (p, i, t, n) =>
    let (round, samples) := cget (0, []) (s.stream id).exits exit
    if round = t.round && !samples.isEmpty then (samples[n]?, s)
    else
      let (gs, s) := exitGranules checker id i t.slot p s
      let samples := (gs.flatMap fun g => wordsLE g.bytes).take p.spt
      (samples[n]?, s.modStream id fun x => { x with exits := cput (0, []) exit (t.round, samples) x.exits })

/-! ## Slots that leave (R171, R234, R243, R245, R267) -/

/-- A token's slot has left: its ring slot is free, MARKs that waited on it are posted, and the last one of a run that a
transaction's STOP ended before a START posts DRAINED. `after`: the position after its last sample. -/
def leaveSlot (id : Nat) (t : Token) (after : W64) (s : State) : State :=
  let s := if t.written then s.modQueue (qid id 2) fun q => { q with head := q.head + 1 } else s
  let s := s.modStream id fun x => { x with run := { x.run with
    tokens := x.run.tokens.filter (·.round != t.round)
    left := if t.old then x.run.left else x.run.left + 1
    oldLeft := if t.old then x.run.oldLeft.map (· + 1) else x.run.oldLeft } }
  let s := s.each t.marks fun s m => post id m.1 2 0 m.2 after (BitVec.ofNat 32 t.slot) 0 s
  let x := s.stream id
  match x.run.oldLeft with
  | some n =>
    if x.run.tokens.any (·.old) then s
    else (post id 1 3 0 0 after (BitVec.ofNat 32 n) 0 s).modStream id fun x => { x with run := { x.run with oldLeft := none } }
  | none => checkDrained id after s

/-! ## Monitors of the output tensor, and the mark -/

/-- The monitor slot of the records that write a plan's output ring (R26, R155). -/
def State.outputSlot (s : State) (plan : Nat) : Option Nat :=
  match s.plan? plan with
  | none => none
  | some p =>
    let progs := p.kinds.filterMap fun k => (s.img.budget? k).map (·.prog)
    let recs := s.img.programs.flatMap fun g => if progs.contains g.prog then g.recs else []
    let out := fun (r : Rec) => r.writes.any fun l => ((s.img.link? l).map (·.transport)) == some 4
    ((recs.filter fun r => out r && r.slot != 0xFFFF).head?).map (·.slot)

/-- Live counts of a monitor slot of the present period. -/
def State.modLiveSlot (s : State) (slot : Nat) (f : QuantSlot → QuantSlot) : State :=
  if s.quant.monEff then { s with quant := { s.quant with live := cput {} slot (f (cget {} s.quant.live slot)) s.quant.live } }
  else s

/-- An addition saturates a count: one of 32 bits that reaches 0xFFFF_FFFF is saturated (R54, R77), SSE past its 64 bits
(R51). -/
def satFlag {w : Nat} (old : Bool) (v : BitVec w) (n : Nat) : Bool := old || decide ((if w = 32 then 2 ^ w - 1 else 2 ^ w) ≤ v.toNat + n)

/-- An outcome of R25 counted in a slot (R51). -/
def countReport (r : Report) (q : QuantSlot) : QuantSlot :=
  match r with
  | .plain => q
  | .clip => { q with clip := satInc q.clip, cntSat := satFlag q.cntSat q.clip 1 }
  | .underflow => { q with uflow := satInc q.uflow, cntSat := satFlag q.cntSat q.uflow 1 }
  | .nonFinite => { q with nonfin := satInc q.nonfin, cntSat := satFlag q.cntSat q.nonfin 1 }

/-- Convert a sample to a wire word and report to the output tensor's monitors (R26). -/
def toWire (w plan : Nat) (x : W32) (s : State) : Nat × State :=
  let (v, r) := wireWord w x
  let s := match s.outputSlot plan with
    | none => s
    | some m => s.modLiveSlot m fun q =>
        countReport r { q with elems := if (fval x).isFin then q.elems + 1 else q.elems }
  (unsigned w v, s)

/-- The bit of the provenance mark for the sample at a position (R407). -/
def markBit (key : BitVec 256) (keyId : W16) (k : Nat) : Bool :=
  let m := Config.markHmac key ([0x53, 0x56, 0x33, 0x4D, 0x41, 0x52, 0x4B] ++ leBytes 2 keyId.toNat ++ leBytes 8 (k / 384))
  m.getLsbD (k % 384)

/-- The mark key of a block of an exit's samples: the one loaded as the block's first sample left (R408). -/
def blockKey (exit id block : Nat) (s : State) : Option (BitVec 256) × State :=
  match cget none s.sec.marks (id * 256 + exit) with
  | some (b, key) => if b = block then (key, s) else fresh
  | none => fresh
where
  /-- A block begins. -/
  fresh : Option (BitVec 256) × State :=
    (s.sec.markKey, { s with sec := { s.sec with marks := cput none (id * 256 + exit) (some (block, s.sec.markKey)) s.sec.marks } })

/-- Replace bit 0 of a wire word by the mark (R407); in ERROR no key is usable (R409). `exit`: 0 for RTP, else 1 + the SAP
port and slot. -/
def markWord (on : Bool) (exit id k v : Nat) (s : State) : Nat × State :=
  let (key, s) := blockKey exit id (k / 384) s
  match key with
  | some key => (if on && s.sec.mode != .error then v / 2 * 2 + (if markBit key (s.stream id).keyId k then 1 else 0) else v, s)
  | none => (v, s)

/-! ## Suithen Transport audio (R340, R341) -/

/-- One AUDIO payload: at most 15 granules of a slot. -/
def audioPayload (slot : Nat) (pos : W64) (nsamp : Nat) (gs : List Granule) : List Byte :=
  leBytes 4 slot ++ leBytes 8 pos.toNat ++ leBytes 2 nsamp ++ [BitVec.ofNat 8 gs.length, 0] ++
    gs.flatMap (fun g => leBytes 4 g.seq ++ leBytes 4 g.tag.toNat) ++ gs.flatMap (·.bytes)

/-- Send slot j, the i-th token's, as AUDIO frames; `posOf`: the position of its n-th sample. -/
def sendAudio (id entry i slot : Nat) (p : PlanEnt) (posOf : Nat → W64) (s : State) : State :=
  let (gs, s) := exitGranules 5 id i slot p s
  s.each (List.range (ceilDiv p.granules 15)) fun s c =>
    let before := c * 15 * 128
    let part := (gs.drop (c * 15)).take 15
    let s := s.modLive fun q => { q with audio := satInc q.audio }
    sendTo entry 0x40 0xFF 0xFFFF (BitVec.ofNat 64 id)
      (audioPayload slot (posOf before) (min (p.spt - before) (part.length * 128)) part) s

/-- The first position of a slot of a paced stream: its frames go to the ST entry bound there (R341). -/
def slotStart (id : Nat) (s : State) : State :=
  match s.slotAt id s.pos with
  | some (p, i, t, _) =>
    if t.pos != s.tl.pos then s else
      let s := s.modLive fun c => { c with slots := satInc c.slots }
      match (s.stream id).bind with
      | some b =>
        if destKind (s.dest b.entry) = 2 && b.from_.toNat ≤ s.pos then
          sendAudio id b.entry i t.slot p (fun n => s.tl.pos + BitVec.ofNat 64 (n * ratioOf p.rate)) s
        else s
      | none => s
  | none => s

/-- Unpaced slots leave in order as soon as they are written and a destination is set (R245, R337, R341); positions count
samples. While the link is down they stay (R329). -/
def sendUnpaced (id : Nat) : Nat → State → State
  | 0, s => s
  | fuel + 1, s =>
    let x := s.stream id
    match s.plan? x.plan.toNat, x.audioDest, x.run.tokens with
    | some p, some e, t :: _ =>
      if p.kind = 1 && t.written && s.eth.up then
        let s := sendAudio id e 0 t.slot p (fun n => t.pos + BitVec.ofNat 64 n) s
        sendUnpaced id fuel (leaveSlot id t s.tl.pos s)
      else s
    | _, _, _ => s

/-- STREAM_BIND (R337): each destination an ST entry, or 0xFFFF for none; held slots of an unpaced stream then leave. -/
def execStreamBind (q : Req) (s : State) : Result :=
  done (serve 0x32 q (fun s =>
    let id := q.arg.toNat
    let a := field q.payload 0 2
    let b := field q.payload 2 2
    let okDest := fun n => n == 0xFFFF || (decide (n < 4096) && destKind (s.dest n) == 2)
    let pick := fun n => if n = 0xFFFF then none else some n
    if 65536 ≤ id || q.payload.length ≠ 4 || !okDest a || !okDest b || !(s.stream id).isOpen then (.err 5 0 0, s)
    else
      let s := s.modStream id fun x => { x with cplDest := pick a, audioDest := pick b }
      (.ok [], progress id (sendUnpaced id (s.queue (qid id 2)).held s))) s)

/-! ## RTP (R342, R343) -/

/-- RTP fields of a destination entry (R338). -/
def rtpFormat (e : BitVec 512) : Nat := destField e 1 1
def rtpPtime (e : BitVec 512) : Nat := destField e 10 2
def rtpBytes (format : Nat) : Nat := match format with | 0 => 2 | 1 => 3 | _ => 1

/-- One sample as its payload bytes, most significant first (R343). `mark`: its packet is marked (R408). -/
def rtpSample (mark : Bool) (format plan id k : Nat) (x : W32) (s : State) : List Byte × State :=
  let (v, s) := toWire (if format = 1 then 24 else 16) plan x s
  match format with
  | 0 => (beBytes 2 v, s)
  | 1 => let (u, s) := markWord mark 0 id k v s; (beBytes 3 u, s)
  | 2 => ([Config.ulaw (BitVec.ofNat 14 (v / 4))], s)
  | _ => ([Config.alaw (BitVec.ofNat 13 (v / 8))], s)

/-- The RTP packet and the ports and length of its UDP header as they are sent: in network byte order (R3, R342). -/
def Rtp.laid (sport dport : W16) (p : Rtp) : Rtp :=
  let packet := [0x80, (if p.marker then 0x80 else 0) ||| p.pt.setWidth 8] ++ beBytes 2 p.seq.toNat ++ beBytes 4 p.timestamp.toNat ++
    beBytes 4 p.ssrc.toNat ++ p.payload
  { p with packet := packet, udp := beBytes 2 sport.toNat ++ beBytes 2 dport.toNat ++ beBytes 2 (8 + packet.length) }

/-- Queue the packet in progress of a stream bound to an RTP entry (R342); one without a sample is not sent. -/
def flushRtp (id : Nat) (s : State) : State :=
  let x := s.stream id
  match x.bind, s.plan? x.plan.toNat with
  | some b, some p =>
    if b.buf.isEmpty then s else
      let e := s.dest b.entry
      let ratio := ratioOf p.rate
      let n := (b.first - b.from_).toNat / rtpPtime e
      let (payload, s) := b.buf.zipIdx.foldl (fun (acc : List Byte × State) y =>
        let (bs, s) := rtpSample b.mark (rtpFormat e) p.plan id (b.first.toNat / ratio + y.2) y.1 acc.2
        (acc.1 ++ bs, s)) ([], s)
      let pkt := Rtp.laid (BitVec.ofNat 16 (destNet e 8 2)) (BitVec.ofNat 16 (destNet e 6 2)) {
        entry := b.entry, seq := BitVec.ofNat 16 (destField e 20 2 + n), pt := BitVec.ofNat 7 (destField e 5 1)
        timestamp := BitVec.ofNat 32 (b.first.toNat / ratio + destField e 16 4)
        ssrc := BitVec.ofNat 32 (destField e 12 4 + id), marker := b.marker, payload := payload }
      let s := s.modLive fun c => { c with rtp := satInc c.rtp }
      let s := s.modStream id fun x => { x with bind := x.bind.map fun b => { b with buf := [], marker := false } }
      if s.unresolved b.entry then txDrop s else sendOut (.rtp pkt) s
  | _, _ => s

/-- The timeline reaches a position: a packet whose interval or span ends there is queued, then the sample that begins
there joins the packet in progress (R342). -/
def rtpTick (id : Nat) (s : State) : State :=
  match (s.stream id).bind with
  | none => s
  | some b =>
    let e := s.dest b.entry
    if destKind e ≠ 1 then s else
      let here := s.slotAt id s.pos
      let s := if ((s.tl.pos - b.from_).toNat % rtpPtime e == 0) || here.isNone then flushRtp id s else s
      match here with
      | some (p, _, t, _) =>
        if b.from_.toNat ≤ s.pos && (s.tl.pos - t.pos).toNat % ratioOf p.rate == 0 then
          match exitSample 0 3 id s.pos s with
          | (some x, s) => s.modStream id fun y => { y with bind := y.bind.map fun b =>
              { b with
                buf := b.buf ++ [x]
                first := if b.buf.isEmpty then s.tl.pos else b.first
                mark := if b.buf.isEmpty then s.sec.markRtp else b.mark } }
          | (none, s) => s
        else s
      | none => s

/-- A DEST takes effect at a position (R267, R342): the packet in progress ends there. -/
def applyDest (id entry : Nat) (s : State) : State :=
  let s := flushRtp id s
  s.modStream id fun x => { x with bind := if entry = 0xFFFF then none else some { entry := entry, from_ := s.tl.pos } }

/-- A close completes: CLOSED, the queues are freed, the stream becomes FREE; its STREAM_STATUS is kept (R243, R244). The packet in progress
of a stream bound to an RTP entry is sent (R342). -/
def execCloseComplete (id : Nat) (s : State) : Result :=
  let x := s.stream id
  if x.state == .closing && !x.holdsLoad then
    let s := flushRtp id s
    let s := post id 1 8 0 0 s.tl.pos 0 0 s
    let s := { s with queues := s.queues.filter fun e => e.1 / 32 != id }
    done ((dropCarried id s).modStream id fun x => { cmdErr := x.cmdErr, detail := x.detail, result := x.result })
  else .next s

end Sys2Proof.Machine
end

