-- ==== Sys2Proof/Machine/Products.lean ====
section
/-! DEFINITION. Reduction blocks, leaves and the canonical tree (R66 to R71, R88), matrix products with their outlier sums and
rescale (R31 to R40, R62, R67), row reductions and the row operations of the gate pipelines (R89, R90). -/

namespace Sys2Proof.Machine

/-- Consecutive pieces of n elements; the last one may be shorter. -/
def chunksOf {α : Type} (n : Nat) (l : List α) : List (List α) :=
  (List.range (ceilDiv l.length n)).map fun i => (l.drop (n * i)).take n

/-- One level of the canonical tree (R69): pairs added, lower-indexed operand first, an odd node carried up. -/
def treeLevel {α : Type} (add : α → α → α) : List α → List α
  | a :: b :: t => add a b :: treeLevel add t
  | l => l

/-- The canonical pairwise tree (R69); `fuel`: at least the number of levels. -/
def treeOf {α : Type} (add : α → α → α) (zero : α) : Nat → List α → α
  | _, [] => zero
  | _, [x] => x
  | 0, x :: _ => x
  | n + 1, l => treeOf add zero n (treeLevel add l)

def tree {α : Type} (add : α → α → α) (zero : α) (l : List α) : α := treeOf add zero l.length l

/-! ## Leaves -/

/-- An exact product (R68): infinity × 0 is NaN. -/
def Fp.mulX : Fp → Fp → Fp
  | .nan, _ => .nan
  | _, .nan => .nan
  | .inf a, b => if b.isZero then .nan else .inf (a != b.isNeg)
  | a, .inf b => if a.isZero then .nan else .inf (a.isNeg != b)
  | .fin a m e, .fin b n f => .fin (a != b) (m * n) (e + f)

/-- The cases of R68 over exact terms: NaN, infinities, else the exact sum rounded once. R68 and R88 leave the sign of an
exact zero sum open: it is -0 only where every term is negative, and a sum of no terms is +0 (DESIGN CHOICE;
notes/assumptions/60.md). -/
def sumOnce (ps : List Fp) : W32 :=
  let up := ps.contains (.inf false)
  let down := ps.contains (.inf true)
  if ps.any Fp.isNan || (up && down) then qnan
  else if up then finf false
  else if down then finf true
  else toF32 (Dy.sum (ps.map Fp.dy)) (!ps.isEmpty && ps.all Fp.isNeg)

/-- Leaves of 64 terms and their FP32 tree (R68, R69, R88, R105). -/
def blockSum (terms : List Fp) : W32 := tree fadd 0 ((chunksOf 64 terms).map sumOnce)

/-- An INT32 node with its sticky saturation flag (R70). -/
abbrev INode := Int × Bool
def satInt32 (v : Int) (flag : Bool) : INode :=
  if 2 ^ 31 ≤ v then (2 ^ 31 - 1, true) else if v < -2 ^ 31 then (-2 ^ 31, true) else (v, flag)
def addInt32 (a b : INode) : INode := satInt32 (a.1 + b.1) (a.2 || b.2)

/-- The leaf of a block on the integer and FP8 paths (R66). -/
def intLeaf (accExp : Int) (terms : List Dy) : INode :=
  let x := Dy.sum terms
  satInt32 (Dy.rne (x.1, x.2 - accExp)) false

/-! ## Weights (R31 to R35) -/

/-- One row of a weight tensor: its codes, block scales and side-list records. -/
structure WRow where
  fmt : Nat
  codes : List Nat
  scales : List Nat := []
  /-- Position along K and BF16 value. -/
  side : List (Nat × Nat) := []
  /-- Of key/value state: the positions along K that it holds (R72, R75). -/
  span : Option (Nat × Nat) := none

/-- A block scale at its exact value; a NaN reads as +0 (R33). -/
def blockScale (code : Nat) : Fp := match decodeFmt 3 code with | .nan => .fin false 0 0 | v => v

/-- The entries in use of a side-list record of segment g (R34, R35). -/
def sideEntries (g : Nat) (r : List Byte) : List (Nat × Nat) :=
  (List.range (min 4 (field r 0 1 % 8))).map fun j => (256 * g + field r (2 + j) 1, field r (6 + 2 * j) 2)

/-- Row n of a tensor, from the bytes of its regions (R15, R16, R32). -/
def TensorEnt.row (t : TensorEnt) (codes scales side : List Byte) (n : Nat) : WRow :=
  let rowLen := if t.blocked then rowCodes t.fmt t.k else 0
  let v := if t.blocked then leNat (slice (n * rowLen) rowLen codes)
    else leNat (codes.take t.codesLen) >>> (n * t.k * fmtBits t.fmt)
  let blocks := ceilDiv t.k 32
  let segs := ceilDiv t.k 256
  { fmt := t.fmt
    codes := (List.range t.k).map (codeAt t.fmt v)
    scales := if t.blocked then (slice (n * blocks) blocks scales).map (·.toNat) else []
    side := if t.sided then (List.range segs).flatMap fun g => sideEntries g (slice (16 * (n * segs + g)) 16 side) else [] }

/-- Elements of a tensor without block scales, widened to FP32 (R19). -/
def TensorEnt.values (t : TensorEnt) (codes : List Byte) : List W32 :=
  let v := leNat (codes.take t.codesLen)
  (List.range (t.n * t.k)).map fun i => (decodeFmt t.fmt (codeAt t.fmt v i)).f32

/-! ## Matrix products (R62 to R71) -/

/-- One activation row: its codes, and its scale and zero point by 64-element group, or one pair for the row (R40). -/
structure ARow where
  fmt : Nat
  codes : List Nat
  pairs : List (W32 × Int)
  grouped : Bool

/-- The scale and zero point that block b of an activation row meets. -/
def ARow.pair (a : ARow) (b : Nat) : W32 × Int :=
  (if a.grouped then a.pairs[b]? else a.pairs.head?).getD (one, 0)
/-- s_a of R38: 1 where each group carries its own scale. -/
def ARow.scale (a : ARow) : W32 := if a.grouped then one else (a.pair 0).1

/-- The activation operand at k, less its zero point, exactly; the group scale not applied. Elements that no operand gives
have been filled with free values before (Run.codes; notes/assumptions/11.md). -/
def ARow.operand (a : ARow) (k : Nat) : Fp :=
  let c := (a.codes[k]?).getD 0
  if a.fmt = 6 then
    let v := signed 8 c - (a.pair (k / 64)).2
    .fin (decide (v < 0)) v.natAbs 0
  else decodeFmt a.fmt c

/-- The weight operand at k: integer value or 9-bit level times its block scale, or the exact floating-point value (R66). -/
def WRow.operand (w : WRow) (k : Nat) : Fp :=
  let c := (w.codes[k]?).getD 0
  let v : Fp :=
    if 8 ≤ w.fmt then (let l := bgLevel w.fmt c; .fin (decide (l < 0)) l.natAbs 0)
    else decodeFmt w.fmt c
  match w.scales[k / 32]? with
  | some s => Fp.mulX (blockScale s) v
  | none => v

/-- A node of the reduction tree of either path: an FP32 value, or an INT32 value with its saturation flag, and whether an
operand under it marks the element non-finite (R67, R70). -/
structure Node where
  v : W32 := 0
  sat : Bool := false
  bad : Bool := false
  deriving DecidableEq, Repr

/-- The add of R69 on each path. -/
def Node.add (fp : Bool) (a b : Node) : Node :=
  if fp then { v := fadd a.v b.v }
  else let (v, sat) := addInt32 (a.v.toInt, a.sat) (b.v.toInt, b.sat); { v := BitVec.ofInt 32 v, sat := sat, bad := a.bad || b.bad }

/-- A product of BF16 or FP16 runs on the FP32 path (R68). -/
def WRow.fp (w : WRow) : Bool := w.fmt == 1 || w.fmt == 2

/-- Positions of block b that contribute: below K, held by the key/value state, on the integer path named by no side-list
entry (R66, R72). -/
def WRow.block (w : WRow) (k b : Nat) : List Nat :=
  ((List.range 64).map (· + 64 * b)).filter fun i =>
    decide (i < k) && w.span.all (fun s => decide (s.1 ≤ i) && decide (i < s.2)) && (w.fp || !(w.side.map (·.1)).contains i)

/-- The leaf of block b (R66 to R68). -/
def leafNode (accExp : Int) (k : Nat) (w : WRow) (a : ARow) (b : Nat) : Node :=
  let ks := w.block k b
  if w.fp then { v := sumOnce (ks.map fun i => Fp.mulX (w.operand i) (a.operand i)) }
  else
    let scale := if a.grouped then (fval (a.pair b).1).dy else (1, 0)
    let term := fun i =>
      let x := w.operand i
      let y := a.operand i
      if x.isFin && y.isFin then Dy.mul (Dy.mul x.dy y.dy) scale else (0, 0)
    let (v, sat) := intLeaf accExp (ks.map term)
    { v := BitVec.ofInt 32 v, sat := sat, bad := ks.any fun i => !(w.operand i).isFin || !(a.operand i).isFin }

/-- A root as A_n with its flags (R67, R70). -/
def Node.result (fp : Bool) (x : Node) : Fp × Bool × Bool :=
  if fp then (fval x.v, false, false)
  else (.fin (decide (x.v.toInt < 0)) x.v.toInt.natAbs 0, x.sat, x.bad)

/-- A_n of one activation row and output channel (R66 to R70). `k`: reduction length. -/
def product (accExp : Int) (k : Nat) (w : WRow) (a : ARow) : Fp × Bool × Bool :=
  (tree (Node.add w.fp) {} ((List.range (ceilDiv k 64)).map (leafNode accExp k w a))).result w.fp

/-! ## A product over part of the reduction blocks (R71, R75) -/

/-- A node of the tree over leaves first to first + n - 1, where it is known. -/
structure Part where
  first : Nat
  n : Nat
  node : Option Node
  deriving DecidableEq, Repr

/-- A node that another holds is known. -/
def Part.known (held : List Part) (x : Part) : Part :=
  if x.node.isSome then x else (held.find? fun h => h.first = x.first && h.n = x.n).getD x

/-- One level of the tree where some nodes are not known: the next level, and the known nodes whose parent is not. -/
def partLevel (add : Node → Node → Node) : List Part → List Part × List Part
  | a :: b :: t =>
    let (l, d) := partLevel add t
    match a.node, b.node with
    | some x, some y => (⟨a.first, a.n + b.n, some (add x y)⟩ :: l, d)
    | _, _ => (⟨a.first, a.n + b.n, none⟩ :: l, [a, b].filter (·.node.isSome) ++ d)
  | l => (l, [])

/-- The tree of R69 over blocks of which this device forms some and others may have sent it nodes: the root where it is
known, else the largest complete nodes (R71). -/
def partTree (add : Node → Node → Node) (held : List Part) : Nat → List Part → List Part
  | 0, l => l
  | _, [x] => [x].filter (·.node.isSome)
  | fuel + 1, l =>
    let (up, done) := partLevel add l
    done ++ partTree add held fuel (up.map (Part.known held))

/-- The largest complete nodes of a product over the blocks [lo, hi), with nodes other devices formed (R75). -/
def partNodes (accExp : Int) (k : Nat) (w : WRow) (a : ARow) (lo hi : Nat) (held : List Part) : List Part :=
  let b := ceilDiv k 64
  let leaf := fun i => Part.known held ⟨i, 1, if lo ≤ i && i < hi then some (leafNode accExp k w a i) else none⟩
  partTree (Node.add w.fp) held b ((List.range b).map leaf)

/-- A node as it travels round a ring: output channel, first leaf, leaves, value, flags (DESIGN CHOICE: R71 and R75 give it
no layout; notes/assumptions/61.md). -/
def Part.words (channel : Nat) (x : Part) : List W32 :=
  match x.node with
  | some y => [BitVec.ofNat 32 channel, BitVec.ofNat 32 x.first, BitVec.ofNat 32 x.n, y.v,
      bitAt 0 y.sat ||| bitAt 1 y.bad]
  | none => []
def readParts : List W32 → List (Nat × Part)
  | c :: f :: n :: v :: g :: t =>
    (c.toNat, ⟨f.toNat, n.toNat, some { v := v, sat := g.getLsbD 0, bad := g.getLsbD 1 }⟩) :: readParts t
  | _ => []

/-- O_n: the side-list entries in order, each product exact and each addition rounded once (R35, R36); a grouped
activation carries its group's scale (R40). An entry in the padding adds 0, whatever its VAL (R35). -/
def outlierSum (w : WRow) (a : ARow) : W32 :=
  w.side.foldl (fun o e =>
    if a.codes.length ≤ e.1 then o else
      let x := if a.grouped then Fp.mulX (a.operand e.1) (fval (a.pair (e.1 / 64)).1) else a.operand e.1
      sumOnce [fval o, Fp.mulX (decodeFmt 1 e.2) x]) 0

/-- y_n of R38; a marked element is NaN (R67). -/
def rescale (x : Acc) (bias : W32) : W32 :=
  if x.nonFinite then qnan else
    sumOnce [Fp.mulX (Fp.mulX x.a (fval x.c)) (fval x.sa), Fp.mulX (fval x.o) (fval x.sa), fval bias]

/-! ## Row operations (R88 to R90) -/

def rowSum (xs : List W32) : W32 := blockSum (xs.map fval)
def rowSquares (xs : List W32) : W32 := blockSum (xs.map fun x => Fp.mulX (fval x) (fval x))

/-- RMS normalisation of one row (R89). -/
def rmsNorm (xs gamma : List W32) (invD eps : W32) : List W32 :=
  let v := fadd (fmul (rowSquares xs) invD) eps
  let r := recip (fsqrt v)
  (xs.zip gamma).map fun (x, g) => fmul (fmul x r) g

/-- Layer normalisation of one row (R89). -/
def layerNorm (xs gamma beta : List W32) (invD eps : W32) : List W32 :=
  let mu := fmul (rowSum xs) invD
  let ds := xs.map fun x => fsub x mu
  let v := fadd (fmul (rowSquares ds) invD) eps
  let r := recip (fsqrt v)
  ((ds.zip gamma).zip beta).map fun ((d, g), b) => fadd (fmul (fmul d r) g) b

/-- The largest finite score of a row, or 0 (R74, R90). -/
def scoreMax (xs : List W32) : W32 :=
  match xs.filter fun x => (fval x).isFin with
  | [] => 0
  | x :: t => t.foldl fmax x

/-- p of every position from m (R74; R90, step 2). -/
def attentionWeights (m : W32) (xs : List W32) : List W32 := xs.map fun s => fexp (fsub s m)

/-- o_j of every value channel, the last element of the row being y_Z (R73, R90, step 4). -/
def attentionOut (ys : List W32) : List W32 :=
  let z := recip (ys.getLast?.getD 0)
  ys.dropLast.map fun y => fmul y z

/-! ## Cells (R92, R93) -/

/-- One unit of a GRU: the new state. -/
def gruUnit (xr xz xn hr hz hn h : W32) : W32 :=
  let r := sigmoid (fadd xr hr)
  let z := sigmoid (fadd xz hz)
  let n := ftanh (fadd xn (fmul r hn))
  fadd n (fmul z (fsub h n))

/-- One unit of an LSTM: the new h and cs. -/
def lstmUnit (ai af ag ao cs : W32) : W32 × W32 :=
  let u := fmul (sigmoid af) cs
  let v := fmul (sigmoid ai) (ftanh ag)
  let cs := fadd u v
  (fmul (sigmoid ao) (ftanh cs), cs)

/-- Element i of a list, +0 past its end. -/
def el (l : List W32) (i : Nat) : W32 := (l[i]?).getD 0

/-- One position of a GRU of n units: terms r, z, n of each side one after another, and the state. -/
def gruStep (n : Nat) (x h st : List W32) : List W32 :=
  (List.range n).map fun j =>
    gruUnit (el x j) (el x (n + j)) (el x (2 * n + j)) (el h j) (el h (n + j)) (el h (2 * n + j)) (el st j)

/-- One position of an LSTM of n units: pre-activations i, f, g, o one after another, the state h then cs. -/
def lstmStep (n : Nat) (x h st : List W32) : List W32 :=
  let pre := fun k j => fadd (el x (k * n + j)) (el h (k * n + j))
  let out := (List.range n).map fun j => lstmUnit (pre 0 j) (pre 1 j) (pre 2 j) (pre 3 j) (el st (n + j))
  out.map (·.1) ++ out.map (·.2)

/-- The state after each position of a row; at position `mark` it restarts from INIT (R98). -/
def cellRun (step : List W32 → List W32 → List W32 → List W32) (xs hs : List (List W32)) (init : List W32)
    (mark : Option Nat) (st : List W32) : List (List W32) :=
  (((xs.zip hs).zipIdx).foldl (fun (acc : List W32 × List (List W32)) e =>
    let new := step e.1.1 e.1.2 (if mark = some e.2 then init else acc.1)
    (new, acc.2 ++ [new])) (st, [])).2

end Sys2Proof.Machine
end

