-- ==== Sys2Proof/Machine/Convert.lean ====
section
/-! DEFINITION. Scaled conversions (R41 to R50), what they count (R51, R52) and the monitors' live counts. -/

namespace Sys2Proof.Machine

/-! ## Parameters of a CONVERT record (R151) -/

/-- MODE, target and parameters. -/
structure Conv where
  mode : Nat
  fmt : Nat
  group : Nat
  eMin : Int
  eMax : Int
  margin : W32
  thresh : Nat
  zp : Int
  a0 : W32
  s : W32
  r : W32

def readConv (b : List Byte) : Conv :=
  let f := field b
  { mode := f 8 1 % 16, fmt := f 8 1 / 16, group := f 9 1, eMin := sfield b 10 1, eMax := sfield b 11 1
    margin := BitVec.ofNat 32 (f 12 4), thresh := f 16 2, zp := sfield b 18 1, a0 := BitVec.ofNat 32 (f 20 4)
    s := BitVec.ofNat 32 (f 24 4), r := BitVec.ofNat 32 (f 28 4) }

/-- qmax of a target (R42). -/
def qmaxOf (fmt : Nat) : Dy := match fmt with | 3 => (448, 0) | 4 => (57344, 0) | _ => (127, 0)

/-- Raise an exponent until q × 2^e reaches m. -/
def climb (q m : Dy) : Nat → Int → Int
  | 0, e => e
  | n + 1, e => if Dy.lt (q.1, q.2 + e) m then climb q m n (e + 1) else e

/-- The smallest e with q × 2^e ≥ m, unclamped; m finite and above 0 (R43). -/
def reqRaw (q : Dy) (m : Dy) : Int :=
  climb q m 4 ((Nat.log2 m.1.natAbs : Int) + m.2 - ((Nat.log2 q.1.natAbs : Int) + q.2) - 1)

def clampE (c : Conv) (e : Int) : Int := max c.eMin (min c.eMax e)

/-- e_req (R43). -/
def eReq (c : Conv) (q : Dy) (m : W32) : Int :=
  match fval m with
  | .inf _ => c.eMax
  | .nan => c.eMin
  | v => if v.isZero then c.eMin else clampE c (reqRaw q v.dy)

/-- The exponent a raise asks for before the clamp; an infinite product counts as 2^128 (R57). -/
def raiseReq (q : Dy) (m : W32) : Int :=
  match fval m with
  | .fin n k e => if k = 0 then -149 else reqRaw q (Fp.fin n k e).dy
  | _ => reqRaw q (1, 128)

/-! ## One element (R50, R52) -/

/-- The code of a finite, infinite or NaN element from v = x / s, and its outcome (R50). -/
def convCode (fmt : Nat) (zp : Int) (x v : W32) : Nat × Report :=
  let (c, r) := if fmt = 6 then (let (i, r) := narrowInt 8 zp (fval v); (unsigned 8 i, r))
    else if fmt = 5 then (let (i, r) := narrowInt 16 0 (fval v); (unsigned 16 i, r))
    else narrowFp fmt (fval v)
  let lost := r == .plain && (fval x).isFin && !(fval x).isZero && (fval v).isZero
  (c, if lost then .underflow else r)

/-- The decoded level of a written code (R52). -/
def convLevel (fmt : Nat) (zp : Int) (code : Nat) : Dy :=
  if fmt = 6 then (signed 8 code - zp, 0) else (decodeFmt fmt code).dy

/-- d² with 32 fractional bits (R52). -/
def sqErr (fmt : Nat) (zp : Int) (v : W32) (code : Nat) : Nat :=
  match fval v with
  | .fin n m e =>
    let d := Dy.add (Fp.fin n m e).dy (convLevel fmt zp code).neg
    let q := (Dy.rne ((d.1 * d.1), 2 * d.2 + 32)).toNat
    min q (2 ^ 64 - 1)
  | _ => 2 ^ 64 - 1

/-! ## What a conversion counts (R51) -/

/-- Counts of one conversion of one row. -/
structure Tally where
  elems : Nat := 0
  clip : Nat := 0
  uflow : Nat := 0
  nonfin : Nat := 0
  degen : Nat := 0
  raises : Nat := 0
  sse : Nat := 0
  maxobs : W32 := 0
  exps : List Int := []
  /-- A raise clamped at e_max: the unclamped exponent and e_max (R57). -/
  ceil : Option (Int × Int) := none
  accsat : Nat := 0
  accnf : Nat := 0
  statenf : Nat := 0
  /-- Logical index of the first non-finite state element (R96). -/
  stateAt : Nat := 0
  padonly : Nat := 0
  wnan : Nat := 0
  draws : Nat := 0
  drawnf : Nat := 0

def Tally.add (a b : Tally) : Tally :=
  { elems := a.elems + b.elems, clip := a.clip + b.clip, uflow := a.uflow + b.uflow, nonfin := a.nonfin + b.nonfin
    degen := a.degen + b.degen, raises := a.raises + b.raises, sse := a.sse + b.sse, maxobs := fmax a.maxobs b.maxobs
    exps := a.exps ++ b.exps, ceil := if a.ceil.isSome then a.ceil else b.ceil, accsat := a.accsat + b.accsat
    accnf := a.accnf + b.accnf, statenf := a.statenf + b.statenf
    stateAt := if a.statenf = 0 then b.stateAt else a.stateAt
    padonly := a.padonly + b.padonly, wnan := a.wnan + b.wnan, draws := a.draws + b.draws, drawnf := a.drawnf + b.drawnf }

/-- What an element counts. -/
def elemTally (x : W32) (r : Report) (err : Nat) : Tally :=
  let fin := (fval x).isFin
  { elems := if fin then 1 else 0, sse := if fin then err else 0, maxobs := if fin then fabs x else 0
    clip := if r == .clip then 1 else 0, uflow := if r == .underflow then 1 else 0, nonfin := if r == .nonFinite then 1 else 0 }

/-! ## Conversions of a row -/

/-- What the conversion of one row gives: codes, group scale records (s, zp), counts, the delayed-scale record it leaves. -/
structure Converted where
  codes : List Nat
  pairs : List (W32 × Int) := []
  tally : Tally := {}
  scale : Option ScaleRec := none

/-- Elements under one scale: v from `scaled`. -/
def convertAll (fmt : Nat) (zp : Int) (scaled : W32 → W32) (xs : List W32) : List Nat × Tally :=
  let es := xs.map fun x => let v := scaled x; let (c, r) := convCode fmt zp x v; (c, elemTally x r (sqErr fmt zp v c))
  (es.map (·.1), es.foldl (fun t e => t.add e.2) {})

/-- x × 2^-e, rounded once and flushed. -/
def scaleBy (e : Int) (x : W32) : W32 := fldexp x (-e)

def pow2F32 (e : Int) : W32 := toF32 (1, e) false

/-- A group whose finite elements all equal c (R49). -/
def constantGroup (fmt : Nat) (c : W32) (xs : List W32) : List Nat × Tally :=
  let code := if (fval c).isZero then 0
    else match fmt with
      | 3 => if (fval c).isNeg then 0xB8 else 0x38
      | 4 => if (fval c).isNeg then 0xBC else 0x3C
      | _ => if (fval c).isNeg then 0xFF else 0x01
  let es := xs.map fun x =>
    if (fval x).isFin then (code, elemTally x .plain 0)
    else let (k, r) := convCode fmt 0 x x; (k, elemTally x r 0)
  (es.map (·.1), es.foldl (fun t e => t.add e.2) { degen := 1 })

/-- One group of a CURRENT conversion (R48, R49). The scale 1 of a group with no finite element counts as the exponent 0
that it is (R51), and where e is held at e_max the zero point is the unbounded integer, of which the record keeps the low 8
bits (DESIGN CHOICE: R48 and R51 leave both open; notes/assumptions/62.md). -/
def convertGroup (c : Conv) (xs : List W32) : List Nat × (W32 × Int) × Tally :=
  let fs := xs.filter fun x => (fval x).isFin
  match fs with
  | [] => let (k, t) := convertAll c.fmt 0 fread xs; (k, (one, 0), { t with exps := [0] })
  | x0 :: rest =>
    if rest.all fun x => forder x == forder x0 || ((fval x).isZero && (fval x0).isZero) then
      let (k, t) := constantGroup c.fmt x0 xs
      (k, (fabs x0, 0), t)
    else if c.mode = 2 then
      let e := eReq c (qmaxOf c.fmt) (fs.foldl (fun m x => fmax m (fabs x)) 0)
      let (k, t) := convertAll c.fmt 0 (scaleBy e) xs
      (k, (pow2F32 e, 0), { t with exps := [e] })
    else
      let lo := fs.foldl fmin 0
      let hi := fs.foldl fmax 0
      let e := eReq c (255, 0) (fsub hi lo)
      let zp := -128 - Dy.rne ((fval lo).dy.1, (fval lo).dy.2 - e)
      let (k, t) := convertAll c.fmt zp (scaleBy e) xs
      (k, (pow2F32 e, zp), { t with exps := [e] })

/-- History of a record as it stands; a fresh one holds a0 sixteen times (R44). -/
def ScaleRec.hist (r : ScaleRec) (a0 : W32) : List W32 := if r.maxima.isEmpty then List.replicate 16 a0 else r.maxima

/-- e_t (R45). -/
def delayedExp (c : Conv) (r : ScaleRec) : Int :=
  let base := eReq c (qmaxOf c.fmt) (fmul ((r.hist c.a0).foldl fmax 0) c.margin)
  if r.maxima.isEmpty then base
  else
    let up := match r.eRaise with | some e => max base e.toInt | none => base
    clampE c (max up (r.ePrev.toInt - 1))

/-- A DELAYED conversion of one row (R44 to R47). `counts`: elements at or past the row's reset mark. -/
def convertDelayed (c : Conv) (old : ScaleRec) (rst : Bool) (counts : Nat → Bool) (xs : List W32) : Converted :=
  let r := if rst then {} else old
  let e := delayedExp c r
  let q := qmaxOf c.fmt
  let (codes, t) := convertAll c.fmt 0 (scaleBy e) xs
  let from_ := (xs.zipIdx.filter fun y => counts y.2).map (·.1)
  let own := from_.filter fun x => (fval x).isFin
  let (_, part) := convertAll c.fmt 0 (scaleBy e) from_
  let at_ := own.foldl (fun m x => fmax m (fabs x)) 0
  let cap := toF32 (q.1, q.2 + e) false
  let entry := if (fval cap).isFin then fmin at_ cap else at_
  let want := fmul at_ c.margin
  let raise := decide (c.thresh * own.length < part.clip * 65536)
  let asked := raiseReq q want
  let t := { t with exps := [e], raises := if raise then 1 else 0
                    ceil := if raise && decide (c.eMax < asked) then some (asked, c.eMax) else none }
  { codes := codes, tally := t
    scale := some { maxima := entry :: (r.hist c.a0).take 15, ePrev := BitVec.ofInt 8 e
                    eRaise := if raise then some (BitVec.ofInt 8 (eReq c q want)) else none } }

/-- The conversion of one row (R41); INT16 is the export of R26 with w = 16 and takes no mode. A target FP32 of MODE 0, which
R41 does not list, is multiplied by r like the others (DESIGN CHOICE; notes/assumptions/59.md). `plane`: elements of one plane,
or of one position's vector, which no CURRENT group leaves (R42). -/
def convertRow (c : Conv) (old : ScaleRec) (rst : Bool) (counts : Nat → Bool) (plane : Nat) (xs : List W32) : Converted :=
  match c.mode with
  | 0 =>
    let (k, t) := convertAll c.fmt c.zp (fun x => if c.fmt = 5 then fldexp x 15 else fmul x c.r) xs
    { codes := k, tally := t }
  | 1 => convertDelayed c old rst counts xs
  | _ =>
    let gs := ((chunksOf (max 1 plane) xs).flatMap (chunksOf c.group)).map (convertGroup c)
    { codes := gs.flatMap (·.1), pairs := gs.map (·.2.1), tally := gs.foldl (fun t g => t.add g.2.2) {} }

/-! ## Monitors (R51, R57, R96, R134) -/

def satSum {w : Nat} (q : QuantSlot) (v : BitVec w) (n : Nat) : Bool := satFlag q.cntSat v n

/-- The live counts of a slot after a tally of a stream's row. -/
def countTally (stream : Nat) (t : Tally) (q : QuantSlot) : QuantSlot :=
  let lo := t.exps.foldl min ((t.exps.head?).getD 0)
  let hi := t.exps.foldl max ((t.exps.head?).getD 0)
  let used := !t.exps.isEmpty
  { q with
    elems := q.elems + BitVec.ofNat 64 t.elems
    clip := satAdd q.clip t.clip, uflow := satAdd q.uflow t.uflow, nonfin := satAdd q.nonfin t.nonfin
    degen := satAdd q.degen t.degen, raises := satAdd q.raises t.raises
    sse := satAdd q.sse t.sse, sseSat := satFlag q.sseSat q.sse t.sse
    maxobs := fmax q.maxobs t.maxobs
    expLo := if !used then q.expLo else if q.expValid then BitVec.ofInt 8 (min q.expLo.toInt lo) else BitVec.ofInt 8 lo
    expHi := if !used then q.expHi else if q.expValid then BitVec.ofInt 8 (max q.expHi.toInt hi) else BitVec.ofInt 8 hi
    expValid := q.expValid || used, ceil := q.ceil || t.ceil.isSome
    accsat := satAdd q.accsat t.accsat, accnf := satAdd q.accnf t.accnf, statenf := satAdd q.statenf t.statenf
    padonly := satAdd q.padonly t.padonly, wnan := satAdd q.wnan t.wnan
    draws := q.draws + BitVec.ofNat 64 t.draws, drawnf := satAdd q.drawnf t.drawnf
    drawBy := if q.drawnf = 0 && t.drawnf != 0 then BitVec.ofNat 16 stream else q.drawBy
    cntSat := satSum q q.clip t.clip || satSum q q.uflow t.uflow || satSum q q.nonfin t.nonfin || satSum q q.degen t.degen ||
      satSum q q.raises t.raises || satSum q q.accsat t.accsat || satSum q q.accnf t.accnf || satSum q q.statenf t.statenf ||
      satSum q q.padonly t.padonly || satSum q q.wnan t.wnan || satSum q q.drawnf t.drawnf }

/-- The events a first occurrence in a period records for a slot (R57, R96). -/
def tallyEvents (slot stream : Nat) (seq : W32) (t : Tally) (q q' : QuantSlot) (s : State) : State :=
  let n := BitVec.ofNat 32 slot
  let s := if q'.sseSat && !q.sseSat then record 0x0101 n seq 0 0 s else s
  let s := match t.ceil with
    | some (e, top) => if q.ceil then s else record 0x0102 n (BitVec.ofNat 32 stream) (BitVec.ofInt 32 e) (BitVec.ofInt 32 top) s
    | none => s
  if q.statenf = 0 && t.statenf != 0 then record 0x0104 n (BitVec.ofNat 32 stream) (BitVec.ofNat 32 t.stateAt) seq s else s

/-- Count a tally in a slot of the period in which the step was dispatched, `period` being its TL_STAT_SEQ (R51): the one in
progress, or one that waits to latch. A period whose counts have latched takes no more. No count and no event of R57 is kept
while monitoring is off, or for an operation without a slot (DESIGN CHOICE: R57 does not say; notes/assumptions/63.md). -/
def tallySlot (period : W32) (slot stream : Nat) (t : Tally) (s : State) : State :=
  if slot = 0xFFFF then s
  else if period = s.period.seq then
    if !s.quant.monEff then s else
      let q := cget {} s.quant.live slot
      let s := s.modLiveSlot slot (countTally stream t)
      tallyEvents slot stream (s.period.seq + 1) t q (cget {} s.quant.live slot) s
  else
    match s.quant.closing.find? (·.seq = period) with
    | none => s
    | some y =>
      if !y.valid then s else
        let q := cget {} y.slots slot
        let q' := countTally stream t q
        let s := { s with quant := { s.quant with closing := s.quant.closing.map fun z =>
          if z.seq = period then { z with slots := cput {} slot q' z.slots } else z } }
        tallyEvents slot stream (period + 1) t q q' s

end Sys2Proof.Machine
end

