-- ==== Sys2Proof/Machine/Image.lean ====
section
/-! DEFINITION. The IMAGE block (R159 to R164): VERIFY, ACTIVATE, DEACTIVATE, DISCARD, IMAGE_LEN, and what activation sets
up (R143, R147, R162, R185, R193, R195, R196, R282, R288, R359). -/

namespace Sys2Proof.Machine

def State.modImage (s : State) (f : ImageBlk → ImageBlk) : State := { s with image := f s.image }
def imageErr (s : State) : State := s.modImage fun x => { x with cmdErr := true }

/-- IMAGE_RESULT and its companions after a command (R471). -/
def imageResult (f : Option ImgFail) (s : State) : State :=
  s.modImage fun x => match f with
    | none => { x with section_ := 0, code := 0, entry := 0, op := 0xFFFF }
    | some f => { x with section_ := BitVec.ofNat 8 f.sec, code := BitVec.ofNat 16 f.code, entry := BitVec.ofNat 32 f.entry
                         op := BitVec.ofNat 16 f.op }

/-- Event 0x0B01 (R164). -/
def imageFailed (f : ImgFail) (s : State) : State :=
  record 0x0B01 (BitVec.ofNat 32 f.code) (BitVec.ofNat 32 f.sec) (BitVec.ofNat 32 f.entry) (BitVec.ofNat 32 f.op)
    (imageResult (some f) s)

/-! ## IMAGE_LEN, VERIFY, DISCARD (R159, R160) -/

/-- The block takes commands: READY (R294), LOCK clear. -/
def State.imageTakes (s : State) : Bool := s.mem.ready && !s.image.lock

def writeImageLen (v : W32) (s : State) : State :=
  if s.imageTakes && (s.image.state == .empty || s.image.state == .staged || s.image.state == .rejected) then
    s.modImage fun x => { x with len := v, state := .staged }
  else imageErr s

def imageVerify (s : State) : State :=
  if s.imageTakes && s.image.state == .staged then
    s.modImage fun x => { x with state := .verifying, held := true }
  else imageErr s

def imageActivate (s : State) : State :=
  if s.imageTakes && s.image.state == .verified then s.modImage fun x => { x with state := .activating } else imageErr s

def imageDiscard (s : State) : State :=
  if s.imageTakes && (s.image.state == .staged || s.image.state == .verified || s.image.state == .rejected) then
    imageResult none (s.modImage fun x => { x with state := .empty, held := false, staged := none })
  else imageErr s

/-- Bytes of tier 2 as VERIFY reads them; a word no decode delivers reads as a free value (notes/assumptions/46.md). -/
def verifyRead (len : Nat) (s : State) : List Byte × State :=
  let s := countCe 2 (wordsOf 0 len) s
  let t := s.tier 2
  if t.chk.isEmpty then (t.deliver 0 len, s)
  else
    let (l, s) := (wordsOf 0 len).foldl (fun (acc : List Byte × State) w =>
      if (t.outcome w).ok then (acc.1 ++ leBytes 8 (t.decoded w), acc.2)
      else
        let (v, s) := acc.2.takeFree
        (acc.1 ++ leBytes 8 v.toNat, s)) ([], s)
    (l.take len, s)

/-- VERIFY ends (R157, R160); it reads the header whatever IMAGE_LEN says. -/
def execVerifyComplete (s : State) : Result :=
  if s.image.state != .verifying then .next s
  else
    let n := min (max 128 s.image.len.toNat) s.stageSize
    let (b, s) := verifyRead n s
    match verifyImage b s.image.len.toNat s with
    | some f => done (imageFailed f (s.modImage fun x => { x with state := .rejected, staged := none }))
    | none => done (imageResult none (s.modImage fun x => { x with state := .verified, staged := some (readImage b) }))

/-! ## ACTIVATE (R162) -/

/-- Copy one granule, its tag with it (CARRY): none where a word cannot be read. -/
def carryGranule (srcTier src dst : Nat) (s : State) : Option State × State :=
  let (b, s) := readFull 2 srcTier (512 * src) 512 s
  match b with
  | none => (none, s)
  | some bs => (some (setTag 0 dst ((s.tier srcTier).tag src) (writeMem 0 (512 * dst) bs s)), s)

/-- Copy granules in order, stopping at the first that cannot be read. -/
def carryAll : List (Nat × Nat × Nat) → State → Bool × State
  | [], s => (true, s)
  | (t, a, b) :: rest, s =>
    match carryGranule t a b s with
    | (some s, _) => carryAll rest s
    | (none, s) => (false, s)

/-- Whole pages from address a up to b become zeros with valid check bits; their tags become 0 (R143, R406). -/
def Tier.zeroed (t : Tier) (a b : Nat) : Tier :=
  let out := fun unit k => decide (k < a / unit) || decide (b / unit ≤ k)
  { bytes := t.bytes.filter fun e => out 1 e.1
    tags := t.tags.filter fun e => out 512 e.1
    chk := t.chk.filter fun e => out 8 e.1
    par := t.par.filter fun e => out 32 e.1
    aux := t.aux.filter fun e => if e.1 < 2 ^ 40 then out 256 e.1 else out 1024 (e.1 - 2 ^ 40)
    stale := t.stale.filter fun p => out 4096 p }

/-- Zero-fill the carved regions, with valid check bits (R143). -/
def zeroRegions (m : Image) (t : Tier) : Tier :=
  m.sram.foldl (fun t r =>
    let a := r.die * 0xC0000000 + r.base * 4096
    t.zeroed a (a + r.tiles * 4096)) t

/-- Lengths of the entries of a section of the staged image. -/
def Image.entryLens (m : Image) (sec : Nat) : List Nat :=
  match sec with
  | 6 => m.rescale.map fun r => ceilDiv (16 + 4 * r.values.length) 8 * 8
  | 7 => m.programs.map fun p => 16 + (p.recs.map (·.bytes.length)).sum
  | _ => ((m.dir.find? (·.1 = sec)).map fun d => List.replicate (d.2.2.1 / d.2.2.2) d.2.2.2).getD []

/-- Read a section of the staged image entry by entry (R303): the first entry with a word that cannot be read. -/
def readSection (m : Image) (sec : Nat) (s : State) : Option ImgFail × State :=
  match m.dir.find? (·.1 = sec) with
  | none => (none, s)
  | some (_, off, _, _) =>
    let (_, _, f, s) := (m.entryLens sec).foldl (fun (acc : Nat × Nat × Option ImgFail × State) n =>
      let (i, o, f, s) := acc
      match f with
      | some _ => acc
      | none =>
        match readFull 2 2 o n s with
        | (some _, s) => (i + 1, o + n, none, s)
        | (none, s) => (i, o, some { code := 0x81, sec := sec, entry := i }, s)) (0, off, none, s)
    (f, s)

/-- The bytes of a tensor, read region by region (R146). -/
def readTensor (t : TensorEnt) (s : State) : Option (List Byte) × State :=
  t.hostRegions.foldl (fun (acc : Option (List Byte) × State) r =>
    match acc with
    | (none, s) => (none, s)
    | (some l, s) =>
      match readFull 2 r.1 r.2.1 r.2.2 s with
      | (some b, s) => (some (l ++ b), s)
      | (none, s) => (none, s)) (some [], s)

/-- The digest as the 48 bytes of SHA-384, its first byte first. -/
def digestBytes (b : List Byte) : List Byte := beBytes 48 (Config.sha384 b).toNat

/-- Entries of TENSORS in ascending TID order, with their index. -/
def Image.tensorsByTid (m : Image) : List (TensorEnt × Nat) :=
  m.tensors.zipIdx.foldl (fun l t => l.filter (·.1.tid < t.1.tid) ++ [t] ++ l.filter (t.1.tid ≤ ·.1.tid)) []

/-- Step 3: digests in ascending TID order, stopping at the first failure. -/
def checkDigests : List (TensorEnt × Nat) → State → Option ImgFail × State
  | [], s => (none, s)
  | (t, i) :: rest, s =>
    match readTensor t s with
    | (none, s) => (some { code := 0x81, sec := 5, entry := i }, s)
    | (some b, s) => if digestBytes b = t.digest then checkDigests rest s else (some { code := 0x80, sec := 5, entry := i }, s)

/-- What step 4 copies for one tensor: tier and granule to tier-0 granule. SRAM-tier tensors go to their own place (R288),
the others to each die's cache (R193). -/
def Image.copiesOf (m : Image) (t : TensorEnt) : List (Nat × Nat × Nat) :=
  if t.tier = 0 then t.granules.map fun (tier, g) => (tier, g, g - loadWindow / 512)
  else (List.range 4).flatMap fun die =>
    match (m.cachePlaces die).find? (·.1.tid = t.tid) with
    | some (_, place) => t.granules.zipIdx.map fun ((tier, g), i) => (tier, g, m.cacheGranule die place i)
    | none => []

/-- Step 4, tensor by tensor. -/
def fillCaches (m : Image) : List (TensorEnt × Nat) → State → Option ImgFail × State
  | [], s => (none, s)
  | (t, i) :: rest, s =>
    match carryAll (m.copiesOf t) s with
    | (true, s) => fillCaches m rest s
    | (false, s) => (some { code := 0x81, sec := 5, entry := i }, s)

/-- Step 2: every die whose matrix products name a table gets its copy, in its rescale-table region (R147). -/
def copyTables (m : Image) (s : State) : State :=
  s.each [0, 1, 2, 3] fun s die => s.each (m.tablesOf die) fun s t =>
    match m.tableAt die t.table with
    | some a => writeMem 0 a (t.values.flatMap fun v => leBytes 4 v.toNat) s
    | none => s

/-- Sections read one after another. -/
def readSections (m : Image) : List Nat → State → Option ImgFail × State
  | [], s => (none, s)
  | n :: t, s =>
    match readSection m n s with
    | (none, s) => readSections m t s
    | r => r

/-- A link at activation: EMPTY is BUFFERS, FULL 0; a CHAIN 1 link's free queue holds every buffer at generation 0 (R195,
R196). -/
def freshLink (x : LinkEnt) : LinkSt :=
  { empty := if x.chain = 0 then x.buffers else 0
    freeQ := if x.chain = 1 then (List.range x.buffers).map (BitVec.ofNat 32) else [] }

/-- Receivers of a link at activation: RING_NEXT, or the MCAST lowest positions but this device's own (R359). -/
def freshPeer (pos : Nat) (x : LinkEnt) : KImg :=
  if x.mcast = 0 then { branches := [{ pos := 8, empty := x.buffers }] }
  else
    let ps := ((List.range 8).filter (· != pos)).take x.mcast
    { mode := 2, mask := BitVec.ofNat 8 ((ps.map (2 ^ ·)).sum), branches := ps.map fun p => { pos := p, empty := x.buffers } }

/-- Step 5: routes, links and weight streams, stages, schedulers and QUANT_SLOTS; no stage is trapped any more (R162, R180). -/
def setUp (m : Image) (s : State) : State :=
  let streams := (m.stages.filter fun g => m.streams g.stage).map fun g => weightEnt g.stage
  let links := (m.links ++ streams).foldl (fun l x => cput {} x.link (freshLink x) l) []
  let imgs := (m.links.filter fun x => x.transport == 2 || x.transport == 3).foldl
    (fun l x => cput {} x.link (freshPeer s.kl.pos.toNat x) l) []
  { s with
    stages := [], admitted := [], cells := [], resident := [], cleared := [], fed := []
    bellows := { s.bellows with links := links, spill := [] }
    kl := { s.kl with imgs := imgs, mseqTx := [] }
    quant := { s.quant with numSlots := BitVec.ofNat 13 m.numSlots } }

/-- An image leaves the fabric: nothing of it is in force (R162). -/
def clearFabric (s : State) : State :=
  { s with
    stages := [], admitted := [], cells := [], resident := [], cleared := [], fed := []
    bellows := { s.bellows with links := [], spill := [] }
    kl := { s.kl with imgs := [] }
    quant := { s.quant with numSlots := 0 } }

/-- ACTIVATE ends (R160, R162, R164). -/
def execActivateComplete (ups : List Upset) (s : State) : Result :=
  match s.image.staged with
  | none => .next s
  | some m =>
    if s.image.state != .activating then .next s
    else
      let s := applyUpsets ups s
      let fail := fun (f : ImgFail) (s : State) =>
        done (imageFailed f (s.modImage fun x => { x with state := .verified, active := none }))
      match readSections m [3, 6] (s.setTier 0 (zeroRegions m s.mem.t0)) with
      | (some f, s) => fail f s
      | (none, s) =>
        match checkDigests m.tensorsByTid (copyTables m s) with
        | (some f, s) => fail f s
        | (none, s) =>
          match fillCaches m m.tensorsByTid s with
          | (some f, s) => fail f s
          | (none, s) =>
            match readSections m [2, 4, 7, 8, 9, 10] s with
            | (some f, s) => fail f s
            | (none, s) =>
              let msg := s.mem.t2.deliver 0 (s.image.len.toNat - 128)
              let s := setUp m (imageResult none (s.modImage fun x =>
                { x with state := .active, active := some m, digest := Config.sha384 msg }))
              done (record 0x0B02 (lo32 m.id) (hi32 m.id) m.svn (BitVec.ofNat 32 m.numSlots) s)

/-- DEACTIVATE (R160, R163, R164). -/
def imageDeactivate (s : State) : State :=
  if s.imageTakes && s.image.state == .active then
    if s.openStreams ≠ 0 then imageResult (some { code := 0x90 }) s
    else
      let id := s.img.id
      record 0x0B03 (lo32 id) (hi32 id) 0 0
        (clearFabric (imageResult none (s.modImage fun x => { x with state := .verified, active := none, digest := 0 })))
  else imageErr s

def execImageLen (r : Nat) (v : W32) (s : State) : Result := byReader .session r (fun s => writeImageLen v s) s
def execVerify (r : Nat) (s : State) : Result := byReader .session r (fun s => imageVerify s) s
def execActivate (r : Nat) (s : State) : Result := byReader .session r (fun s => imageActivate s) s
def execDeactivate (r : Nat) (s : State) : Result := byReader .session r (fun s => imageDeactivate s) s
def execDiscard (r : Nat) (s : State) : Result := byReader .session r (fun s => imageDiscard s) s

/-! ## Registers (R159) -/

def imgStateCode : ImgState → Nat
  | .empty => 0 | .staged => 1 | .verifying => 2 | .verified => 3 | .activating => 4 | .active => 5 | .rejected => 6

def readImageReg (off : Nat) (s : State) : W32 :=
  let x := s.image
  match off with
  | 0x00 => bitAt 0 x.lock
  | 0x08 => bitAt 8 x.cmdErr ||| at_ 0 (imgStateCode x.state)
  | 0x0C => x.len
  | 0x18 => BitVec.ofNat 32 s.stageSize
  | 0x1C => at_ 24 x.section_.toNat ||| x.code.setWidth 32
  | 0x20 => x.entry
  | 0x24 => x.op.setWidth 32
  | 0x28 => if x.active.isSome then lo32 s.img.id else 0
  | 0x2C => if x.active.isSome then hi32 s.img.id else 0
  | 0x30 => if x.active.isSome then s.img.svn else 0
  | _ => 0

def writeImageReg (off : Nat) (v : W32) (s : State) : State :=
  match off with
  | 0x00 => if s.image.lock then s else s.modImage fun x => { x with lock := v.getLsbD 0 }
  | 0x04 =>
    match v.toNat % 16 with
    | 1 => imageVerify s
    | 2 => imageActivate s
    | 3 => imageDeactivate s
    | 4 => imageDiscard s
    | _ => imageErr s
  | 0x08 => s.modImage fun x => { x with cmdErr := w1c x.cmdErr v 8 }
  | 0x0C => writeImageLen v s
  | _ => s

end Sys2Proof.Machine
end

