-- ==== Sys2Proof/Machine/Sampling.lean ====
section
/-! DEFINITION. The counter hash and the draw of the sampling units (R122 to R126, R134). -/

namespace Sys2Proof.Machine

/-! ## The counter hash (R122, R123) -/

def rotr64 (v : W64) (n : Nat) : W64 := (v >>> n) ||| (v <<< (64 - n))

/-- One round: absorb a key word, multiply, fold. -/
def hashRound (h w m : W64) (n : Nat) : W64 :=
  let x := (h ^^^ w) * m
  x ^^^ rotr64 x n

/-- The hash of a key (R123). -/
def counterHash (w0 w1 w2 w3 : W64) : W64 :=
  let h := hashRound 0 w0 0x8F3A61C52D94B7E3 28
  let h := hashRound h w1 0xB5E10C7D4A2693F9 36
  let h := hashRound h w2 0xE4C95B137F082A6D 20
  hashRound h w3 0xA71D3E95C4B26F0B 44

/-- The hash of seed, key stream ID, TENSOR, step number and element index (R122). -/
def keyHash (seed : W64) (keyId tensor : W16) (step : BitVec 48) (elem : W32) : W64 :=
  counterHash seed ((keyId.setWidth 64 <<< 48) ||| step.setWidth 64) ((tensor.setWidth 64 <<< 32) ||| elem.setWidth 64) 0

/-- The Gumbel value of a hash (R125). -/
def gumbel (h : W64) : W32 :=
  let n := h.toNat / 2 ^ 40
  let u := fldexp (fint (2 * n + 1 : Nat)) (-25)
  fneg (fln (fmax (fneg (fln u)) 0x33800000))

/-! ## The draw (R126) -/

/-- Entry a ranks above entry b: the larger value, among equal values the lower index. -/
def ranksAbove (a b : Nat × W32) : Bool := forder b.2 < forder a.2 || (forder b.2 == forder a.2 && decide (a.1 < b.1))

/-- The first entry in rank. -/
def topEntry : List (Nat × W32) → Option (Nat × W32)
  | [] => none
  | e :: t => some (t.foldl (fun b x => if ranksAbove x b then x else b) e)

/-- The n first entries in rank. -/
def topEntries : Nat → List (Nat × W32) → List (Nat × W32)
  | 0, _ => []
  | n + 1, l => match topEntry l with
    | none => []
    | some e => e :: topEntries n (l.filter (·.1 != e.1))

/-- The candidates of a score row (R126, step 2). -/
def candidates (topk : Nat) (scores : List W32) : List (Nat × W32) :=
  let all := (scores.zipIdx.filter fun e => !(fval e.1).isNan).map fun e => (e.2, fread e.1)
  if topk = 0 then all else topEntries topk all

/-- The class a draw gives, and whether no candidate has a finite score (R126, R134). `g`: G_i by entry. -/
def draw (greedy : Bool) (topk : Nat) (invT : W32) (g : Nat → W32) (scores : List W32) : Nat × Bool :=
  let cs := candidates topk scores
  let vs := if greedy then cs else cs.map fun e => (e.1, fadd (fmul e.2 invT) (g e.1))
  (((topEntry vs).map (·.1)).getD 0, !cs.any fun e => (fval e.2).isFin)

end Sys2Proof.Machine
end

