-- ==== Sys2Proof/Machine/Window.lean ====
section
/-! DEFINITION. Window operations on one row (R102, R104 to R115): convolution, transposed convolution, pooling, argmax,
padding, streaming history and the reset mark in a chunk. -/

namespace Sys2Proof.Machine

/-- The parameters of a WINDOW record (R102, R152). -/
structure Win where
  op : Nat
  pad : Nat
  ifmt : Nat
  groups : Nat
  cIn : Nat
  cOut : Nat
  k : Nat
  dil : Nat
  stride : Nat
  num : Nat
  den : Nat
  pb : Nat
  pa : Nat
  len : Nat
  taps : Nat
  bias : Nat
  invK : W32

def readWin (b : List Byte) : Win :=
  let f := field b
  { op := f 8 1 % 8, pad := f 8 1 / 8 % 4, ifmt := f 9 1 % 16, groups := max 1 (f 10 2), cIn := f 12 4, cOut := f 16 2
    k := f 18 2, dil := f 20 2, stride := max 1 (f 22 1), num := f 23 1, den := max 1 (f 24 1), pb := f 26 2, pa := f 28 2
    len := f 30 2, taps := f 32 2, bias := f 34 2, invK := BitVec.ofNat 32 (f 36 4) }

/-- One input element as FP32 (R104): its code, with a scale and zero point where the tensor or its group has them. -/
def winInput (fmt code : Nat) (pair : Option (W32 × Int)) : W32 :=
  match pair with
  | none => (decodeFmt fmt code).f32
  | some (s, zp) =>
    if fmt = 6 then (let v := signed 8 code - zp; sumOnce [Fp.mulX (.fin (decide (v < 0)) v.natAbs 0) (fval s)])
    else sumOnce [Fp.mulX (decodeFmt fmt code) (fval s)]

/-- The input of one row: its elements in planar order, the history (H per channel, oldest first) and how many positions of
it a reset set to +0. -/
structure WinIn where
  x : List W32
  hist : List W32
  h : Nat
  cleared : Nat
  /-- Reset point ρ of a marked row (R111). -/
  mark : Option Nat

/-- What a tap reads, and whether it is data: inside the chunk, or a history entry no reset set to +0 (R107, R111, R118). A
reset point past the chunk changes only the history.
`fresh`: the output belongs to the segment from the reset. None: ZERO padding. -/
def WinIn.read (i : WinIn) (w : Win) (fresh : Bool) (c : Nat) (p : Int) : Option W32 × Bool :=
  let zero : Option W32 := if w.pad = 0 then none else some 0
  let at_ := fun (q : Nat) => el i.x (c * w.len + q)
  let plain :=
    if 0 ≤ p && p < w.len then (some (at_ p.toNat), true)
    else match w.pad with
      | 1 => (some (at_ (if p < 0 then 0 else w.len - 1)), false)
      | 2 =>
        if p < 0 && -(i.h : Int) ≤ p then
          (some (el i.hist (c * i.h + (p + i.h).toNat)), decide ((i.cleared : Int) ≤ p + i.h))
        else (some 0, false)
      | _ => (none, false)
  match i.mark with
  | none => plain
  | some r =>
    if w.len ≤ r then plain
    else if fresh then
      (if (r : Int) ≤ p then plain else (if w.pad = 1 then some (at_ (min r (w.len - 1))) else zero, false))
    else
      (if p < r then plain else (if w.pad = 1 then some (at_ (min r w.len - 1)) else zero, false))

/-- Output t belongs to the segment from the reset (R111). -/
def WinIn.fresh (i : WinIn) (w : Win) (t : Nat) : Bool :=
  match i.mark with
  | none => false
  | some r => if w.op = 1 then decide (r * w.stride ≤ t) else decide (r ≤ t * w.stride)

/-- Input position of tap j of output t; none where a transposed convolution has no term (R105, R112). -/
def tapPos (w : Win) (t j : Nat) : Option Int :=
  if w.op = 1 then
    let q : Int := (t : Int) + w.pb - j * w.dil
    if q % w.stride = 0 then some (q / w.stride) else none
  else some ((t : Int) * w.stride - w.pb + j * w.dil)

/-- y of one output element of CONV and TCONV: blocks of 64 by r, leaves, tree, bias (R105, R112). -/
def convOut (w : Win) (i : WinIn) (taps bias : List W32) (co t : Nat) : W32 :=
  let cg := w.cIn / w.groups
  let g := co / max 1 (w.cOut / w.groups)
  let fresh := i.fresh w t
  let term := fun r =>
    let ci := r / w.k
    let j := r % w.k
    match tapPos w t j with
    | none => none
    | some p => some (Fp.mulX (fval (el taps ((co * cg + ci) * w.k + j))) (fval (((i.read w fresh (g * cg + ci) p).1).getD 0)))
  let leaves := (chunksOf 64 (List.range (cg * w.k))).map fun b => sumOnce (b.filterMap term)
  let y := tree fadd 0 leaves
  if bias.isEmpty then y else fadd y (el bias co)

/-- One output element of the pools (R108, R114). -/
def poolOut (w : Win) (i : WinIn) (c t : Nat) : W32 :=
  let fresh := i.fresh w t
  let vs := (List.range w.k).filterMap fun j => (tapPos w t j).map fun p => (i.read w fresh c p).1
  if w.op = 2 then
    match vs.filterMap id with
    | [] => 0
    | v :: rest => rest.foldl fmax (fread v)
  else fmul (blockSum (vs.map fun v => fval (v.getD 0))) w.invK

/-- The channel with the largest value at a position, and whether every channel is NaN (R115). -/
def argmaxAt (w : Win) (x : List W32) (t : Nat) : Nat × Bool :=
  let vs := (List.range w.cIn).map fun c => el x (c * w.len + t)
  let best := vs.zipIdx.foldl (fun (b : Option (Nat × W32)) e =>
    if (fval e.1).isNan then b else
      match b with
      | none => some (e.2, e.1)
      | some (_, v) => if forder v < forder e.1 then some (e.2, e.1) else b) none
  match best with
  | some (k, _) => (k, false)
  | none => (0, true)

/-- Output elements of which at most one tap is on data (R118). -/
def padOnly (w : Win) (i : WinIn) (planes outLen : Nat) : Nat :=
  if w.op = 1 || w.op = 4 then 0 else
    planes * ((List.range outLen).filter fun t =>
      decide (((List.range w.k).filter fun j => match tapPos w t j with
        | some p => (i.read w (i.fresh w t) 0 p).2
        | none => false).length ≤ 1)).length

/-- The output planes of a row, channel by channel. -/
def winOut (w : Win) (i : WinIn) (taps bias : List W32) (outLen : Nat) : List W32 :=
  if w.op = 4 then []
  else if w.op ≤ 1 then (List.range w.cOut).flatMap fun co => (List.range outLen).map (convOut w i taps bias co)
  else (List.range w.cIn).flatMap fun c => (List.range outLen).map (poolOut w i c)

/-- The history after the step and how many of its positions a reset set to +0 (R110, R111). -/
def winHistory (w : Win) (i : WinIn) : List W32 × Nat :=
  let first : Int := (w.len : Int) - i.h
  let zeros := match i.mark with | some r => min i.h ((r : Int) - first).toNat | none => i.cleared - w.len
  ((List.range w.cIn).flatMap fun c => (List.range i.h).map fun (n : Nat) =>
    let p := first + (n : Int)
    let cleared := match i.mark with | some r => decide (p < r) | none => false
    if cleared then 0
    else if 0 ≤ p then el i.x (c * w.len + p.toNat) else el i.hist (c * i.h + (p + i.h).toNat), zeros)

/-- An element of an input plane that some tap of some output reads (R109): every position of an argmax. -/
def Win.reads (w : Win) (i : WinIn) (outLen : Nat) (p : Nat) : Bool :=
  w.op == 4 || (List.range outLen).any fun t => (List.range w.k).any fun j => match tapPos w t j with
    | none => false
    | some q =>
      let q' : Int := if 0 ≤ q && q < w.len then q else if w.pad = 1 then (if q < 0 then 0 else w.len - 1) else -1
      match i.mark with
      | some r =>
        if w.len ≤ r then q' == (p : Int)
        else if i.fresh w t then (if (r : Int) ≤ q then q' else if w.pad = 1 then (min r (w.len - 1) : Nat) else -1) == (p : Int)
        else (if q < r then q' else if w.pad = 1 then (r : Int) - 1 else -1) == (p : Int)
      | none => q' == (p : Int)

end Sys2Proof.Machine
end

