-- ==== Sys2Proof/Machine/StepData.lean ====
section
/-! DEFINITION. What a step reads: the tiles it holds (R175, R195), weights and constants with their checks (R65, R193, R194,
R302, R320), key/value state (R72), carried state in state RAM (R91, R94), histories (R110), scale records, rescale tables and
delayed-scale records (R44, R48, R147). -/

namespace Sys2Proof.Machine

/-! ## The step that reads -/

/-- A step at work: its stage's number and entry, its program, and the step as it was selected. -/
structure Sel where
  stage : Nat
  e : StageEnt
  g : ProgEnt
  t : Step

/-- The step as it stands on its scoreboard. -/
def State.now? (s : State) (x : Sel) : Option Step := (s.stage x.stage).steps.find? (·.same x.t)

/-- Update a step of a stage. -/
def modStep (x : Sel) (f : Step → Step) (s : State) : State :=
  s.modStage x.stage fun g => { g with steps := g.steps.map fun u => if u.same x.t then f u else u }

/-- Streams of the step whose rows no abort has masked. -/
def State.liveRows (s : State) (x : Sel) : List Nat := ((s.now? x).map Step.streams).getD []

/-- A stage traps: its running step stops, nothing of it is selected again, every stream of every plan that uses it
aborts with cause 0x02, event 0x0202 (R180). -/
def trapStage (stage prog op : Nat) (s : State) : State :=
  let m := s.img
  let s := s.modStage stage fun g => { g with
    trapped := true, trapProg := BitVec.ofNat 16 prog, trapOp := BitVec.ofNat 16 op
    steps := g.steps.filter (·.state != .run) }
  let s := record 0x0202 (BitVec.ofNat 32 stage) (BitVec.ofNat 32 (((m.stage? stage).map (·.die)).getD 0))
    (BitVec.ofNat 32 prog) (BitVec.ofNat 32 op) s
  let plans := (m.plans.filter fun p => (m.planStages p).contains stage).map (·.plan)
  s.each (s.streams.map (·.1)) fun s id =>
    if plans.contains (s.stream id).plan.toNat then abortStream id 2 (BitVec.ofNat 32 stage) (BitVec.ofNat 32 prog) s else s

/-- A granule that a stage's unit reads fails its check (R320): the stream its header names aborts with cause 0x07, or every
stream of the step. -/
def failGranule (x : Sel) (tier granule stream : Nat) (noStream : Bool) (seq : Nat) (s : State) : State :=
  let s := tagConsumerFail tier granule stream noStream seq 1 s
  s.each (if noStream then s.liveRows x else [stream]) fun s id => abortStream id 7 (BitVec.ofNat 32 seq) 0 s

/-! ## Reads that can stop a step -/

/-- A read of a step: nothing where it stops the step there, which has trapped its stage or waits. -/
abbrev Got (α : Type) := Option α × State

/-- Go on with what a read gave. -/
def chain {α β : Type} (x : Got α) (f : α → State → Got β) : Got β :=
  match x with
  | (some a, s) => f a s
  | (none, s) => (none, s)

/-- Read for each element of a list in order. -/
def gather {α β : Type} (f : α → State → Got β) : List α → State → Got (List β)
  | [], s => (some [], s)
  | a :: t, s =>
    match f a s with
    | (none, s) => (none, s)
    | (some b, s) =>
      match gather f t s with
      | (none, s) => (none, s)
      | (some l, s) => (some (b :: l), s)

/-- Read and check a granule for a step: an uncorrectable word traps the stage (R302). Streams that a failed check does not
abort go on with the bytes as they were read. -/
def takeGranule (x : Sel) (op cls : Nat) (y : Nat × Nat × Nat × Bool × Nat) (s : State) : Got (List Byte) :=
  let (tier, g, st, ns, q) := y
  match readGranule cls tier g st ns q s with
  | (.ok b, s) => (some b, s)
  | (.ue _ _, s) => (none, trapStage x.stage x.g.prog op s)
  | (.bad tier g q, s) => (some ((s.tier tier).deliver (512 * g) 512), failGranule x tier g st ns q s)

/-- Read bytes of a carved region, which carries no tags (R316), for a step. -/
def takeBytes (x : Sel) (op cls a n : Nat) (s : State) : Got (List Byte) :=
  match readFixed cls 0xFFFF 0 a n s with
  | (none, s) => (none, trapStage x.stage x.g.prog op s)
  | (some b, s) => (some b, s)

/-- FP32 elements of one 64-bit word; 0x7FC0_0000 twice where it is uncorrectable (R94, R110). -/
def readPair (cls stream tier a : Nat) (s : State) : List W32 × State :=
  match readFixed cls stream tier (a / 8 * 8) 8 s with
  | (some b, s) => (wordsLE b, s)
  | (none, s) => ([qnan, qnan], s)

/-- The elements of 64-bit words one after another. -/
def readPairs (cls stream tier : Nat) : List Nat → State → List W32 × State
  | [], s => ([], s)
  | a :: t, s =>
    let (l, s) := readPair cls stream tier a s
    let (r, s) := readPairs cls stream tier t s
    (l ++ r, s)

/-- Numbers of free values for what the spec leaves open. -/
def freeWords (n : Nat) (s : State) : List W32 × State :=
  ((List.range n).map fun i => (Config.freeValue (s.free + i)).setWidth 32, { s with free := s.free + n })

/-! ## Link operands (R15, R48, R103, R104, R109) -/

/-- The elements of an operand: codes plane by plane, scales and zero points for each `group` elements of a plane of
`count`, or one for all. -/
structure Loaded where
  fmt : Nat := 0
  codes : List Nat := []
  pairs : List (W32 × Int) := []
  group : Nat := 0
  count : Nat := 1

/-- The scale and zero point of element i. -/
def Loaded.pair (l : Loaded) (i : Nat) : Option (W32 × Int) :=
  if l.group = 0 then l.pairs.head?
  else l.pairs[i / max 1 l.count * ceilDiv l.count l.group + i % max 1 l.count / l.group]?

/-- The elements in FP32 (R19, R104). -/
def Loaded.values (l : Loaded) : List W32 := l.codes.zipIdx.map fun (k, i) => winInput l.fmt k (l.pair i)

/-- First byte of an operand in the tiles its step holds on its link, and bytes of one plane. -/
def opStart (o : Operand) : Nat := 4096 * o.tile + o.off
def planeBytes (fmt count : Nat) : Nat := packedBytes fmt count
/-- Tiles of its link that an operand reaches. -/
def opTiles (fmt : Nat) (o : Operand) : Nat :=
  ceilDiv (opStart o + (o.planes - 1) * o.stride + planeBytes fmt o.count) 4096

/-- The format of a record's link operand: the record's own field where it has one. -/
def Rec.inFmt (r : Rec) (o : Operand) : Nat :=
  match r.cls with
  | 0 => field r.bytes 8 1 / 16
  | 3 => field r.bytes 9 1 % 16
  | 4 => field r.bytes 8 1 % 16
  | _ => o.fmt

/-- Granules of the held tiles that an operand fills, or of those elements `reads` wants (R109). -/
def opGranules (fmt : Nat) (o : Operand) (reads : Option (Nat → Bool)) : List Nat :=
  ((List.range o.planes).flatMap fun c =>
    let a := opStart o + c * o.stride
    match reads with
    | none => granulesOf a (planeBytes fmt o.count)
    | some f => ((List.range o.count).filter f).flatMap fun j => granulesOf (a + j * fmtBits fmt / 8) (max 1 (fmtBits fmt / 8))).eraseDups

/-- One granule of the tiles held on a link; a buffer that arrived as a GAP failed when it was taken (R320, R362). -/
def takeTileGranule (x : Sel) (op : Nat) (e : LinkEnt) (hs : List W32) (k : Nat) (s : State) : Got (Nat × List Byte) :=
  let h := (hs[k / 8]?).getD 0
  let a := s.img.bufferAddr e (h.toNat % 65536) / 512 + k % 8
  if (s.linkSt e.link).gaps.contains h.toNat then (some (k, (s.tier 0).deliver (512 * a) 512), s)
  else
    let (st, ns, q) := s.bufferHead e.link h (k % 8)
    chain (takeGranule x op 3 (0, a, st, ns, q) s) fun b s => (some (k, b), s)

/-- Bytes [a, a + n) out of granules; 0 where none was fetched. -/
def pickBytes (gs : List (Nat × List Byte)) (a n : Nat) : List Byte :=
  (List.range n).map fun i => (((gs.find? (·.1 = (a + i) / 512)).bind fun g => g.2[(a + i) % 512]?)).getD 0

/-- A pair list of scales and zero points: S_0, ZP_0, S_1, ZP_1 ... -/
def pairsOf : List Nat → List (W32 × Int)
  | s :: z :: t => (BitVec.ofNat 32 s, signed 8 z) :: pairsOf t
  | _ => []

/-- 8-byte scale records (R48). -/
def scaleRecords (b : List Byte) : List (W32 × Int) :=
  (List.range (b.length / 8)).map fun i => (BitVec.ofNat 32 (field b (8 * i) 4), signed 8 (field b (8 * i + 4) 1))

/-- The scales of an operand: given, or read from the die's scale-record region (R48, class 3 of R302); free values where it
does not reach that far. -/
def takeScales (x : Sel) (op : Nat) (o : Operand) (s : State) : Got (List (W32 × Int)) :=
  match o.records with
  | none => (some (pairsOf o.pairs), s)
  | some off =>
    let n := o.planes * if o.group = 0 then 1 else ceilDiv o.count o.group
    match s.img.region? x.e.die 5 x.stage with
    | some g =>
      if off + 8 * n ≤ g.len then chain (takeBytes x op 3 (g.addr + off) (8 * n) s) fun b s => (some (scaleRecords b), s)
      else let (l, s) := freeWords n s; (some (l.map fun v => (v, signed 8 v.toNat)), s)
    | none => let (l, s) := freeWords n s; (some (l.map fun v => (v, signed 8 v.toNat)), s)

/-- An operand of a row out of the tiles its step holds. -/
def takeOperand (x : Sel) (op : Nat) (r : Rec) (reads : Option (Nat → Bool)) (y : LinkEnt × Operand) (s : State) : Got Loaded :=
  let (e, o) := y
  let fmt := r.inFmt o
  let hs := (((s.now? x).map (·.bufs)).getD []).filterMap fun (b : Nat × W32) => if b.1 = e.link then some b.2 else none
  chain (gather (takeTileGranule x op e hs) (opGranules fmt o reads) s) fun gs s =>
    chain (takeScales x op o s) fun pairs s =>
      let codes := (List.range o.planes).flatMap fun c =>
        let v := leNat (pickBytes gs (opStart o + c * o.stride) (planeBytes fmt o.count))
        (List.range o.count).map (codeAt fmt v)
      (some { fmt := fmt, codes := codes, pairs := pairs, group := o.group, count := o.count }, s)

/-! ## Taking tiles (R175, R195, R196) -/

/-- The link of a record's k-th operand. -/
def Rec.inLink (r : Rec) (k : Nat) : Option Nat := (r.reads[k]?).orElse fun _ => r.reads.getLast?

/-- Tiles that a record's operands reach on a link: at least one of every link it reads. -/
def tilesNeeded (r : Rec) (xs : List OpInput) (l : Nat) : Nat :=
  xs.foldl (fun n x => x.ins.zipIdx.foldl (fun n y => if r.inLink y.2 = some l then max n (opTiles (r.inFmt y.1) y.1) else n) n) 1

/-- Tiles in a link's buffers that no step before this one on its stage awaits. -/
def State.tilesFor (s : State) (x : Sel) (l : Nat) : Nat :=
  let before := (s.stage x.stage).steps.takeWhile fun u => !u.same x.t
  s.tilesIn l - (before.flatMap fun u => (s.claims u).filterMap fun c => if c.1 = l then some c.2 else none).sum

/-- The step takes the next tile of a link; one that arrived as a GAP fails its check (R320, R362). -/
def holdTile (x : Sel) (e : LinkEnt) (s : State) : State :=
  match takeFull e s with
  | none => s
  | some (h, s) =>
    let s := modStep x (fun u => { u with bufs := u.bufs ++ [(e.link, h)] }) s
    if (s.linkSt e.link).gaps.contains h.toNat then
      failGranule x 0 (s.img.bufferAddr e (h.toNat % 65536) / 512) 0xFFFF true (linkSeq h 0) s
    else s

/-- The step waits for tiles of a link, and its stage is free (R175). -/
def waitFor (x : Sel) (l n : Nat) (s : State) : State :=
  modStep x (fun u => { u with state := .wait, await := some l, need := n }) s

/-- The step takes the tiles a record needs, or waits and takes none. -/
def takeTiles (x : Sel) (r : Rec) (xs : List OpInput) (s : State) : Got Unit :=
  let bufs := ((s.now? x).map (·.bufs)).getD []
  let lack := r.reads.eraseDups.filterMap fun l => (s.img.link? l).map fun e =>
    (e, tilesNeeded r xs l - (bufs.filter (·.1 == l)).length)
  match lack.find? fun y => decide (s.tilesFor x y.1.link < y.2) with
  | some (e, n) => (none, waitFor x e.link n s)
  | none => (some (), s.each lack fun s y => s.each (List.range y.2) fun s _ => holdTile x y.1 s)

/-! ## Tensors (R193, R194, R288) -/

/-- Where the granules of one region of a tensor stand for a die: tier, granule, and the header of their tags; `first`:
index of the region's first granule in the tensor. `weight`: a MATMUL reads it as its weight. -/
def Image.placeRegion (m : Image) (weight : Bool) (die : Nat) (t : TensorEnt) (first : Nat) (tier a n : Nat) :
    List (Nat × Nat × Nat × Bool × Nat) :=
  let gs := granulesOf a n
  if t.tier = 0 then gs.map fun g => (0, g - loadWindow / 512, 0xFFFF, true, g)
  else match if weight then (m.cachePlaces die).find? (·.1.tid = t.tid) else none with
    | some (_, place) => gs.zipIdx.map fun (g, i) => (0, m.cacheGranule die place (first + i), 0xFFFF, true, g)
    | none => gs.map fun g => (tier, g, 0xFFFF, true, g)

/-- The granules of a tensor as a stage of a die reads them. -/
def Image.placeTensor (m : Image) (weight : Bool) (die : Nat) (t : TensorEnt) : List (Nat × Nat × Nat × Bool × Nat) :=
  (t.hostRegions.foldl (fun (acc : List (Nat × Nat × Nat × Bool × Nat) × Nat) x =>
    (acc.1 ++ m.placeRegion weight die t acc.2 x.1 x.2.1 x.2.2, acc.2 + (granulesOf x.2.1 x.2.2).length)) ([], 0)).1

/-- A tensor's regions out of the granules that cover them: codes, scales, side list one after another. -/
def TensorEnt.cut (t : TensorEnt) (b : List Byte) : List Byte :=
  (t.hostRegions.foldl (fun (acc : List Byte × List Byte) x =>
    (acc.1 ++ slice (x.2.1 % 512) x.2.2 acc.2, acc.2.drop (512 * (granulesOf x.2.1 x.2.2).length))) ([], b)).1

/-- The tiles of a streamed tensor out of the window of the stage's weight stream, each released as soon as it is read
(R194); the step waits for one that has not come. -/
def takeWindow (x : Sel) (op : Nat) (t : TensorEnt) : Nat → State → Got (List Byte)
  | 0, s => (none, s)
  | fuel + 1, s =>
    match s.now? x with
    | none => (none, s)
    | some u =>
      let e := weightEnt x.stage
      let got := u.load.length / 512
      if t.granules.length ≤ got then (some u.load, modStep x (fun u => { u with load := [] }) s)
      else if !s.canMeet u 0 e.link 1 then (none, waitFor x e.link 1 s)
      else match takeFull e s with
        | none => (none, waitFor x e.link 1 s)
        | some (h, s) =>
          let a := s.img.bufferAddr e (h.toNat % 65536) / 512
          let gs := ((t.granules.drop got).take 8).zipIdx.map fun ((_, g), i) => (0, a + i, 0xFFFF, true, g)
          match gather (takeGranule x op 2) gs s with
          | (none, s) => (none, (releaseBuffer e h s).2)
          | (some bs, s) =>
            let s := modStep x (fun u => { u with load := u.load ++ bs.flatten, wdone := u.wdone + 1 }) s
            takeWindow x op t fuel (releaseBuffer e h s).2

/-- The bytes of a tensor a record reads: weights under class 2, constants under class 3 (R302). -/
def takeTensor (x : Sel) (op : Nat) (y : Nat × Bool) (s : State) : Got (Nat × List Byte) :=
  match s.img.tensor? y.1 with
  | none => (some (y.1, []), s)
  | some t =>
    chain (if y.2 && s.img.streamed x.e.die t then takeWindow x op t (t.tiles + 1) s
      else chain (gather (takeGranule x op (if y.2 then 2 else 3)) (s.img.placeTensor y.2 x.e.die t) s)
        fun bs s => (some bs.flatten, s))
      fun b s => (some (y.1, t.cut b), s)

/-- Tensors that a record reads, and whether each is its weight. `kv`: key/value state stands for the weight (R72). -/
def Rec.tensors (r : Rec) (kv : Bool) : List (Nat × Bool) :=
  let f := field r.bytes
  match r.cls with
  | 0 => if kv then [] else [(f 20 2, true)]
  | 1 => if f 8 1 = 0x10 && f 14 2 ≠ 0xFFFF || f 8 1 = 0x11 || f 8 1 = 0x12 then [(f 14 2, false)] else []
  | 3 => if f 8 1 % 8 ≤ 1 then [(f 32 2, false)] ++ (if f 34 2 = 0xFFFF then [] else [(f 34 2, false)]) else []
  | _ => []

/-- The rescale table of a matrix product, from the die's own copy (R147, class 3 of R302); free values where its region has
none. -/
def takeTable (x : Sel) (op : Nat) (r : Rec) (s : State) : Got (List W32) :=
  if !r.usesTable then (some [], s)
  else
    let n := field r.bytes 12 4
    match s.img.tableAt x.e.die (field r.bytes 22 2) with
    | some a => chain (takeBytes x op 3 a (4 * n) s) fun b s => (some (wordsLE b), s)
    | none => let (l, s) := freeWords n s; (some l, s)

/-! ## Recurrent state (R91, R94, R98) -/

/-- A state word of a quad of the device, for a stream, where it is not resident (R91). -/
def cellKey (id quad word : Nat) : Nat := (id * 256 + quad) * 65536 + word
/-- A record of a program, for a stream. -/
def ctxKey (id prog record : Nat) : Nat := (id * 65536 + prog) * 65536 + record
/-- A row of a stage's state RAM. -/
def seatKey (stage slot : Nat) : Nat := stage * 4096 + slot

/-- An operand in state RAM. -/
def inRam (o : Nat) : Bool := o / 2 ^ 14 == 1
def Rec.usesRam (r : Rec) : Bool :=
  let f := field r.bytes
  r.isCell || (r.cls == 1 && (inRam (f 10 2) || inRam (f 12 2) || inRam (f 14 2))) || (r.cls == 2 && inRam (f 32 2))
/-- The quads of a stage whose state RAM its programs use. -/
def Image.ramUnits (m : Image) (stage : Nat) : List Nat :=
  ((m.programs.filter (·.stage == stage)).flatMap fun p => (p.recs.filter Rec.usesRam).map (·.unit)).eraseDups
/-- The state words of one row of a stage: quad and word. -/
def Image.ramWords (m : Image) (g : StageEnt) : List (Nat × Nat) :=
  (m.ramUnits g.stage).flatMap fun u => (List.range g.stateWords).map fun w => (u, w)

/-- Tier-3 address of a lane of a state word of a stage's row (R188). -/
def ramAddr (g : StageEnt) (slot unit word lane : Nat) : Nat :=
  (g.die * 36 + unit) * 0x20000 + lane * 0x800 + (slot * g.stateWords + word) * 4

/-- The 64 lanes of a state word, under a reader class. -/
def readLanes (cls stream : Nat) (g : StageEnt) (slot unit word : Nat) (s : State) : List W32 × State :=
  (List.range 64).foldl (fun (acc : List W32 × State) lane =>
    let a := ramAddr g slot unit word lane
    let (l, s) := readPair cls stream 3 a acc.2
    (acc.1 ++ [(l[a / 4 % 2]?).getD 0], s)) ([], s)

/-- Write lanes of a state word from lane 0 on. -/
def writeLanes (g : StageEnt) (slot unit word : Nat) (vs : List W32) (s : State) : State :=
  s.each vs.zipIdx fun s (v, lane) => writeMem 3 (ramAddr g slot unit word lane) (leBytes 4 v.toNat) s

/-- The cell record of a program of the stage that holds a state word of a quad, with its first word. -/
def Image.cellAt (m : Image) (stage unit word : Nat) : Option (Rec × Nat) :=
  (m.programs.filter (·.stage == stage)).findSome? fun g => (g.recs.filter fun r => r.isCell && r.unit == unit).findSome? fun r =>
    let dst := field r.bytes 10 2 % 2 ^ 14
    if dst ≤ word && decide (word < dst + ceilDiv (m.cellSize g r) 64) then some (r, dst) else none

/-- The lanes of a state word among the elements of its cell's INIT tensor; +0 past them. -/
def initLanes (dst word : Nat) (es : List W32) : List W32 := (List.range 64).map fun i => el es ((word - dst) * 64 + i)

/-- A state word at INIT, its tensor read and checked for a step (R91, R320). -/
def fetchInit (x : Sel) (op unit word : Nat) (s : State) : Got (List W32) :=
  match s.img.cellAt x.stage unit word with
  | none => (some (List.replicate 64 0), s)
  | some (r, dst) =>
    match s.img.tensor? (field r.bytes 16 2) with
    | none => (some (List.replicate 64 0), s)
    | some t => chain (takeTensor x op (t.tid, false) s) fun b s => (some (initLanes dst word (t.values b.2)), s)

/-- A state word of a stream at INIT, as memory holds the tensor. -/
def State.initWord (s : State) (m : Image) (stage unit word : Nat) : List W32 :=
  match m.cellAt stage unit word with
  | none => List.replicate 64 0
  | some (r, dst) => match m.tensor? (field r.bytes 16 2) with
    | none => List.replicate 64 0
    | some t => initLanes dst word (t.values ((s.tier t.tier).deliver t.codes t.codesLen))

/-- The row of a stage's state RAM that holds a stream. -/
def State.seatOf (s : State) (stage id : Nat) : Option Nat :=
  ((s.resident.find? fun e => e.1 / 4096 == stage && e.2 == id + 1)).map (·.1 % 4096)

/-- Bellows parks the words of the row that a stage's state RAM holds (R91): an uncorrectable one halts its channel and the
stream aborts (R302, class 6). -/
def parkSeat (g : StageEnt) (slot : Nat) (s : State) : State :=
  let id := cget 0 s.resident (seatKey g.stage slot) - 1
  if cget 0 s.resident (seatKey g.stage slot) = 0 then s
  else
    let s := s.each (s.img.ramWords g) fun s (u, w) =>
      let addr := ramAddr g slot u w 0
      let bad := (List.range 64).any fun lane => !((s.tier 3).outcome (ramAddr g slot u w lane / 8)).ok
      let (l, s) := readLanes 6 id g slot u w s
      let s := if bad then abortStream id 3 (BitVec.ofNat 32 (64 * g.die)) 3 (haltChannel (64 * g.die) 3 (tierAddr 3 addr) id 0xFFFF s) else s
      { s with cells := cput [] (cellKey id (g.die * 36 + u) w) l s.cells }
    { s with resident := cput 0 (seatKey g.stage slot) 0 s.resident }

/-- The state of a step's row comes into the row's place in state RAM, with its bits unchanged; INIT where nothing is kept
(R91). -/
def seatRow (x : Sel) (slot id : Nat) (s : State) : Got Unit :=
  if cget 0 s.resident (seatKey x.stage slot) = id + 1 then (some (), s)
  else
    let s := match s.seatOf x.stage id with | some k => parkSeat x.e k s | none => s
    let s := parkSeat x.e slot s
    chain (gather (fun (y : Nat × Nat) s =>
      let key := cellKey id (x.e.die * 36 + y.1) y.2
      let put := fun (l : List W32) (s : State) => (some (), writeLanes x.e slot y.1 y.2 l { s with cells := cput [] key [] s.cells })
      match cget [] s.cells key with
      | [] => chain (fetchInit x 0 y.1 y.2 s) put
      | l => put l s) (s.img.ramWords x.e) s) fun _ s =>
        (some (), { s with resident := cput 0 (seatKey x.stage slot) (id + 1) s.resident })

/-- The mark's position in a row. -/
def Row.mark (row : Row) : Option Nat := if row.rst then some row.rstOff else none

/-- A row's carried lanes of a state word, and after them, in a marked row, its INIT lanes. -/
def takeWord (x : Sel) (op slot : Nat) (row : Row) (env : RowEnv) (unit word : Nat) (s : State) : Got RowEnv :=
  let key := unit * 65536 + word
  if !(cget [] env.carried key).isEmpty then (some env, s)
  else chain (if row.rst then fetchInit x op unit word s else (some [], s)) fun init s =>
    let (old, s) := if row.mark = some 0 then (init, s) else readLanes 4 row.stream x.e slot unit word s
    (some { env with carried := cput [] key (old ++ init) env.carried }, s)

/-- Consecutive state words. -/
def takeRam (x : Sel) (op slot : Nat) (row : Row) (unit word : Nat) : Nat → RowEnv → State → Got RowEnv
  | 0, env, s => (some env, s)
  | n + 1, env, s => chain (takeRam x op slot row unit word n env s) fun env s => takeWord x op slot row env unit (word + n) s

/-- A state word as a position of the row sees it: what the step has written there, else the carried lanes, or INIT from the
mark on (R98). -/
def RowEnv.word (env : RowEnv) (row : Row) (key p : Nat) : List W32 :=
  match cget [] env.words key with
  | [] =>
    let l := cget [] env.carried key
    match row.mark with
    | some o => if o ≤ p then l.drop 64 else l.take 64
    | none => l.take 64
  | l => (l.drop (64 * p)).take 64

/-- The first n elements from a state word on, position after position. -/
def RowEnv.elems (env : RowEnv) (row : Row) (positions unit word n : Nat) : List W32 :=
  (List.range positions).flatMap fun p =>
    ((List.range (ceilDiv n 64)).flatMap fun i => env.word row (unit * 65536 + word + i) p).take n

/-- Write one vector of elements per position from a state word on; lanes past them keep their value. -/
def RowEnv.putElems (env : RowEnv) (row : Row) (unit word : Nat) (vs : List (List W32)) : RowEnv :=
  let n := (vs.map List.length).foldl max 0
  (List.range (ceilDiv n 64)).foldl (fun env i =>
    let key := unit * 65536 + word + i
    let lanes := vs.zipIdx.flatMap fun (v, p) =>
      let new := (v.drop (64 * i)).take 64
      new ++ (env.word row key p).drop new.length
    { env with words := cput [] key lanes env.words }) env

/-! ## Histories and delayed-scale records (R44, R110) -/

/-- First byte of what a record keeps for a stream in a carved region. -/
def State.keptFor (s : State) (kind die stage prog op id : Nat) : Option Nat :=
  s.img.keptAt die kind stage prog op (s.stream id).place

/-- A stream's history of a streaming record: H elements of each channel, oldest first; free values where its region does
not reach that far. -/
def takeHistory (x : Sel) (op : Nat) (r : Rec) (id : Nat) (s : State) : List W32 × State :=
  let c := field r.bytes 12 4
  let h := r.history
  if h = 0 then ([], s)
  else match s.keptFor 3 x.e.die x.stage x.g.prog op id with
    | none => freeWords (c * h) s
    | some a =>
      (List.range c).foldl (fun (acc : List W32 × State) ch =>
        let (l, s) := readPairs 5 id 0 ((List.range (ceilDiv h 2)).map fun i => a + ch * pad8 (4 * h) + 8 * i) acc.2
        (acc.1 ++ l.take h, s)) ([], s)

/-- Elements of a channel's history into its region. -/
def writeHistory (a : Nat) (r : Rec) (ws : List W32) (s : State) : State :=
  let h := r.history
  s.each (List.range (field r.bytes 12 4)) fun s c =>
    writeMem 0 (a + c * pad8 (4 * h)) (((ws.drop (c * h)).take h).flatMap fun v => leBytes 4 v.toNat) s

/-- A delayed-scale record as its region holds it: 16 maxima oldest first, the exponent before, whether a raise is in force and
its exponent, whether no step has used it yet. -/
def ScaleRec.bytes (a0 : W32) (eMin : Int) (r : ScaleRec) : List Byte :=
  let l := if r.maxima.isEmpty then List.replicate 16 a0 else r.maxima.reverse
  l.flatMap (fun v => leBytes 4 v.toNat) ++ [if r.maxima.isEmpty then BitVec.ofInt 8 eMin else r.ePrev, 0, 0, 0] ++
    (match r.eRaise with | some e => [1, e] | none => [0, 0]) ++ [if r.maxima.isEmpty then 1 else 0, 0]
def readScaleRec (b : List Byte) : ScaleRec :=
  if field b 70 1 = 1 then {} else
    { maxima := ((List.range 16).map fun i => BitVec.ofNat 32 (field b (4 * i) 4)).reverse
      ePrev := BitVec.ofNat 8 (field b 64 1), eRaise := if field b 68 1 = 1 then some (BitVec.ofNat 8 (field b 69 1)) else none }

/-- A stream's delayed-scale record (class 3 of R302). -/
def takeScaleRec (x : Sel) (op id : Nat) (s : State) : Got ScaleRec :=
  match s.keptFor 6 x.e.die x.stage x.g.prog op id with
  | some a => chain (takeBytes x op 3 a 72 s) fun b s => (some (readScaleRec b), s)
  | none => let (l, s) := freeWords 17 s; (some { maxima := l.take 16, ePrev := (el l 16).setWidth 8 }, s)

/-! ## Key/value state (R72, R98, R283, R316) -/

/-- The context position that a chunk position writes, and attends last (R98). -/
def Row.own (row : Row) (p : Nat) : Nat :=
  match row.mark with
  | some o => if o ≤ p then p - o else row.ctx + p
  | none => row.ctx + p
/-- The chunk position whose entry a context position is, as chunk position p sees it. -/
def Row.chunkAt (row : Row) (p q : Nat) : Option Nat :=
  match row.mark with
  | some o => if o ≤ p then some (o + q) else if row.ctx ≤ q then some (q - row.ctx) else none
  | none => if row.ctx ≤ q then some (q - row.ctx) else none

/-- Context positions that a chunk position attends: those up to its own, or those of its span that a ring member holds. -/
def kvAttends (k : KvRef) (row : Row) (p q : Nat) : Bool :=
  match k.span with
  | some (lo, n) => decide (lo ≤ q) && decide (q < lo + n)
  | none => decide (q ≤ row.own p)
/-- First context position, and the position after the last one, of an operand's key/value state. -/
def kvFirst (k : KvRef) : Nat := (k.span.map (·.1)).getD 0
def kvLast (k : KvRef) (row : Row) (positions : Nat) : Nat :=
  match k.span with
  | some (lo, n) => lo + n
  | none => (List.range positions).foldl (fun m p => max m (row.own p + 1)) 0

/-- Bytes at an offset of a chunk position's entry that the step itself has written. -/
def RowEnv.kvAt (env : RowEnv) (p off n : Nat) : Option (List Byte) :=
  (env.kv.find? fun e => e.1 == p && decide (e.2.1 ≤ off) && decide (off + n ≤ e.2.1 + e.2.2.length)).map fun e => slice (off - e.2.1) n e.2.2
/-- The bytes of a context position as chunk position p sees them: those of the step itself, else those of memory. -/
def RowEnv.entryAt (env : RowEnv) (row : Row) (mem : List (Nat × List Byte)) (off n p q : Nat) : List Byte :=
  match (row.chunkAt p q).bind fun p' => env.kvAt p' off n with
  | some b => b
  | none => ((mem.find? (·.1 = q)).map (·.2)).getD []

/-- Where a stream's key/value state begins: tier and address. -/
def State.kvBaseOf (s : State) (k : KvRef) (id : Nat) : Nat × Nat :=
  match k.hot with
  | some a => (0, a)
  | none => match s.plan? (s.stream id).plan.toNat with
    | some p => (1, s.partBase p.plan + ((s.stream id).area.getD 0) * p.area)
    | none => (1, 0)

/-- Granules of n bytes of a key/value entry under their headers: those of the position in which each begins (R316). -/
def kvGranules (tier base kv id a n : Nat) : List (Nat × Nat × Nat × Bool × Nat) :=
  (granulesOf a n).map fun g =>
    let o := 512 * g - base
    (tier, g, id, false, o / max 1 kv * ceilDiv kv 512 + o % max 1 kv / 512)

/-- The entry of a context position, as an array loads it as weights (class 2 of R302). -/
def takeEntryBytes (x : Sel) (op : Nat) (k : KvRef) (id n q : Nat) (s : State) : Got (Nat × List Byte) :=
  let (tier, base) := s.kvBaseOf k id
  let kv := ((s.plan? (s.stream id).plan.toNat).map (·.kvBytes)).getD 0
  let a := base + (q - kvFirst k) * kv + k.off
  chain (gather (takeGranule x op 2) (kvGranules tier base kv id a n) s) fun bs s => (some (q, slice (a % 512) n bs.flatten), s)

/-- Every entry of key/value state that a row's product reads from memory. -/
def takeKv (x : Sel) (op : Nat) (k : KvRef) (row : Row) (env : RowEnv) (positions n : Nat) (s : State) : Got (List (Nat × List Byte)) :=
  let qs := (List.range (kvLast k row positions)).filter fun q => (List.range positions).any fun p =>
    kvAttends k row p q && ((row.chunkAt p q).bind fun p' => env.kvAt p' k.off n).isNone
  gather (takeEntryBytes x op k row.stream n) qs s

end Sys2Proof.Machine
end

