-- ==== Sys2Proof/Machine/Context.lean ====
section
/-! DEFINITION. Parked contexts (R252 to R254, R287): PARK, RESUME, and the ends of a park and of a restore. -/

namespace Sys2Proof.Machine

/-! ## The records a plan's streams carry, in program order -/

/-- Program, record and its index. -/
def Image.planRecs (m : Image) (p : PlanEnt) : List (ProgEnt × Rec × Nat) :=
  (m.planProgs p).flatMap fun g => g.recs.zipIdx.map fun x => (g, x.1, x.2)
def Image.planRecsOf (m : Image) (p : PlanEnt) (f : Rec → Bool) : List (ProgEnt × Rec × Nat) :=
  (m.planRecs p).filter fun x => f x.2.1
/-- The cell's first state word, and the elements of it. -/
def Rec.dstWord (r : Rec) : Nat := field r.bytes 10 2 % 2 ^ 14

/-- A section padded with zeros (R252). -/
def padded (l : List Byte) : List Byte := slice 0 (pad512 l.length) l
def wordBytes (l : List W32) : List Byte := l.flatMap fun w => leBytes 4 w.toNat

/-! ## Firmware's descriptors (R184, R186, R189)

Firmware moves a context through the control queue of the first channel of the die whose spill pool the stream uses
(DESIGN CHOICE; notes/assumptions/69.md): one descriptor of role 2 (park) or 3 (restore), its block lists not shown. -/

/-- Tiles of a die's spill pool. -/
def Image.spillTiles (m : Image) (die : Nat) : Nat := ((m.sram.filter fun r => r.die == die && r.kind == 7).map (·.tiles)).sum
/-- The die whose pool a plan's streams use: that of its first stage. -/
def Image.spillDie (m : Image) (p : PlanEnt) : Nat := ((((m.planStages p).head?).bind m.stage?).map (·.die)).getD 0
/-- The channel that moves a plan's contexts. -/
def Image.ctxChannel (m : Image) (p : PlanEnt) : Nat := 64 * m.spillDie p

/-- The firmware descriptor of a stream's park or restore stands on a channel. -/
def Channel.moves (x : Channel) (role id : Nat) : Bool := x.control.any fun d => d.role == role && d.stream == id

/-- Firmware queues a park or restore, unless it is queued, the channel is halted, or its queue is full. -/
def queueFirmware (c role id : Nat) (s : State) : State :=
  let x := s.channel c
  if x.moves role id || x.state == .halted || 16 ≤ x.control.length then s
  else s.modChannel c fun x => { x with
    control := x.control ++ [{ role := role, stream := id, noStream := false, checked := true }] }

/-- The descriptor is at the head of a channel whose data queue has no unit it can start (R186). -/
def State.firmwareRuns (s : State) (c role id : Nat) : Bool :=
  let x := s.channel c
  ((x.control.head?).any fun d => d.role == role && d.stream == id) && x.state != .halted && !s.dataReady c

/-! ## Sections (R252, R253) -/

/-- Bellows reads part of a context under class 6: an uncorrectable word ends the descriptor with 0x03 and halts its channel
(R198). -/
def moveBytes (c id tier a n : Nat) (s : State) : Got (List Byte) :=
  match readFixed 6 id tier a n s with
  | (some b, s) => (some b, s)
  | (none, s) => (none, endHalted c (tierAddr tier a) id 0xFFFF s)

/-- Section 2 of one conversion: 16 maxima oldest first, the exponent before; free values where no region holds them. -/
def moveScale (c id : Nat) (x : ProgEnt × Rec × Nat) (s : State) : Got (List Byte) :=
  let (g, r, i) := x
  match (s.img.stage? g.stage).bind fun e => s.keptFor 6 e.die g.stage g.prog i id with
  | some a => chain (moveBytes c id 0 a 72 s) fun b s =>
      let k := readConv r.bytes
      (some ((readScaleRec b).bytes k.a0 k.eMin |>.take 68), s)
  | none => let (l, s) := freeWords 17 s; (some (wordBytes (l.take 16) ++ [(el l 16).setWidth 8, 0, 0, 0]), s)

/-- A state word that has not been resident yet: at INIT, its tensor read where the host wrote it (R91). -/
def moveInit (c id stage unit word : Nat) (s : State) : Got (List W32) :=
  match (s.img.cellAt stage unit word).bind fun y => (s.img.tensor? (field y.1.bytes 16 2)).map fun t => (y.2, t) with
  | none => (some (List.replicate 64 0), s)
  | some (dst, t) =>
    chain (gather (fun (y : Nat × Nat × Nat × Bool × Nat) => moveBytes c id y.1 (512 * y.2.1) 512) (s.img.placeTensor false 0 t) s)
      fun bs s => (some (initLanes dst word (t.values (t.cut bs.flatten))), s)

/-- The elements of a cell, in logical unit order (R252). -/
def moveCell (c id : Nat) (x : ProgEnt × Rec × Nat) (s : State) : Got (List Byte) :=
  let (g, r, _) := x
  match s.img.stage? g.stage with
  | none => (some [], s)
  | some e =>
    let n := s.img.cellSize g r
    chain (gather (fun w (s : State) =>
        match cget [] s.cells (cellKey id (e.die * 36 + r.unit) w) with
        | [] => moveInit c id e.stage r.unit w s
        | l => (some l, s)) ((List.range (ceilDiv n 64)).map (· + r.dstWord)) s) fun ls s =>
      (some (wordBytes (ls.flatten.take n)), s)

/-- The last class indices of a SAMPLE record; those that no draw has given yet are free values. -/
def moveFed (id : Nat) (x : ProgEnt × Rec × Nat) (s : State) : Got (List Byte) :=
  let (g, r, i) := x
  let n := field r.bytes 9 1
  match cget [] s.fed (ctxKey id g.prog i) with
  | [] => let (l, s) := freeWords n s; (some (l.flatMap fun v => leBytes 2 v.toNat), s)
  | l => (some ((List.range n).flatMap fun d => leBytes 2 ((l[d]?).getD 0)), s)

/-- A streaming history, channel by channel, oldest first; free values where no region holds it. -/
def moveHistory (c id : Nat) (x : ProgEnt × Rec × Nat) (s : State) : Got (List Byte) :=
  let (g, r, i) := x
  let chans := field r.bytes 12 4
  match (s.img.stage? g.stage).bind fun e => s.keptFor 3 e.die g.stage g.prog i id with
  | none => let (l, s) := freeWords (chans * r.history) s; (some (wordBytes l), s)
  | some a => chain (gather (fun k => moveBytes c id 0 (a + k * pad8 (4 * r.history)) (4 * r.history)) (List.range chans) s)
      fun bs s => (some bs.flatten, s)

/-- One section: what each record gives, padded with zeros. -/
def moveSection (f : ProgEnt × Rec × Nat → State → Got (List Byte)) (l : List (ProgEnt × Rec × Nat)) (s : State) : Got (List Byte) :=
  chain (gather f l s) fun bs s => (some bs.flatten, s)

/-- First address of the stream's key/value area (R282, R283). -/
def State.areaBase (s : State) (p : PlanEnt) (id : Nat) : Nat :=
  s.partBase p.plan + ((s.stream id).area.getD 0) * p.area

/-- An END entry. -/
def isEnd (e : List Byte) : Bool := entryOp e == 2

/-- Section 1. -/
def State.ctxHeader (s : State) (m : Image) (p : PlanEnt) (id : Nat) (total : Nat) : List Byte :=
  let x := s.stream id
  let es := s.entries id
  slice 0 512 ([0x4B, 0x49, 0x53, 0x54] ++ leBytes 2 1 ++ leBytes 2 es.length ++ leBytes 8 total ++ leBytes 8 p.name.toNat ++
    leBytes 4 (m.ctxLen p) ++ leBytes 4 p.kvBytes ++ leBytes 8 x.seed.toNat ++ leBytes 2 x.keyId.toNat ++
    leBytes 2 x.inp.stopClass.toNat ++ [x.inp.lookahead, BitVec.ofNat 8 p.rate] ++ leBytes 2 0x5303 ++
    leBytes 6 x.step.toNat ++ leBytes 2 64 ++ leBytes 4 x.ctxTokens.toNat ++
    leBytes 4 (x.voice.toNat + if es.any isEnd then 2 ^ 20 else 0) ++ leBytes 4 x.invT.toNat ++
    leBytes 4 0xFFFFFFFF ++ leBytes 4 x.inp.consumed)

/-- Bytes of a context (R252): CTX_BYTES, then the key/value state and the pending entries, each padded. -/
def ctxTotal (ctx kv tokens entries : Nat) : Nat := ctx + pad512 (tokens * kv) + pad512 (64 * entries)
def State.ctxSize (s : State) (m : Image) (p : PlanEnt) (id : Nat) : Nat :=
  ctxTotal (m.ctxLen p) p.kvBytes (s.stream id).ctxTokens.toNat (s.queue (qid id 0)).held

/-! ## Where a context may stand (R287) -/

/-- Bytes [a, a + n) of a tier's host region. -/
def State.inHost (s : State) (tier a n : Nat) : Bool :=
  (tier == 1 && decide (a + n ≤ if s.image.active.isSome then s.kvBase else kvTop)) ||
  (tier == 2 && !s.mem.used.isEmpty && decide (s.ddrHostBase ≤ a) && decide (a + n ≤ s.ddrCap))

/-- Tier and address of a STREAM_PARK value. -/
def parkTier (v : W64) : Nat := v.toNat / 2 ^ 62
def parkAddr (v : W64) : Nat := v.toNat % 2 ^ 48

/-! ## The spill pool (R197) -/

def State.modSpill (s : State) (die : Nat) (f : Spill → Spill) : State :=
  { s with bellows := { s.bellows with spill := cput {} die (f (cget {} s.bellows.spill die)) s.bellows.spill } }

/-- Ask for a pool tile: a free one, or a place in the line. -/
def askSpill (die id : Nat) (s : State) : State :=
  s.modSpill die fun p =>
    if p.holders.length < s.img.spillTiles die then { p with holders := p.holders ++ [id] }
    else { p with waiting := p.waiting ++ [id] }

def State.holdsSpill (s : State) (die id : Nat) : Bool := (cget {} s.bellows.spill die).holders.contains id

/-- A park or restore begins: it asks for a pool tile, and firmware queues its descriptor once it holds one (R184, R197). -/
def beginMove (p : PlanEnt) (role id : Nat) (s : State) : State :=
  let s := askSpill (s.img.spillDie p) id s
  if s.holdsSpill (s.img.spillDie p) id then queueFirmware (s.img.ctxChannel p) role id s else s

/-! ## PARK (R243, R252, R287) -/

def doPark (id : Nat) (s : State) : State :=
  let x := s.stream id
  match s.plan? x.plan.toNat with
  | none => streamErr id s
  | some p =>
    let t := parkTier x.park
    let a := parkAddr x.park
    let n := s.ctxSize s.img p id
    if cmdFree x && (x.state == .admitted || x.state == .stopped) && decide (p.seqGroup ≤ 1) && a % 512 == 0 &&
        s.inHost t a n && !s.lockedRegions.any (overlaps t a n) then
      beginMove p 2 id (s.modStream id fun x => { x with busy := some .park, ctxAddr := x.park })
    else streamErr id s

def execPark (r : Nat) (s : State) : Result := byReader .session r (fun s => doPark (s.selStream r) s) s

/-- The load, the pin, the area and the spill tile of a parked stream go back, and it is PARKED (R243, R283). -/
def becomeParked (id bytes : Nat) (s : State) : State :=
  let s := leaveSpill id (unpin id (releaseLoad id s))
  let s := dropCarried id (s.modQueue (qid id 0) fun q => { q with head := q.tail })
  let s := s.modStream id fun x => { x with
    state := .parked, busy := none, inp := { x.inp with placed := 0, consumed := 0 } }
  post id 1 6 0 0 s.tl.pos (BitVec.ofNat 32 bytes) (BitVec.ofNat 32 (bytes / 512)) s

/-- The stream's rows of state RAM leave it, under Bellows' reads (R91, R188). -/
def unseat (p : PlanEnt) (id : Nat) (s : State) : State :=
  s.each (s.img.planStages p) fun s n => match s.img.stage? n, s.seatOf n id with
    | some g, some slot => parkSeat g slot s
    | _, _ => s

/-- Sections 2 to 5, read by Bellows. -/
def moveSections (c id : Nat) (p : PlanEnt) (s : State) : Got (List Byte) :=
  let m := s.img
  chain (moveSection (moveScale c id) (m.planRecsOf p Rec.isDelayed) s) fun a s =>
    chain (moveSection (moveCell c id) (m.planRecsOf p Rec.isCell) s) fun b1 s =>
      chain (moveSection (moveFed id) (m.planRecsOf p Rec.isFed) s) fun b2 s =>
        chain (moveSection (moveHistory c id) (m.planRecsOf p Rec.isStream) s) fun h s =>
          chain (moveBytes c id 1 (s.areaBase p id) ((s.stream id).ctxTokens.toNat * p.kvBytes) s) fun kv s =>
            (some (padded a ++ padded (b1 ++ b2) ++ padded h ++ padded kv), s)

/-- The bytes of a context, as the channel's moved bytes count them (R202). -/
def noteContext (c n : Nat) (s : State) : State := s.modChannel c fun x => { x with bytesLive := satAdd x.bytesLive n }

/-- A park completes: the whole context is written with its tags, and the stream is PARKED. A word that cannot be read halts
the channel, which aborts the stream (R198, R199). -/
def execParkComplete (stream : Nat) (s : State) : Result :=
  let x := s.stream stream
  match s.plan? x.plan.toNat with
  | none => .next s
  | some p =>
    let c := s.img.ctxChannel p
    if x.busy != some .park || !s.holdsSpill (s.img.spillDie p) stream then .next s
    else
      let s := queueFirmware c 2 stream s
      if !s.firmwareRuns c 2 stream then .next s
      else
        let n := s.ctxSize s.img p stream
        let s := unseat p stream s
        if (s.stream stream).busy != some .park then
          done (s.modChannel c fun x => if x.state == .halted then { x with lastStatus := 3 } else x)
        else match moveSections c stream p s with
          | (none, s) => done s
          | (some b, s) =>
            let body := s.ctxHeader s.img p stream n ++ b ++ padded (s.entries stream).flatten
            let a := parkAddr x.ctxAddr
            let s := writeTagged (parkTier x.ctxAddr) a body x.keyId.toNat false (fun g => g - a / 512) s
            done (becomeParked stream n (endControl c 0 (noteContext c n s)))

/-! ## The checks of a restore (R254) -/

/-- A context header as it stands in memory, or none where a word of it cannot be read. -/
def readCtxHeader (v : W64) (s : State) : Option (List Byte) × State := readFixed 6 0xFFFF (parkTier v) (parkAddr v) 512 s

def ctxTotalLen (h : List Byte) : Nat := field h 8 8
def ctxVoice (h : List Byte) : Nat := field h 60 4 % 2 ^ 20
def ctxPending (h : List Byte) : Nat := field h 6 2

/-- Checks 1 and 2. -/
def ctxFormOk (h : List Byte) : Option Nat :=
  if h.take 4 ≠ [0x4B, 0x49, 0x53, 0x54] || field h 4 2 ≠ 1 then some 1
  else if ctxTotalLen h ≠ ctxTotal (field h 24 4) (field h 28 4) (field h 56 4) (ctxPending h) then some 2
  else none

/-- The number of the first failing check of R254, or none. -/
def ctxRefusal (h : List Byte) (p : PlanEnt) (depth : Nat) (s : State) : Option Nat :=
  match ctxFormOk h with
  | some n => some n
  | none =>
    if field h 16 8 ≠ p.name.toNat then some 3
    else if field h 24 4 ≠ p.ctxBytes || field h 28 4 ≠ p.kvBytes || field h 45 1 ≠ p.rate then some 4
    else if p.maxContext < field h 56 4 then some 5
    else if !s.profileOk (ctxVoice h) then some 6
    else if depth < ctxPending h then some 7
    else none

/-- The address rules of R287 for a restore, once the header's length is known to be what it implies. -/
def State.ctxPlace (s : State) (v : W64) (h : Option (List Byte)) : Bool :=
  let n := match h with
    | some b => if (ctxFormOk b).isNone then ctxTotalLen b else 512
    | none => 512
  parkAddr v % 512 == 0 && s.inHost (parkTier v) (parkAddr v) n

/-- A restore refused: event 0x0204 (R258). -/
def restoreRefused (id check : Nat) (v : W64) (s : State) : State :=
  record 0x0204 (BitVec.ofNat 32 id) (BitVec.ofNat 32 check) (BitVec.ofNat 32 (parkAddr v))
    (BitVec.ofNat 32 (parkAddr v / 2 ^ 32)) s

/-! ## Admission's holdings (R169, R173, R283) -/

/-- The lowest free area of a plan's part. -/
def State.freeArea (s : State) (p : PlanEnt) : Option Nat :=
  lowestFree (fun k => s.streams.any fun e => e.2.plan.toNat == p.plan && e.2.area == some k) p.maxStreams 0

/-- An admitted stream holds its share of load, its place in the admission order, its area, and its place in the carved
regions. -/
def takeLoad (id : Nat) (p : PlanEnt) (s : State) : State :=
  let area := s.freeArea p
  let s := s.setOnPlan p.plan (s.onPlan p.plan ++ [id])
  let place := lowestFree (fun k => s.streams.any fun e => e.2.holdsLoad && e.2.place == k) 65536 0
  { (s.modStream id fun x => { x with holdsLoad := true, order := s.orders, area := area, place := place.getD 0 }) with
    orders := s.orders + 1 }

/-- What a stream carries is as at its open: delayed-scale records with a0 throughout (R44), histories +0 (R110). -/
def initCarried (id : Nat) (p : PlanEnt) (s : State) : State :=
  let s := s.each (s.img.planRecsOf p Rec.isDelayed) fun s (g, r, i) =>
    match (s.img.stage? g.stage).bind fun e => s.keptFor 6 e.die g.stage g.prog i id with
    | some a => writeMem 0 a (({} : ScaleRec).bytes (readConv r.bytes).a0 (readConv r.bytes).eMin) s
    | none => s
  s.each (s.img.planRecsOf p Rec.isStream) fun s (g, r, i) =>
    match (s.img.stage? g.stage).bind fun e => s.keptFor 3 e.die g.stage g.prog i id with
    | some a => writeMem 0 a (List.replicate (r.keptLen 3) 0) s
    | none => s

/-! ## RESUME (R243, R254) -/

def doResume (id : Nat) (s : State) : State :=
  let x := s.stream id
  match s.plan? x.plan.toNat with
  | none => streamErr id s
  | some p =>
    if !(cmdFree x && x.state == .parked && s.ctxPlace x.park none) then streamErr id s
    else
      let (h, s) := readCtxHeader x.park s
      if !s.ctxPlace x.park h then streamErr id s
      else
        let fail := match h with
          | none => some 1
          | some b => ctxRefusal b p (s.queue (qid id 0)).depth s
        match fail with
        | some n => restoreRefused id n x.park (setResult id 0x15 n s)
        | none =>
          match admitRefusal p none s with
          | some c => setResult id c 0 s
          | none =>
            let b := h.getD []
            let s := takeLoad id p (setResult id 0 0 s)
            let s := moveVoice id (BitVec.ofNat 20 (ctxVoice b)) s
            beginMove p 3 id (s.modStream id fun x => { x with
              busy := some .resume, ctxAddr := x.park, ctxHead := b, keyId := BitVec.ofNat 16 (field b 40 2) })

def execResume (r : Nat) (s : State) : Result := byReader .session r (fun s => doResume (s.selStream r) s) s

/-! ## The end of a restore (R190, R252 to R254) -/

/-- Every granule of a context, checked under its headers: the bytes, or the first that fails. -/
def readContext (tier a key : Nat) : Nat → Nat → State → GRead × State
  | 0, _, s => (.ok [], s)
  | n + 1, i, s =>
    match readGranule 6 tier (a / 512 + i) key false i s with
    | (.ok b, s) =>
      match readContext tier a key n (i + 1) s with
      | (.ok c, s) => (.ok (b ++ c), s)
      | r => r
    | (.bad t g _, s) => (.bad t g i, s)
    | r => r

/-- Words of a byte string. -/
def wordAt (l : List Byte) (o : Nat) : W32 := BitVec.ofNat 32 (field l o 4)
def wordsAt (l : List Byte) (o n : Nat) : List W32 := (List.range n).map fun i => wordAt l (o + 4 * i)

/-- Load section 2. -/
def loadScales (id : Nat) (b : List Byte) (s : State) : List (ProgEnt × Rec × Nat) → Nat → State
  | [], _ => s
  | (g, _, i) :: t, o =>
    let q : ScaleRec := { maxima := (wordsAt b o 16).reverse, ePrev := BitVec.ofNat 8 (field b (o + 64) 1) }
    let s := match (s.img.stage? g.stage).bind fun e => s.keptFor 6 e.die g.stage g.prog i id with
      | some a => writeMem 0 a (q.bytes 0 0) s
      | none => s
    loadScales id b s t (o + 68)

/-- Load the cells of section 3, and then its class indices. -/
def loadCells (m : Image) (id : Nat) (b : List Byte) (s : State) : List (ProgEnt × Rec × Nat) → Nat → State
  | [], _ => s
  | (g, r, _) :: t, o =>
    let n := m.cellSize g r
    let s := match m.stage? g.stage with
      | some e =>
        let ws := wordsAt b o n
        s.each (List.range (ceilDiv n 64)) fun s i => { s with
          cells := cput [] (cellKey id (e.die * 36 + r.unit) (r.dstWord + i)) ((List.range 64).map fun k => el ws (64 * i + k)) s.cells }
      | none => s
    loadCells m id b s t (o + 4 * n)
def loadFed (id : Nat) (b : List Byte) (s : State) : List (ProgEnt × Rec × Nat) → Nat → State
  | [], _ => s
  | (g, r, i) :: t, o =>
    let n := field r.bytes 9 1
    let l := (List.range n).map fun d => field b (o + 2 * d) 2
    loadFed id b { s with fed := cput [] (ctxKey id g.prog i) l s.fed } t (o + 2 * n)

/-- Load section 4: no position of it counts as cleared by a reset. -/
def loadHistory (id : Nat) (b : List Byte) (s : State) : List (ProgEnt × Rec × Nat) → Nat → State
  | [], _ => s
  | (g, r, i) :: t, o =>
    let n := r.history * field r.bytes 12 4
    let s := match (s.img.stage? g.stage).bind fun e => s.keptFor 3 e.die g.stage g.prog i id with
      | some a => writeHistory a r (wordsAt b o n) s
      | none => s
    loadHistory id b s t (o + 4 * n)

/-- Entries pushed to the command queue, each granule touched tagged (R316, R317, R333). -/
def pushEntries (id : Nat) : List (List Byte) → State → State
  | [], s => s
  | e :: t, s =>
    let k := qid id 0
    let q := s.queue k
    let s := writeTagged 1 (q.base + 64 * (q.tail.toNat % q.depth)) e id false (fun g => g - q.base / 512) s
    pushEntries id t (s.modQueue k fun q => { q with tail := q.tail + 1 })

/-- The context's entries come first in the command queue, those submitted since the restore began after them (R230, R252). -/
def restoreEntries (id : Nat) (old : List (List Byte)) (s : State) : State :=
  let all := old ++ s.entries id
  pushEntries id all (s.modQueue (qid id 0) fun q => { q with tail := q.head })

/-- The context's sections take their place on the device (R252). `h`: its header as its check read it (R254). -/
def loadContext (id : Nat) (p : PlanEnt) (h b : List Byte) (s : State) : State :=
  let m := s.img
  let x := field h
  let kvLen := x 56 4 * p.kvBytes
  let o2 := 512
  let o3 := o2 + pad512 (68 * m.delayedCount p)
  let o4 := o3 + pad512 (m.recurrentLen p)
  let o5 := m.ctxLen p
  let o6 := o5 + pad512 kvLen
  let cells := m.planRecsOf p Rec.isCell
  let s := loadScales id b (dropCarried id s) (m.planRecsOf p Rec.isDelayed) o2
  let s := loadCells m id b s cells o3
  let s := loadFed id b s (m.planRecsOf p Rec.isFed) (o3 + 4 * (cells.map fun y => m.cellSize y.1 y.2.1).sum)
  let s := loadHistory id b s (m.planRecsOf p Rec.isStream) o4
  let at_ := s.areaBase p id
  let per := max 1 p.kvBytes
  let s := writeTagged 1 at_ (slice o5 kvLen b) id false
    (fun g => let o := 512 * g - at_; o / per * ceilDiv p.kvBytes 512 + o % per / 512) s
  let s := restoreEntries id ((List.range (x 6 2)).map fun i => slice (o6 + 64 * i) 64 b) s
  s.modStream id fun y => { y with
    seed := BitVec.ofNat 64 (x 32 8), invT := wordAt h 64
    step := BitVec.ofNat 48 (x 48 6), ctxTokens := wordAt h 56
    inp := { y.inp with stopClass := BitVec.ofNat 16 (x 42 2), lookahead := BitVec.ofNat 8 (x 44 1)
                        placed := x 72 4, consumed := x 72 4 } }

/-- A restore completes: a granule that fails its check ends its descriptor with 0x04 and aborts the stream with cause 0x06,
a word that cannot be read halts the channel, which aborts the stream; otherwise the stream continues from the context (R189,
R198, R243, R254, R321). -/
def execRestoreComplete (stream : Nat) (ups : List Upset) (s : State) : Result :=
  let x := s.stream stream
  match s.plan? x.plan.toNat with
  | none => .next s
  | some p =>
    let c := s.img.ctxChannel p
    if !(x.busy == some .resume || x.busy == some .openRestore) || !s.holdsSpill (s.img.spillDie p) stream then .next s
    else
      let s := queueFirmware c 3 stream s
      if !s.firmwareRuns c 3 stream then .next s
      else
        let n := ctxTotalLen x.ctxHead
        match readContext (parkTier x.ctxAddr) (parkAddr x.ctxAddr) x.keyId.toNat (n / 512) 0 (applyUpsets ups s) with
        | (.bad tier g i, s) =>
          done (abortStream stream 6 (BitVec.ofNat 32 i) 0 (tagConsumerFail tier g x.keyId.toNat false i 2 (endControl c 4 s)))
        | (.ue t bad, s) => done (endHalted c (tierAddr t bad) stream 0xFFFF s)
        | (.ok b, s) =>
          let s := leaveSpill stream (loadContext stream p x.ctxHead b (endControl c 0 (noteContext c n s)))
          let s := s.modStream stream fun y => { y with
            state := if x.busy == some .resume then .admitted else y.state, busy := none }
          let s := post stream 1 7 0 0 s.tl.pos (s.stream stream).ctxTokens 0 s
          done (progress stream (settleHead stream (s.queue (qid stream 0)).held s))

end Sys2Proof.Machine
end

