-- ==== Sys2Proof/Machine/Open.lean ====
section
/-! DEFINITION. Stream opens (R169, R239 to R241, R289, R366) and submissions to command queues (R230, R333). -/

namespace Sys2Proof.Machine

/-! ## Queue pool (R289) -/

/-- The lowest free run of n pages among the runs in use. -/
def firstFit (used : List (Nat × Nat)) (n : Nat) : Option Nat :=
  let fits := fun a => decide (a + n ≤ 2097152) && used.all fun x => decide (a + n ≤ x.1) || decide (x.1 + x.2 ≤ a)
  ((0 :: used.map fun x => x.1 + x.2).filter fits).foldl
    (fun best a => match best with | none => some a | some b => some (min a b)) none

/-- First pages of runs of the given lengths, each the lowest free one. -/
def allocRuns : List Nat → List (Nat × Nat) → Option (List Nat)
  | [], _ => some []
  | n :: t, used =>
    match firstFit used n with
    | none => none
    | some a => (allocRuns t ((a, n) :: used)).map (a :: ·)

/-- Queues an open creates: index, entries, pages (R229, R289). -/
def openQueues (cmdLog cplLog extra slots : Nat) (p : PlanEnt) : List (Nat × Nat × Nat) :=
  let pages := fun bytes => ceilDiv bytes 4096
  let cpl := fun i => (i, 2 ^ cplLog, pages (32 * 2 ^ cplLog))
  [(0, 2 ^ cmdLog, pages (64 * 2 ^ cmdLog)), cpl 1, (2, slots, pages (slots * p.granules * 512))] ++
    (List.range extra).map fun i => cpl (i + 3)

/-- Give the queues their storage, in index order. -/
def makeQueues (id : Nat) (qs : List (Nat × Nat × Nat)) (pages : List Nat) (s : State) : State :=
  s.each (qs.zip pages) fun s (q, page) =>
    s.modQueue (qid id q.1) fun _ => { page := page, pages := q.2.2, depth := q.2.1 }

/-! ## The request (R239, R241) -/

/-- 0x10: a field out of range or a reserved field nonzero. -/
def openMalformed (b : List Byte) : Bool :=
  let f := field b
  64 ≤ f 2 1 || 16 ≤ f 3 1 || 2 ^ 20 ≤ f 4 4 || 29 < f 27 1 || !fpFinitePos (BitVec.ofNat 32 (f 28 4)) ||
  f 32 1 < 4 || 16 < f 32 1 || f 33 1 < 4 || 16 < f 33 1 || f 34 1 < 2 || 64 < f 34 1 || f 35 5 ≠ 0 ||
  (f 40 8) / 2 ^ 50 ≠ 0

def openRestores (b : List Byte) : Bool := (field b 3 1).testBit 2
def openStarts (b : List Byte) : Bool := (field b 3 1).testBit 1
/-- CTX_ADDR in the form of STREAM_PARK. -/
def openCtx (b : List Byte) : W64 :=
  let v := field b 40 8
  BitVec.ofNat 64 (bitsOf v 48 2 * 2 ^ 62 + v % 2 ^ 48)

/-- The stream ID an open is given (0x11). -/
def openId (b : List Byte) (s : State) : Option Nat :=
  if (field b 3 1).testBit 3 then lowestFree (fun k => (s.stream k).isOpen) 65536 0
  else if (s.stream (field b 0 2)).isOpen then none else some (field b 0 2)

/-- An open that was accepted: its stream, plan, queues with their pages, profile, key stream ID. -/
structure Opened where
  id : Nat
  plan : PlanEnt
  queues : List (Nat × Nat × Nat)
  pages : List Nat
  voice : Nat
  keyId : W16
  /-- The header of the context it restores. -/
  head : List Byte

/-- The refusal of R240: code, DETAIL, POS, and the stream a refused restore names. -/
structure Refused where
  code : Nat
  detail : Nat := 0
  pos : Nat := 0
  id : Nat := 0

/-- The decision of an open in the order of R169 and R241. -/
def decideOpen (b : List Byte) (s : State) : (Refused ⊕ Opened) × State :=
  let f := field b
  let no := fun c => (.inl { code := c }, s)
  if s.image.state != .active then no 1
  else match s.plan? (f 2 1 % 64) with
    | none => no 0x10
    | some p =>
      let (h, t) := if openRestores b && !openMalformed b && s.ctxPlace (openCtx b) none then readCtxHeader (openCtx b) s else (none, s)
      if openMalformed b || (openRestores b && !(s.ctxPlace (openCtx b) none && t.ctxPlace (openCtx b) h)) then no 0x10
      else match openId b s with
        | none => no 0x11
        | some id =>
          let qs := openQueues (f 32 1) (f 33 1) (f 27 1) (f 34 1) p
          match allocRuns (qs.map (·.2.2)) ((s.queues.filter (·.2.pages != 0)).map fun e => (e.2.page, e.2.pages)) with
          | none => no 0x12
          | some pages =>
            let check := if openRestores b then
                match h with
                | none => some 1
                | some c => ctxRefusal c p (2 ^ f 32 1) s
              else none
            let voice := if openRestores b then ctxVoice (h.getD []) else f 4 4
            if s.sec.wiping || (!openRestores b && !s.profileOk voice) then no 0x13
            else if check.isNone && !s.placeable voice then no 0x14
            else match check with
              | some n => (.inl { code := 0x15, detail := n, id := id }, t)
              | none =>
                match admitRefusal p (if openStarts b then some (f 16 8) else none) t with
                | some c => (.inl { code := c, pos := if c = 5 then earliestStart p s.pos else 0 }, t)
                | none =>
                  let key := if openRestores b then field (h.getD []) 40 2 else id
                  (.inr { id := id, plan := p, queues := qs, pages := pages, voice := voice, keyId := BitVec.ofNat 16 key, head := h.getD [] }, t)

/-! ## The reply (R240) -/

def openReply (stream status detail : Nat) (pos : Nat) : Reply :=
  .ok (leBytes 2 stream ++ [BitVec.ofNat 8 status, BitVec.ofNat 8 detail, 0, 0, 0, 0] ++ leBytes 8 pos)

/-- A refused open changes nothing but the count, and the event of a refused restore (R258, R455). -/
def refuseOpen (b : List Byte) (r : Refused) (s : State) : Reply × State :=
  let s := s.modLive fun c => { c with refused := satInc c.refused }
  (openReply (field b 0 2) r.code r.detail r.pos, if r.code = 0x15 then restoreRefused r.id r.detail (openCtx b) s else s)

/-! ## Acceptance (R128, R241, R248, R283, R289) -/

/-- The stream is ADMITTED: its context, load, area, queues and pin; a fetch of its profile and a restore begin. -/
def admitStream (b : List Byte) (o : Opened) (s : State) : State :=
  let f := field b
  let seed := if (f 3 1).testBit 0 then s.rng.seed else BitVec.ofNat 64 (f 8 8)
  let s := s.modStream o.id fun _ => {
    state := .admitted, plan := BitVec.ofNat 6 o.plan.plan, keyId := o.keyId, seed := seed, opened := s.orders
    invT := BitVec.ofNat 32 (f 28 4), openPos := s.tl.pos
    startPos := if openStarts b then BitVec.ofNat 64 (f 16 8) else 0
    earliest := BitVec.ofNat 64 (earliestStart o.plan s.pos)
    inp := { lookahead := BitVec.ofNat 8 (f 26 1), stopClass := BitVec.ofNat 16 (f 24 2), cmdLog := f 32 1
             cplLog := f 33 1, extraCq := f 27 1, ringSlots := f 34 1 } }
  let s := makeQueues o.id o.queues o.pages (initCarried o.id o.plan (takeLoad o.id o.plan (dropCarried o.id s)))
  let s := moveVoice o.id (BitVec.ofNat 20 o.voice) s
  if openRestores b then
    beginMove o.plan 3 o.id (s.modStream o.id fun x => { x with busy := some .openRestore, ctxAddr := openCtx b, ctxHead := o.head })
  else s

/-- An admitted stream starts where the open gives a start (R170, R241). -/
def startOpened (b : List Byte) (id : Nat) (p : PlanEnt) (s : State) : State :=
  if openStarts b then progress id (joinRound id (beginRun id p (BitVec.ofNat 64 (field b 16 8)) s)) else s

def openedReply (b : List Byte) (id : Nat) : Reply := openReply id 0 0 (if openStarts b then field b 16 8 else 0)

/-! ## Rings (R365, R366) -/

/-- Ring index of a device in a plan's ring. -/
def State.ringIndex (s : State) (plan g : Nat) (a : W16) : Option Nat :=
  (List.range g).find? fun m => (s.ringWord plan m).getLsbD 31 && ringAddr (s.ringWord plan m) == a
/-- This device's member index in a ring stream of an owner (R365). -/
def State.memberOf (s : State) (plan g : Nat) (owner : W16) : Option Nat :=
  match s.ringSelf plan g, s.ringIndex plan g owner with
  | some i, some o => some ((i + g - o) % g)
  | _, _ => none

/-- The next member can be reached: over Kryter, or as a device beyond the board where no TRANSPORT 2 link of the plan needs
Kryter. -/
def ringReach (p : PlanEnt) (s : State) : Bool :=
  match s.ringNext p with
  | some (.kryter k) => (s.klink k).state == .up
  | some (.dev _) => !s.img.links.any fun e => e.transport == 2 && s.img.planUses p e.link
  | _ => false

/-- Pass an ADMIT to the next member, with this member's index as the sender's. -/
def passAdmit (plan g code : Nat) (stream owner : W16) (member : Nat) (imageId : W64) (s : State) : State :=
  match s.ringSelf plan g with
  | some i => sendRing (s.ringWord plan ((i + 1) % g)) (ringBytes 1 code stream owner plan member imageId 0 0) s
  | none => s

/-- An open is executed: refused, admitted, or, in a ring plan, put to the ring's members. -/
def runOpen (q : Req) (s : State) : Option Reply × State :=
  let b := q.payload
  if b.length ≠ 48 || q.arg ≠ 0 then (some (.err 5 0 0), s)
  else match decideOpen b s with
    | (.inl r, s) => let (y, s) := refuseOpen b r s; (some y, s)
    | (.inr o, s) =>
      if o.plan.seqGroup ≤ 1 then
        let s := s.modLive fun c => { c with opens := satInc c.opens }
        (some (openedReply b o.id), startOpened b o.id o.plan (admitStream b o s))
      else if (s.ringSelf o.plan.plan o.plan.seqGroup).isNone || !ringReach o.plan s then
        let (y, s) := refuseOpen b { code := 2 } s
        (some y, s)
      else
        let s := admitStream b o s
        let s := s.modKl fun k => { k with waits := k.waits ++ [⟨o.id, q⟩] }
        (none, passAdmit o.plan.plan o.plan.seqGroup 0 (BitVec.ofNat 16 o.id) s.eth.devAddr 0 s.img.id s)

def execStreamOpen (q : Req) (s : State) : Result := done (serveOpt 0x30 q (runOpen q) s)

/-- The stream leaves with everything its open gave it, and becomes FREE without a completion. -/
def freeStream (id : Nat) (s : State) : State :=
  let s := dropCarried id (leaveSpill id (dropDescs id (dropAttach id (releaseLoad id (releaseIfSingle id (maskRows id (unpin id s)))))))
  let s := { s with queues := s.queues.filter fun e => e.1 / 32 != id }
  s.modStream id fun x => { cmdErr := x.cmdErr, detail := x.detail, result := x.result }

/-- The ADMIT returns to the owner with the first refusal code, or 0: the open is answered (R366). -/
def finishRingOpen (id code : Nat) (s : State) : State :=
  match s.kl.waits.find? (·.stream = id), s.plan? (s.stream id).plan.toNat with
  | some w, some p =>
    let b := w.req.payload
    let s := s.modKl fun k => { k with waits := k.waits.filter (·.stream != id) }
    let late := if code = 0 && openStarts b && (s.stream id).state == .admitted then startRefusal p (field b 16 8) s.pos else none
    let code := late.getD code
    if code = 0 then
      let s := s.modLive fun c => { c with opens := satInc c.opens }
      let s := { (s.modStream id fun x => { x with opened := s.orders }) with orders := s.orders + 1 }
      let s := if (s.stream id).state == .admitted then startOpened b id p s else s
      answer 0x30 w.req (openedReply b id) s
    else
      let s := sendRingAll p.plan p.seqGroup (ringBytes 3 0 (BitVec.ofNat 16 id) s.eth.devAddr p.plan 0 s.img.id 0 0) s
      let (y, s) := refuseOpen b { code := code, pos := if code = 5 then earliestStart p s.pos else 0 } (freeStream id s)
      answer 0x30 w.req y s
  | _, _ => s

/-! ## SUBMIT (R230, R318, R333) -/

/-- What is left of the interval [x.1, x.2) without a run given as address and length. -/
def without (r x : Nat × Nat) : List (Nat × Nat) :=
  [(x.1, min x.2 r.1), (max x.1 (r.1 + r.2), x.2)].filter fun y => y.1 < y.2

/-- The bytes that a message does not write of the granules it touches, read by the ingress endpoint (reader class 7): false
where one cannot be read (R318). `runs`: what it writes, as addresses and lengths. -/
def ingressRest (tier : Nat) (runs : List (Nat × Nat)) (s : State) : Bool × State :=
  let gs := (runs.flatMap fun r => granulesOf r.1 r.2).eraseDups
  let parts := gs.flatMap fun g => runs.foldl (fun l r => l.flatMap (without r)) [(512 * g, 512 * g + 512)]
  parts.foldl (fun (acc : Bool × State) x =>
    match readFixed 7 0xFFFF tier x.1 (x.2 - x.1) acc.2 with
    | (some _, s) => (acc.1, s)
    | (none, s) => (false, s)) (true, s)

/-- Where the n entries of a submission would stand: at most two runs of addresses. -/
def entryRuns (q : Queue) (n : Nat) : List (Nat × Nat) :=
  let i := q.tail.toNat % q.depth
  let k := min n (q.depth - i)
  [(q.base + 64 * i, 64 * k)] ++ if k < n then [(q.base, 64 * (n - k))] else []

/-- Entries of the context that an open restores, which take their places in the command queue when the restore ends (R254). -/
def Stream.restoring (x : Stream) : Nat := if x.busy == some .openRestore then ctxPending x.ctxHead else 0

/-- States in which a stream takes submissions (R230). -/
def takesEntries (x : Stream) : Bool :=
  (x.state == .admitted || x.state == .running || x.state == .draining || x.state == .stopped) && x.busy != some .park

def runSubmit (q : Req) (s : State) : Reply × State :=
  let k := q.arg.toNat
  let id := k / 32
  let n := q.payload.length / 64
  let x := s.queue k
  if 2 ^ 21 ≤ k || q.payload.length % 64 ≠ 0 || n = 0 || 128 < n then (.err 5 0 0, s)
  else if k % 32 ≠ 0 || !x.present || !takesEntries (s.stream id) then (.err 10 0 0, s)
  else if x.depth < x.held + n + (s.stream id).restoring then (.err 11 0 0, s)
  else
    let (ok, s) := ingressRest 1 (entryRuns x n) s
    if !ok then (.err 9 0 0, ingressBad s)
    else
      let s := pushEntries id ((List.range n).map fun i => slice (64 * i) 64 q.payload) s
      (.ok [], progress id (settleHead id (s.queue k).held s))

def execSubmit (q : Req) (s : State) : Result := done (serve 0x31 q (runSubmit q) s)

end Sys2Proof.Machine
end

