-- ==== Sys2Proof/Machine/Rings.lean ====
section
/-! DEFINITION. Messages of device links (R353, R366 to R370): RING, TILE and SIGNAL, over Kryter or Ethernet. -/

namespace Sys2Proof.Machine

/-! ## RING messages (R366 to R368) -/

/-- The part of a ring stream an owner and a stream ID name: the owner's stream itself, or a ring stream. -/
def State.ringPart (s : State) (owner stream : W16) : Option Nat :=
  if owner = s.eth.devAddr then (if (s.stream stream.toNat).isOpen then some stream.toNat else none)
  else (s.streams.find? fun e => e.2.isOpen && (e.2.ring.any fun o => o.owner == owner && o.stream == stream)).map (·.1)

/-- A member's decision of an ADMIT (R366): the refusal code, or the stream ID and member index. -/
def decideMember (owner : W16) (plan sender : Nat) (imageId : W64) (s : State) : Nat ⊕ (PlanEnt × Nat × Nat) :=
  if s.image.state != .active then .inl 1
  else match s.plan? plan with
    | none => .inl 2
    | some p =>
      match s.memberOf p.plan p.seqGroup owner with
      | none => .inl 2
      | some j =>
        if s.img.id ≠ imageId || p.seqGroup ≤ 1 || j ≠ sender + 1 || !ringReach p s then .inl 2
        else match lowestFree (fun k => (s.stream k).isOpen) 65536 0 with
          | none => .inl 0x11
          | some id =>
            match admitRefusal p none s with
            | some c => .inl c
            | none => .inr (p, id, j)

/-- A member admits the ring stream: its load and area, no queues, no profile (R366, R368). -/
def admitMember (owner stream : W16) (p : PlanEnt) (id j : Nat) (s : State) : State :=
  let s := s.modStream id fun _ => {
    state := .admitted, plan := BitVec.ofNat 6 p.plan, keyId := stream, openPos := s.tl.pos, opened := s.orders
    ring := some { owner := owner, stream := stream, member := j } }
  initCarried id p (takeLoad id p (dropCarried id s))

/-- Members of a plan's ring: SEQ_GROUP of the plan, and where the active image has no such plan, those written from index 0
on. -/
def State.ringSize (s : State) (plan : Nat) : Nat :=
  match s.plan? plan with
  | some p => p.seqGroup
  | none => ((List.range 64).takeWhile fun m => (s.ringWord plan m).getLsbD 31).length

/-- An ADMIT at a member: decided, and passed on with the first refusal code. -/
def ringAdmit (owner stream : W16) (plan sender code : Nat) (imageId : W64) (s : State) : State :=
  if owner = s.eth.devAddr then
    (if s.kl.waits.any (·.stream == stream.toNat) then finishRingOpen stream.toNat code s else s)
  else
    let pass := fun c (s : State) =>
      let g := s.ringSize plan
      passAdmit plan g c stream owner ((s.memberOf plan g owner).getD (sender + 1)) imageId s
    if code ≠ 0 then pass code s
    else match decideMember owner plan sender imageId s with
      | .inl c => pass c s
      | .inr (p, id, j) => pass 0 (admitMember owner stream p id j s)

/-- A RING message (R367, R368). -/
def ringMessage (m : List Byte) (s : State) : State :=
  let f := field m
  let stream : W16 := BitVec.ofNat 16 (f 2 2)
  let owner : W16 := BitVec.ofNat 16 (f 4 2)
  if m.length ≠ 24 then s else
    match f 0 1 with
    | 1 => ringAdmit owner stream (f 6 1) (f 7 1) (f 1 1) (BitVec.ofNat 64 (f 8 8)) s
    | 2 =>
      match s.ringPart owner stream with
      | some id =>
        if abortable (s.stream id).state then abortHere id (f 1 1) (BitVec.ofNat 32 (f 16 4)) (BitVec.ofNat 32 (f 20 4)) s
        else s
      | none => s
    | 3 =>
      match s.ringPart owner stream with
      | some id => if (s.stream id).ring.isSome then freeStream id s else s
      | none => s
    | _ => s

/-- The lease of a ring stream passes without a tile or RING message (R368). -/
def execRingLeaseExpiry (stream : Nat) (s : State) : Result :=
  if (s.stream stream).isOpen && (s.stream stream).ring.isSome then done (freeStream stream s) else .next s

/-! ## Tiles and signals (R353, R362, R371) -/

/-- A link of the active image that travels between devices. -/
def State.devLink? (s : State) (l : Nat) : Option LinkEnt :=
  (s.img.link? l).bind fun e => if e.transport = 2 || e.transport = 3 then some e else none

/-- A tile message arrives whole. -/
def takeTile (src : Peer) (m : List Byte) (s : State) : State :=
  let f := field m
  let n := f 6 1
  match s.devLink? (f 0 2) with
  | none => s
  | some e =>
    if n = 0 || 8 < n || m.length < 40 + 512 * n || e.buffers ≤ f 2 2 then s
    else
      let h := BitVec.ofNat 32 (f 4 2 * 65536 + f 2 2)
      let tags := (List.range n).map fun g => BitVec.ofNat 32 (f (8 + 4 * g) 4)
      arriveBuffer e h false src (writeTile e h (slice 40 (512 * n) m) tags s)

/-- One signal record: EMPTY, HANDLE, GAP or ADDR. -/
def takeSignal (src : Peer) (r : List Byte) (s : State) : State :=
  let arg : W32 := BitVec.ofNat 32 (field r 4 4)
  let kind := field r 0 1
  if kind = 4 then
    match src with
    | .kryter k => s.modKlink k fun x => { x with peerAddr := arg.setWidth 16 }
    | _ => s
  else match s.devLink? (field r 2 2) with
    | none => s
    | some e =>
      match kind with
      | 1 => creditBranch e (fun b => s.branchWay e.link b == some src) arg.toNat s
      | 2 => fillAll e.link (returnHandle e.link arg s).2
      | 3 => arriveBuffer e arg true src s
      | _ => s

/-- Signal records in order; a RING record is followed by the three that hold its message (R353). `asm`: what a RING message
still lacks its end of, from the flits before. -/
def takeRecords (src : Peer) : List (List Byte) → List Byte → State → List Byte × State
  | [], asm, s => (asm, s)
  | r :: t, asm, s =>
    if !asm.isEmpty then
      let m := asm ++ r
      if m.length < 32 then takeRecords src t m s else takeRecords src t [] (ringMessage (m.drop 8) s)
    else if field r 0 1 = 5 then takeRecords src t r s
    else takeRecords src t [] (takeSignal src r s)

/-- Records of a body. -/
def recordsIn (n : Nat) (b : List Byte) : List (List Byte) := (List.range n).map fun i => slice (8 * i) 8 b

/-! ## The messages' envelope (R331, R369, R370) -/

/-- The ring word of a device address. -/
def State.memberWord (s : State) (a : W16) : Option W32 :=
  (s.kl.ring.find? fun e => e.2.getLsbD 31 && ringAddr e.2 == a).map (·.2)

/-- What an MSEQ gap does (R370). `links`: the links concerned, none for RING. -/
def mseqGap (typ : Nat) (src : W16) (links : List Nat) (expected got : W32) (s : State) : State :=
  let s := s.modKl fun k => { k with gaps := satInc k.gaps }
  let s := fire 6 (record 0x0705 (src.setWidth 32) (BitVec.ofNat 32 (typ + links.head?.getD 0 * 65536)) expected got s)
  if typ = 0x52 then
    let (v, s) := s.takeFree
    let ids := (s.streams.filter fun e => e.2.isOpen && e.2.ring.any (·.owner == src)).map (·.1)
    s.each ids fun s id => abortStream id 3 0xFFFFFFFF (lo32 v) s
  else s.each links fun s l => haltChain l s

/-- A device-link message: over Kryter from an UP link, or over Ethernet after checks 4 to 6 and the MSEQ count. -/
def deviceMessage (typ : Nat) (via : Option Nat) (q : Req) (links : List Nat) (count : Nat) (f : Peer → State → State)
    (s : State) : State :=
  match via with
  | some k => if k < 7 && (s.klink k).state == .up && s.takesPart then f (.kryter k) s else s
  | none =>
    let bad := fun st => sendOut (.st (replyMsg (BitVec.ofNat 8 typ) q q.session (.err st 0 0))) (rxBad s)
    if !s.receives then s
    else if !forUs q.dstDev s then rxDrop s
    else if q.srcDev = 0xFFFE || !s.takesPart then bad 3
    else match s.memberWord q.srcDev with
      | none => bad 4
      | some w =>
        if q.session ≠ 0xFF then bad 4
        else
          let key := mseqKey q.srcDev count
          let expected := cget 0 s.kl.mseqRx key
          let got : W32 := BitVec.ofNat 32 (q.arg.toNat / 65536)
          let s := s.modKl fun k => { k with mseqRx := cput 0 key (got + 1) k.mseqRx }
          f (.dev w) (if got = expected then s else mseqGap typ q.srcDev links expected got s)

def execTile (via : Option Nat) (q : Req) (s : State) : Result :=
  let l := q.arg.toNat % 65536
  let ok := via.isSome || (q.arg.toNat / 2 ^ 48 == 0 && field q.payload 0 2 == l)
  done (deviceMessage 0x50 via q [l] l (fun src s => if ok then takeTile src q.payload s else s) s)

def execSignal (q : Req) (s : State) : Result :=
  let n := q.payload.length / 8
  let rs := recordsIn n q.payload
  let ok := q.payload.length % 8 == 0 && decide (1 ≤ n) && decide (n ≤ 1023)
  let links := ((rs.filter fun r => [1, 2, 3].contains (field r 0 1)).map fun r => field r 2 2).eraseDups
  done (deviceMessage 0x51 none q links 65536 (fun src s => if ok then s.each rs (fun s r => takeSignal src r s) else s) s)

/-- A RING message whose OP is the command's. -/
def ringCommand (op : Nat) (via : Option Nat) (q : Req) (s : State) : State :=
  deviceMessage 0x52 via q [] 65536 (fun _ s => if field q.payload 0 1 = op then ringMessage q.payload s else s) s

def execRingAdmit (via : Option Nat) (q : Req) (s : State) : Result := done (ringCommand 1 via q s)
def execRingAbort (via : Option Nat) (q : Req) (s : State) : Result := done (ringCommand 2 via q s)
def execRingClose (via : Option Nat) (q : Req) (s : State) : Result := done (ringCommand 3 via q s)

end Sys2Proof.Machine
end

