-- ==== Sys2Proof/Machine/Kryter.lean ====
section
/-! DEFINITION. Kryter links: flits, credits and retry (R351 to R355), link states (R356 to R358), tile messages, holds and
gaps (R360 to R362), the LINK block (R359, R364, R372). -/

namespace Sys2Proof.Machine

/-! ## Flits (R352) -/

def flitIdle : Nat := 0
def flitData : Nat := 1
def flitCtrl : Nat := 2
def flitInit : Nat := 3

/-- A flit: header, body padded to 246 bytes, CRC. -/
def flitBytes (typ : Nat) (first : Bool) (fseq ack : BitVec 12) (crdD crdC : Nat) (body : List Byte) : List Byte :=
  let h := typ + (if first then 16 else 0) + fseq.toNat * 2 ^ 8 + ack.toNat * 2 ^ 20 + crdD * 2 ^ 32 + crdC * 2 ^ 42
  let m := leBytes 6 h ++ slice 0 246 body
  m ++ leBytes 4 (crc32c m).toNat

/-- A flit with its ACK brought up to date. -/
def withAck (flit : List Byte) (ack : BitVec 12) : List Byte :=
  let h := field flit 0 6
  let m := leBytes 6 (h - bitsOf h 20 12 * 2 ^ 20 + ack.toNat * 2 ^ 20) ++ slice 6 246 flit
  m ++ leBytes 4 (crc32c m).toNat

/-- The CRC and TYPE of a flit pass (R352). -/
def flitPasses (b : List Byte) : Bool := (crc32c (b.take 252)).toNat == field b 252 4 && decide (field b 0 1 % 16 ≤ 3)

/-- A flit as received: its lane frames corrected, its CRC and TYPE passing (R351, R352). None: the flit fails. -/
def flitOf (bytes checks : List Byte) : Option (List Byte) := (flitOfLanes bytes checks).filter flitPasses

/-- A flit leaves on a link, each lane's bytes with their check bytes (R351). -/
def emitFlit (k : Nat) (b : List Byte) (s : State) : State := emit (.flit k b (laneChecks b)) s

/-- CTRL records as they go into a body from place `pos` on: the ARG of a RING record is the place in its body of the message's
first record, which follows it (R353). `left`: records of a message whose RING record went before. Answers the records and what
is then left. -/
def placeRings (pos : Nat) : Nat → List (List Byte) → List (List Byte) × Nat
  | left, [] => ([], left)
  | n + 1, r :: t => let (rs, left) := placeRings (pos + 1) n t; (r :: rs, left)
  | 0, r :: t =>
    if field r 0 1 = 5 then
      let (rs, left) := placeRings (pos + 1) 3 t
      ((slice 0 4 r ++ leBytes 4 ((pos + 1) % 30)) :: rs, left)
    else let (rs, left) := placeRings (pos + 1) 0 t; (r :: rs, left)

/-! ## Leaving UP (R356, R358) -/

/-- Links of the active image whose channel halts when Kryter link k fails: those whose peer is reached over it, but for
multicast producers. -/
def State.linksOver (s : State) (k : Nat) : List Nat :=
  (s.img.links.filter fun e =>
    (e.transport == 2 || e.transport == 3) &&
      ((s.kimg e.link).src == some (.kryter k) ||
        (e.mcast == 0 && (s.kimg e.link).branches.any fun b => s.branchWay e.link b == some (.kryter k)))).map (·.link)

/-- Live multicast branches over Kryter link k. -/
def State.branchesOver (s : State) (k : Nat) : List (LinkEnt × Nat) :=
  (s.img.links.filter fun e => e.mcast != 0 && (e.transport == 2 || e.transport == 3)).flatMap fun e =>
    ((s.kimg e.link).branches.filter fun b => b.live && s.branchWay e.link b == some (.kryter k)).map fun b => (e, b.pos)

/-- Channels halted. -/
def State.haltedCount (s : State) : Nat := (s.bellows.channels.filter fun e => e.2.state == .halted).length

/-- A link leaves UP for TRAINING, or for DISABLED (R356, R358, R374). -/
def leaveUp (k reason : Nat) (s : State) : State :=
  if (s.klink k).state != .up then s else
    let lost := s.linksOver k
    let drops := s.branchesOver k
    let before := s.haltedCount
    let s := s.modKlink k fun x => { x with
      state := if reason = 4 then .disabled else .training, reason := BitVec.ofNat 4 reason, leftUp := true
      retrains := satInc x.retrains, retry := [], oldest := 0, resend := 0, ctrlQ := [], sendQ := [], asm := []
      ringAsm := [], retD := 0, retC := 0, credD := 0, credC := 0, ringLeft := 0 }
    let s := s.modKl fun y => { y with imgs := cmap {} (fun _ x => { x with
      msgs := (x.msgs.map fun m => { m with ports := m.ports.filter (· != k) }).filter fun m => !m.ports.isEmpty }) y.imgs }
    let s := s.each lost fun s l => haltChain l s
    let s := s.each drops fun s x => fillAll x.1.link (dropBranch x.1 x.2 s)
    fire 6 (record 0x0702 (BitVec.ofNat 32 k) (BitVec.ofNat 32 reason) (BitVec.ofNat 32 (s.haltedCount - before))
      (lo32 s.tl.pos) s)

/-! ## Training (R357) -/

/-- The body of an INIT flit. -/
def State.initBody (s : State) : List Byte :=
  [BitVec.ofNat 8 s.kl.pos.toNat, 0] ++ leBytes 2 s.eth.devAddr.toNat ++ leBytes 2 imageMember ++
    [BitVec.ofNat 8 imageStepping, 0] ++ leBytes 2 1024 ++ [64]

/-- Which check of R357 an INIT body fails. -/
def initFails (k : Nat) (body : List Byte) (s : State) : Option Nat :=
  let peer := field body 2 2
  if field body 0 1 ≠ peerPosOf s.kl.pos k || field body 4 2 ≠ imageMember then some 5
  else if peer = s.eth.devAddr.toNat && peer ≠ 0xFFFF then some 6
  else none

/-- An INIT flit in TRAINING: the link enters UP, or DOWN (R357, R374). -/
def takeInit (k : Nat) (body : List Byte) (s : State) : State :=
  let pos := field body 0 1
  let peer : W16 := BitVec.ofNat 16 (field body 2 2)
  match initFails k body s with
  | some n =>
    let s := s.modKlink k fun x => { x with state := .down, reason := BitVec.ofNat 4 n }
    fire 6 (record 0x0703 (BitVec.ofNat 32 k) (BitVec.ofNat 32 n) (BitVec.ofNat 32 pos) (peer.setWidth 32) s)
  | none =>
    let s := s.modKlink k fun x => { x with
      state := .up, valid := true, peerAddr := peer, peerPos := BitVec.ofNat 3 pos
      fseq := 0, acked := 0xFFF, ack := 0xFFF, ackDirty := false, retry := [], oldest := 0, resend := 0
      credD := field body 8 2, credC := field body 10 1, retD := 0, retC := 0, ctrlQ := [], sendQ := [], asm := [], ringAsm := []
      ringLeft := 0 }
    fire 6 (record 0x0701 (BitVec.ofNat 32 k) (BitVec.ofNat 32 pos) (peer.setWidth 32) (lo32 s.tl.pos) s)

/-! ## Receiving (R353 to R355) -/

/-- Acknowledged flits leave the retry buffer. -/
def takeAck (a : BitVec 12) (x : KLink) : KLink :=
  if x.retry.any (·.1 = a) then
    let left := (x.retry.dropWhile (·.1 ≠ a)).drop 1
    { x with acked := a, retry := left, oldest := 0, resend := min x.resend left.length }
  else x

/-- The body of an accepted DATA flit joins its tile message, which is delivered once it is whole. -/
def takeData (k : Nat) (first : Bool) (body : List Byte) (s : State) : State :=
  let asm := if first then body else if (s.klink k).asm.isEmpty then [] else (s.klink k).asm ++ body
  let n := field asm 6 1
  if n = 0 || 8 < n then s.modKlink k fun x => { x with asm := [] }
  else if asm.length < 40 + 512 * n then s.modKlink k fun x => { x with asm := asm }
  else takeTile (.kryter k) asm (s.modKlink k fun x => { x with asm := [] })

/-- The records of an accepted CTRL flit. -/
def takeCtrl (k : Nat) (body : List Byte) (s : State) : State :=
  let rs := recordsIn 30 body
  let asm := (s.klink k).ringAsm
  let (asm, s) := takeRecords (.kryter k) rs asm s
  s.modKlink k fun x => { x with ringAsm := asm }

/-- A flit in UP: a passing one but an INIT, whose header carries no acknowledgement of this end's flits, gives its ACK; a DATA
or CTRL flit is accepted only in order, and returns a credit once it has been handled; credits come with accepted and IDLE
flits. -/
def takeFlit (k : Nat) (b : List Byte) (s : State) : State :=
  let h := field b 0 6
  let typ := h % 16
  let fseq : BitVec 12 := BitVec.ofNat 12 (bitsOf h 8 12)
  let body := slice 6 246 b
  if typ = flitInit then s else
  let s := s.modKlink k (takeAck (BitVec.ofNat 12 (bitsOf h 20 12)))
  let credit := fun (s : State) => s.modKlink k fun x => { x with
    credD := x.credD + bitsOf h 32 10, credC := x.credC + bitsOf h 42 6 }
  if typ = flitIdle then credit s
  else if fseq ≠ (s.klink k).ack + 1 then s.modKlink k fun x => { x with ackDirty := true }
  else
    let s := credit (s.modKlink k fun x => { x with ack := fseq, ackDirty := false })
    if typ = flitData then takeData k (h.testBit 4) body (s.modKlink k fun x => { x with retD := x.retD + 1 })
    else takeCtrl k body (s.modKlink k fun x => { x with retC := x.retC + 1 })

def execFlitReceive (k : Nat) (bytes checks : List Byte) (s : State) : Result :=
  let st := (s.klink k).state
  if 7 ≤ k || st == .disabled || st == .down then .next s
  else match flitOf bytes checks with
    | none => done (s.modKlink k fun x => { x with crcErr := satInc x.crcErr, ackDirty := true })
    | some b =>
      if st == .up then done (takeFlit k b s)
      else if field b 0 1 % 16 = flitInit then done (takeInit k (slice 6 246 b) s)
      else done s

/-! ## Sending (R353 to R355) -/

/-- A new DATA or CTRL flit: numbered, kept for retry, with the credits the link owes. -/
def sendNew (k typ : Nat) (first : Bool) (body : List Byte) (s : State) : State :=
  let x := s.klink k
  let d := min x.retD 1023
  let c := min x.retC 63
  let b := flitBytes typ first x.fseq x.ack d c body
  emitFlit k b (s.modKlink k fun x => { x with
    fseq := x.fseq + 1, retry := x.retry ++ [(x.fseq, b)], retD := x.retD - d, retC := x.retC - c
    credD := if typ = flitData then x.credD - 1 else x.credD, credC := if typ = flitCtrl then x.credC - 1 else x.credC
    dataLive := if typ = flitData then satInc x.dataLive else x.dataLive })

/-- The next flit of a link: INIT in TRAINING; in UP a replayed flit, else a CTRL or DATA flit where a credit and room in
the retry buffer allow one, else IDLE. -/
def sendFlit (k : Nat) (s : State) : State :=
  let x := s.klink k
  match x.state with
  | .training => emitFlit k (flitBytes flitInit false 0 0 0 0 s.initBody) s
  | .up =>
    match if x.resend = 0 then none else x.retry[x.retry.length - x.resend]? with
    | some (_, b) =>
      emitFlit k (withAck b x.ack) (s.modKlink k fun x => { x with
        resend := x.resend - 1, dataLive := if field b 0 1 % 16 = flitData then satInc x.dataLive else x.dataLive })
    | none =>
      let room := decide (x.retry.length < 1024)
      if room && !x.ctrlQ.isEmpty && x.credC != 0 then
        let (rs, left) := placeRings 0 x.ringLeft (x.ctrlQ.take 30)
        sendNew k flitCtrl false rs.flatten (s.modKlink k fun x => { x with ctrlQ := x.ctrlQ.drop 30, ringLeft := left })
      else match x.sendQ with
        | b :: t =>
          if room && x.credD != 0 then
            sendNew k flitData ((b.head?.getD 0) != 0) (b.drop 1) (s.modKlink k fun x => { x with sendQ := t })
          else idle k s
        | [] => idle k s
  | _ => s
where
  /-- An IDLE flit with the ACK and the credits the link owes. -/
  idle (k : Nat) (s : State) : State :=
    let x := s.klink k
    let d := min x.retD 1023
    let c := min x.retC 63
    emitFlit k (flitBytes flitIdle false 0 x.ack d c []) (s.modKlink k fun x => { x with retD := x.retD - d, retC := x.retC - c })

def execFlitSend (k : Nat) (s : State) : Result := if k < 7 then done (sendFlit k s) else .next s

/-- A body of a tile message, its first byte telling the first (FIRST). -/
def tileBodies (m : List Byte) : List (List Byte) :=
  (chunksOf 246 m).zipIdx.map fun (b, i) => (if i = 0 then 1 else 0) :: b

/-- The next image link in round-robin order of LINK ID starts a tile message on a Kryter link (R360). -/
def startTileMessage (k : Nat) (s : State) : State :=
  let x := s.klink k
  let ready := (s.kl.imgs.filter fun e => e.2.msgs.any fun m => m.ports.contains k).map (·.1)
  let next := (ready.find? fun l => decide (x.lastLink < l)).orElse fun _ => ready.head?
  match next with
  | none => s
  | some l =>
    match (s.kimg l).msgs.find? fun m => m.ports.contains k with
    | none => s
    | some m =>
      let rest := (s.kimg l).msgs.map fun y =>
        if y.buffer = m.buffer && y.lap = m.lap then { y with ports := y.ports.filter (· != k) } else y
      let s := s.modKimg l fun y => { y with msgs := rest.filter fun m => !m.ports.isEmpty }
      s.modKlink k fun x => { x with sendQ := tileBodies (tileBytes m), lastLink := l }

def execTileMessageSend (k : Nat) (s : State) : Result :=
  if k < 7 && (s.klink k).state == .up && (s.klink k).sendQ.isEmpty then done (startTileMessage k s) else .next s

/-! ## Limits (R355 to R357) -/

/-- 1,024 cc pass without ACK advancing: a replay from the oldest unacknowledged flit, or, as the third one, the link leaves
UP for reason 1. -/
def execReplayTimeout (k : Nat) (s : State) : Result :=
  let x := s.klink k
  if 7 ≤ k || x.state != .up || x.retry.isEmpty then .next s
  else if 2 ≤ x.oldest then done (leaveUp k 1 s)
  else done (s.modKlink k fun x => { x with replays := satInc x.replays, oldest := x.oldest + 1, resend := x.retry.length })

/-- A class has had flits waiting and no credit for 4,096 cc: reason 2. -/
def execCreditTimeout (k : Nat) (data : Bool) (s : State) : Result :=
  let x := s.klink k
  let stuck := if data then !x.sendQ.isEmpty && x.credD == 0 else !x.ctrlQ.isEmpty && x.credC == 0
  if k < 7 && x.state == .up && stuck then done (leaveUp k 2 s) else .next s

def execLaneLockLoss (k : Nat) (s : State) : Result :=
  if k < 7 && (s.klink k).state == .up then done (leaveUp k 3 s) else .next s

/-- 10 ms of TRAINING pass: DOWN. The spec gives this way no REASON, which keeps its value. -/
def execTrainingTimeout (k : Nat) (s : State) : Result :=
  if k < 7 && (s.klink k).state == .training then done (s.modKlink k fun x => { x with state := .down }) else .next s

def execTrainingRetry (k : Nat) (s : State) : Result :=
  if k < 7 && (s.klink k).state == .down then done (s.modKlink k fun x => { x with state := .training }) else .next s

/-- KL_CTRL (R356, R372). -/
def writeKlCtrl (v : W32) (s : State) : State :=
  let s := s.each (List.range 7) fun s k =>
    if v.getLsbD k then
      (if (s.klink k).state == .disabled then s.modKlink k fun x => { x with state := .training } else s)
    else (leaveUp k 4 s).modKlink k fun x => { x with state := .disabled }
  s.modKl fun y => { y with en := v.setWidth 7 }

def execKlCtrl (r : Nat) (v : W32) (s : State) : Result := byReader .session r (fun s => writeKlCtrl v s) s

/-! ## Holds and gaps (R361, R362) -/

/-- HOLD cc pass: the live branches that have not released the buffer are dropped, and it is filled. -/
def execHoldExpiry (link : Nat) (s : State) : Result :=
  match s.img.link? link with
  | none => .next s
  | some e =>
    if !(s.kimg link).holding then .next s
    else
      let slow := ((s.kimg link).branches.filter fun b => b.live && b.empty == 0).map (·.pos)
      let s := s.each slow fun s p => dropBranch e p s
      done (fillAll link (s.modKimg link fun k => { k with holding := false }))

/-- A queued GAP is sent when the branch's EMPTY allows, and spends one. -/
def execGapSend (link position : Nat) (s : State) : Result :=
  match (s.kimg link).branches.find? (·.pos = position) with
  | none => .next s
  | some b =>
    match b.gapQ, s.branchWay link b with
    | (lap, buffer) :: t, some (.kryter k) =>
      if b.empty = 0 || (s.klink k).state != .up then .next s
      else
        let s := s.modKimg link fun x => { x with
          gaps := satInc x.gaps
          branches := x.branches.map fun c => if c.pos = position then { c with gapQ := t, empty := c.empty - 1 } else c }
        done (queueSignals k [signalRecord 3 link (BitVec.ofNat 32 (lap * 65536 + buffer))] s)
    | _, _ => .next s

/-! ## Peers and rings (R359, R364) -/

def klErr (s : State) : State := s.modKl fun k => { k with cmdErr := true }

/-- KL_LINK_PEER. -/
def writeLinkPeer (r : Nat) (v : W32) (s : State) : State :=
  let l := (s.sess r).sel.klLink.toNat
  let mode := v.toNat / 2 ^ 30
  let mask := (List.range 8).filter fun q => v.getLsbD q
  match s.devLink? l with
  | none => klErr s
  | some e =>
    let openHere := s.img.plans.any fun p => s.img.planUses p l && s.planOpen p.plan
    let badMask := mode == 2 && (mask.contains s.kl.pos.toNat || mask.length != max 1 e.mcast)
    if mode = 3 || openHere || badMask then klErr s
    else s.modKimg l fun k => { k with
      mode := BitVec.ofNat 2 mode, mask := v.setWidth 8
      branches := if mode = 2 && e.mcast ≠ 0 then mask.map fun p => { pos := p, empty := e.buffers }
        else [{ pos := 8, empty := e.buffers }] }

def execKlLinkPeer (r : Nat) (v : W32) (s : State) : Result := byReader .session r (fun s => writeLinkPeer r v s) s

/-- KL_RING_MEMBER. -/
def writeRingMember (r : Nat) (v : W32) (s : State) : State :=
  let x := (s.sess r).sel
  if s.planOpen x.ringPlan.toNat then klErr s
  else s.modKl fun k => { k with ring := cput 0 (x.ringPlan.toNat * 64 + x.ringMember.toNat) (v &&& 0x9FFFFFFF) k.ring }

def execKlRingMember (r : Nat) (v : W32) (s : State) : Result := byReader .session r (fun s => writeRingMember r v s) s

/-! ## Registers (R372, R373) -/

def klStateCode : KlState → Nat
  | .disabled => 0 | .down => 1 | .training => 2 | .up => 3

def readLink (r off : Nat) (s : State) : W32 :=
  let sel := (s.sess r).sel
  let x : KLink := if sel.kl = 7 then { state := .disabled, peerAddr := 0 } else s.klink sel.kl.toNat
  let l := sel.klLink.toNat
  let present := (s.devLink? l).isSome
  let img : KImg := if present then s.kimg l else {}
  match off with
  | 0x00 => s.kl.en.setWidth 32
  | 0x04 => bitAt 31 s.kl.cmdErr ||| s.kl.pos.setWidth 32 |||
      (List.range 7).foldl (fun v k => v ||| bitAt (8 + k) ((s.klink k).state == .up)) 0
  | 0x08 => sel.kl.setWidth 32
  | 0x0C => at_ 8 x.reason.toNat ||| bitAt 4 x.leftUp ||| at_ 0 (klStateCode x.state)
  | 0x10 => at_ 16 x.peerAddr.toNat ||| at_ 8 x.peerPos.toNat ||| bitAt 0 x.valid
  | 0x14 => x.crcErr
  | 0x18 => x.replays
  | 0x1C => x.retrains
  | 0x20 => x.data
  | 0x40 => bitAt 31 present ||| sel.klLink.setWidth 32
  | 0x44 => at_ 30 img.mode.toNat ||| img.mask.setWidth 32
  | 0x48 => img.drops
  | 0x4C => img.gaps
  | 0x60 => at_ 8 sel.ringMember.toNat ||| sel.ringPlan.setWidth 32
  | 0x64 => s.ringWord sel.ringPlan.toNat sel.ringMember.toNat
  | 0x68 =>
    match (s.plan? sel.ringPlan.toNat).bind fun p => s.ringSelf p.plan p.seqGroup with
    | some i => bitAt 31 true ||| at_ 0 i
    | none => 0
  | 0x6C => s.kl.lease.setWidth 32
  | 0x80 => s.kl.gaps
  | _ => 0

def writeLinkReg (r off : Nat) (v : W32) (s : State) : State :=
  let modSel := fun (f : SessSel → SessSel) => s.modSess r fun x => { x with sel := f x.sel }
  match off with
  | 0x00 => writeKlCtrl v s
  | 0x04 => s.modKl fun k => { k with cmdErr := w1c k.cmdErr v 31 }
  | 0x08 => modSel fun x => { x with kl := v.setWidth 3 }
  | 0x0C =>
    let k := (s.sess r).sel.kl
    if k = 7 then s else s.modKlink k.toNat fun x => { x with leftUp := w1c x.leftUp v 4 }
  | 0x40 => modSel fun x => { x with klLink := v.setWidth 16 }
  | 0x44 => writeLinkPeer r v s
  | 0x60 => modSel fun x => { x with ringMember := BitVec.ofNat 6 (bitsOf v.toNat 8 6), ringPlan := v.setWidth 6 }
  | 0x64 => writeRingMember r v s
  | 0x6C => s.modKl fun k => { k with lease := v.setWidth 16 }
  | _ => s

end Sys2Proof.Machine
end

