-- ==== Sys2Proof/Machine/Security.lean ====
section
/-! DEFINITION. The security block (R392 to R411): services, authentication, keys, attestation, zeroisation, self-tests and
the SEC registers. -/

namespace Sys2Proof.Machine

/-! ## Refusals (R401, R402) -/

/-- Who may use a service. -/
inductive Who where
  | any | role1 | co | coKek
  deriving DecidableEq, Repr

def refusedFor (reason : Nat) : Reply := .err 8 reason 0
def badPayload : Reply := .err 5 0 0

/-- Why a service is refused before it is looked at: MODE, LIFECYCLE, role, KEK, in that order. `always`: accepted in every
MODE and LIFECYCLE (R406); `zeroised`: accepted in ZEROISED. -/
def serviceBarred (who : Who) (always zeroised : Bool) (q : Req) (s : State) : Option Reply :=
  let x := s.sess q.session.toNat
  if !always && s.sec.mode != .operational then some (refusedFor 7)
  else if !always && !zeroised && s.sec.lifecycle == .zeroised then some (refusedFor 6)
  else match who with
    | .any => none
    | .role1 => if x.role then none else some (refusedFor 1)
    | .co => if x.co then none else some (refusedFor 1)
    | .coKek => if !x.co then some (refusedFor 1) else if x.kek.isNone then some (refusedFor 4) else none

/-- A service: barred, malformed, or run. -/
def service (typ : Byte) (who : Who) (zeroised : Bool) (formOk : Bool) (q : Req) (f : State → Reply × State) (s : State) : Result :=
  done (serve typ q (fun s =>
    match serviceBarred who false zeroised q s with
    | some y => (y, s)
    | none => if formOk then f s else (badPayload, s)) s)

/-- The 96 bytes X then Y, or r then s, least significant first (R138, R401). -/
def pairBytes (v : BitVec 768) : List Byte := leBytes 96 v.toNat
def pairAt (l : List Byte) (o : Nat) : BitVec 768 := BitVec.ofNat 768 (field l o 96)

/-! ## The Crypto Officer (R399, R400) -/

def execCoChallenge (q : Req) : State → Result :=
  service 0x60 .role1 false (q.payload.isEmpty && q.arg == 0) q fun s =>
    let (n, s) := takeDraw s
    let nonce := Config.drbgNonce n
    (.ok (leBytes 48 nonce.toNat), s.modSess q.session.toNat fun x => { x with nonce := some nonce })

/-- The 59 bytes a CO_AUTH signs (R399). -/
def authMessage (nonce : BitVec 384) (session : Nat) : List Byte :=
  leBytes 48 nonce.toNat ++ leBytes 8 Config.serial.toNat ++ [0x41, BitVec.ofNat 8 session, 0]

/-- The signature of a CO_AUTH verifies under the credential it names, over the session's live challenge. -/
def authOk (q : Req) (s : State) : Bool :=
  match (s.sess q.session.toNat).nonce, s.sec.creds.find? (·.1 = field q.payload 0 1) with
  | some nonce, some (_, key) =>
    Config.ecdsaVerify key (Config.sha384 (authMessage nonce q.session.toNat))
      (BitVec.ofNat 384 (field q.payload 8 48)) (BitVec.ofNat 384 (field q.payload 56 48))
  | _, _ => false

/-- A failed CO_AUTH is counted; the eighth in a row, and each after it, starts the lockout (R399, R400). -/
def authFailed (session cred : Nat) (s : State) : State :=
  let s := s.modSec fun x => { x with
    failTotal := satInc x.failTotal, failRun := satInc x.failRun, authFail := true
    lockout := x.lockout || decide (8 ≤ x.failRun.toNat + 1) }
  fire 8 (record 0x0903 (BitVec.ofNat 32 session) (BitVec.ofNat 32 cred) (s.sec.failRun.setWidth 32) (lo32 s.tl.pos) s)

def execCoAuth (q : Req) : State → Result :=
  service 0x61 .role1 false (q.payload.length == 104 && q.arg == 0 && decide (field q.payload 0 1 ≤ 3)) q fun s =>
    let i := q.session.toNat
    let cred := field q.payload 0 1
    if s.sec.lockout then (refusedFor 3, s)
    else
      let good := authOk q s
      let s := s.modSess i fun x => { x with nonce := none }
      if good then
        let s := (s.modSess i fun x => { x with co := true }).modSec fun x => { x with failRun := 0 }
        (.ok [], record 0x0904 (BitVec.ofNat 32 i) (BitVec.ofNat 32 cred) (lo32 s.tl.pos) 0 s)
      else (refusedFor 2, authFailed i cred s)

/-- 60 s after the lockout began it ends (R400). -/
def execAuthLockoutEnd (s : State) : Result := done (s.modSec fun x => { x with lockout := false })

def lifecycleCode : Lifecycle → Nat
  | .provisioning => 0 | .secure => 1 | .zeroised => 2

/-- A credential is enrolled; the first one makes the module SECURE and generates the profile key (R392, R394). -/
def enrol (cred : Nat) (key : BitVec 768) (s : State) : State :=
  let first := s.sec.lifecycle == .provisioning
  let (n, s) := if first then takeDraw s else (0, s)
  let s := s.modSec fun x => { x with
    creds := cput 0 cred key x.creds, lifecycle := .secure
    profileKey := if first then some (Config.profileKey n) else x.profileKey }
  record 0x0908 (BitVec.ofNat 32 cred) 1 (BitVec.ofNat 32 (lifecycleCode s.sec.lifecycle)) 0 (useTest storeTests s)

/-- A credential is removed, but never the last one (R402). -/
def unenrol (cred : Nat) (s : State) : Reply × State :=
  let left := cput 0 cred 0 s.sec.creds
  if left = s.sec.creds then (.ok [], s)
  else if left.isEmpty then (refusedFor 8, s)
  else
    let s := useTest storeTests (s.modSec fun x => { x with creds := left })
    (.ok [], record 0x0908 (BitVec.ofNat 32 cred) 2 (BitVec.ofNat 32 (lifecycleCode s.sec.lifecycle)) 0 s)

def execCoEnrol (q : Req) : State → Result :=
  service 0x62 .any false (q.payload.length == 104 && q.arg == 0 && decide (field q.payload 0 1 ≤ 3)) q fun s =>
    let cred := field q.payload 0 1
    let key := pairAt q.payload 8
    if s.sec.lifecycle == .secure && !(s.sess q.session.toNat).co then (refusedFor 1, s)
    else if key = 0 then unenrol cred s
    else (.ok [], enrol cred key s)

/-! ## Attestation and certificates (R395, R405) -/

def modeCode : SecMode → Nat
  | .selftest => 0 | .operational => 1 | .error => 2

/-- The bytes of a firmware copy that FW_WRITE changed. -/
def State.fwBytes (s : State) (copy : Nat) : List (Nat × Byte) :=
  (if copy = 0 then s.sec.fwA else s.sec.fwB).filterMap fun e => e.2.map fun b => (e.1, b)
def Sec.running (x : Sec) : Nat := if x.fwCopy then 1 else 0

/-- A digest as 48 bytes, its first byte first. -/
def hashBytes (v : BitVec 384) : List Byte := beBytes 48 v.toNat

/-- Bytes 0 to 247 of a report. -/
def State.report (s : State) (nonce : List Byte) : List Byte :=
  let x := s.sec
  let m := s.img
  let on := s.image.active.isSome
  let creds := (List.range 4).flatMap fun c => pairBytes (cget 0 x.creds c)
  [0x41, 0x54, 0x53, 0x54] ++ leBytes 2 1 ++ leBytes 2 imageMember ++ [BitVec.ofNat 8 imageStepping] ++
    [BitVec.ofNat 8 (lifecycleCode x.lifecycle), BitVec.ofNat 8 (modeCode x.mode), 0] ++ leBytes 4 x.fwSvn.toNat ++
    leBytes 4 x.fwFloor.toNat ++ leBytes 4 x.imgFloor.toNat ++ leBytes 8 Config.serial.toNat ++
    (if on then leBytes 8 m.id.toNat ++ leBytes 4 m.svn.toNat else List.replicate 12 0) ++ [0, 0, 0, 0] ++ nonce ++
    hashBytes (Config.fwDigest x.running (s.fwBytes x.running)) ++
    (if on then hashBytes s.image.digest else List.replicate 48 0) ++ leBytes 8 s.tl.pos.toNat ++
    hashBytes (Config.sha384 creds)

def execAttest (q : Req) : State → Result :=
  service 0x63 .any true (q.payload.length == 48 && q.arg == 0) q fun s =>
    let b := s.report q.payload
    let (n, s) := takeDraw s
    (.ok (b ++ pairBytes (Config.dikSign (Config.sha384 b) n)), s)

def execCertRead (q : Req) : State → Result :=
  let n := field q.payload 0 4
  service 0x64 .any true (q.payload.length == 4 && decide (1 ≤ n) && decide (n ≤ 8192)) q fun s =>
    (.ok ((Config.certChain.drop q.arg.toNat).take n), s)

/-! ## Keys (R401, R403, R404, R345) -/

def execKeyAgree (q : Req) : State → Result :=
  service 0x65 .co false (q.payload.length == 96 && q.arg == 0) q fun s =>
    let (n, s) := takeDraw s
    let (m, s) := takeDraw s
    let dev := pairBytes (Config.ephemeralPub n)
    let key := Config.kek n (pairAt q.payload 0) q.session.toNat
    let sig := Config.dikSign (Config.sha384 (q.payload ++ dev)) m
    (.ok (dev ++ pairBytes sig), useTest pairTests (s.modSess q.session.toNat fun x => { x with kek := some key }))

/-- The SAK_LOAD fields are in range (R403). -/
def sakForm (q : Req) : Bool :=
  let f := field q.payload
  q.payload.length == 80 && q.arg == 0 && decide (f 0 1 ≤ 1) && (if f 0 1 = 0 then f 1 1 == 0 else decide (f 1 1 ≤ 3)) &&
    decide (f 2 1 ≤ 3) && decide (f 3 1 ≤ 1) && f 36 4 == 0

/-- The association transmits, or is an enabled receive association that holds a key (R404). -/
def saInUse (dir sc an : Nat) (m : Macsec) : Bool :=
  if dir = 0 then m.en && m.txAn.toNat == an && m.tx.any (·.1 == an)
  else m.rxEnable.getLsbD sc && m.rx.any (·.1 == sc * 4 + an)

def execSakLoad (q : Req) : State → Result :=
  service 0x66 .coKek false (sakForm q) q fun s =>
    let f := field q.payload
    if saInUse (f 0 1) (f 1 1) (f 2 1) s.eth.macsec then (badPayload, s)
    else match Config.aesKwUnwrap ((s.sess q.session.toNat).kek.getD 0) (slice 40 40 q.payload) with
      | none => (refusedFor 5, s)
      | some key =>
        let a : Assoc := {
          key := key, xpn := f 3 1 = 1, ssci := BitVec.ofNat 32 (f 4 4), pn := f 8 8
          salt := BitVec.ofNat 96 (f 16 12), sci := BitVec.ofNat 64 (leNat (slice 28 8 q.payload).reverse) }
        (.ok [], s.modMacsec fun m =>
          if f 0 1 = 0 then { m with tx := cput {} (f 2 1) a m.tx } else { m with rx := cput {} (f 1 1 * 4 + f 2 1) a m.rx })

/-- SA_CTRL; a replay window has at most 2^30 − 1 packets (R345, R401). -/
def execSaCtrl (q : Req) : State → Result :=
  let f := field q.payload
  service 0x67 .co false (q.payload.length == 8 && q.arg == 0 && decide (f 0 1 ≤ 3) && decide (f 4 4 < 2 ^ 30)) q fun s =>
    if !s.eth.macsec.tx.any (·.1 == f 0 1) then (badPayload, s)
    else (.ok [], s.modMacsec fun m => { m with
      txAn := BitVec.ofNat 2 (f 0 1), rxEnable := BitVec.ofNat 4 (f 1 1), window := BitVec.ofNat 32 (f 4 4) })

def execMarkKeyLoad (q : Req) : State → Result :=
  service 0x68 .coKek false (q.payload.length == 40 && q.arg == 0) q fun s =>
    match Config.aesKwUnwrap ((s.sess q.session.toNat).kek.getD 0) q.payload with
    | none => (refusedFor 5, s)
    | some key => (.ok [], useTest storeTests (s.modSec fun x => { x with markKey := some key }))

/-! ## Floors, revocation, firmware (R396) -/

def execSvnCommit (q : Req) : State → Result :=
  service 0x69 .co false (q.payload.isEmpty && decide (q.arg.toNat ≤ 1)) q fun s =>
    let image := q.arg = 1
    let old := if image then s.sec.imgFloor else s.sec.fwFloor
    let new := if image then (if s.image.active.isSome then s.img.svn else 0) else s.sec.fwSvn
    if new.toNat ≤ old.toNat then (refusedFor 9, s)
    else
      let s := useTest storeTests (s.modSec fun x => if image then { x with imgFloor := new } else { x with fwFloor := new })
      (.ok [], record 0x0906 (if image then 1 else 0) old new 0 s)

def execKeyRevoke (q : Req) : State → Result :=
  let a := q.arg.toNat
  service 0x6A .co false (q.payload.isEmpty && a / 2 % 128 == 0 && decide (a < 2048)) q fun s =>
    let fw := a % 2 = 1
    let slot := a / 256
    let old := if fw then s.sec.fwRevoked else s.sec.imgRevoked
    let new := old ||| (1 <<< slot : BitVec 8)
    if new = old then (.ok [], s)
    else if new = BitVec.allOnes 8 then (refusedFor 8, s)
    else
      let s := s.modSec fun x => if fw then { x with fwRevoked := new } else { x with imgRevoked := new }
      (.ok [], record 0x0907 (if fw then 1 else 0) (BitVec.ofNat 32 slot) 0 0 s)

def execFwWrite (q : Req) : State → Result :=
  let n := q.payload.length
  service 0x6B .co false (decide (64 ≤ n) && decide (n ≤ 8192) && q.arg.toNat % 64 == 0) q fun s =>
    let put := cputs none q.arg.toNat (q.payload.map some)
    (.ok [], s.modSec fun x => if x.fwCopy then { x with fwA := put x.fwA } else { x with fwB := put x.fwB })

/-! ## Zeroisation (R406) -/

/-- Steps 1 to 3, and the start of step 4. `source`: the session, or 0xFF for SMBus. -/
def zeroise (source : Nat) (s : State) : State :=
  let ids := (s.streams.map (·.1)).filter fun id => abortable (s.stream id).state
  let s := s.each ids fun s id => abortStream id 4 (BitVec.ofNat 32 source) 0 s
  let s := s.each ((s.profiles.filter (·.2.fetching.isSome)).map (·.1)) fun s p => fetchFailed p s
  let s := s.modMacsec fun m => { m with tx := [], rx := [] }
  let s := { s with sessions := cmap {} (fun _ x => { x with kek := none }) s.sessions }
  let s := s.modSec fun x => { x with
    profileKey := none, markKey := none, marks := [], creds := [], lifecycle := .zeroised, zeroised := true, wiping := true }
  fire 8 (record 0x0905 (BitVec.ofNat 32 source) (BitVec.ofNat 32 ids.length) (lo32 s.tl.pos) 0 s)

/-- ZEROISE is answered before R406 begins. -/
def execZeroise (q : Req) (s : State) : Result :=
  done (serveOpt 0x6C q (fun s =>
    match serviceBarred .co true true q s with
    | some y => (some y, s)
    | none =>
      if !q.payload.isEmpty || q.arg ≠ 0 then (some badPayload, s)
      else (none, zeroise q.session.toNat (answer 0x6C q (.ok []) s))) s)

def secErr (s : State) : State := s.modSec fun x => { x with cmdErr := true }

/-- SEC_ZEROISE (R406, R410): from a Crypto Officer session or over SMBus. -/
def writeZeroise (r : Nat) (v : W32) (s : State) : State :=
  if v = 0x5A45524F && (r == 8 || (s.sess r).co) then zeroise (if r = 8 then 0xFF else r) s else secErr s

def execSecZeroise (r : Nat) (v : W32) (s : State) : Result := byReader .subset r (fun s => writeZeroise r v s) s

/-- Step 4 ends: store, cache and staging buffers are zeros, every profile is EMPTY. -/
def execZeroiseWipeComplete (s : State) : Result :=
  if !s.sec.wiping then .next s
  else
    let s := s.setTier 2 ((s.tier 2).zeroed 0x10000000 (0x10000000 + s.storeLen))
    let s := s.setTier 1 ((s.tier 1).zeroed (cacheSlot 0) (cacheSlot 65536))
    let s := { s with
      profiles := [], sessions := cmap {} (fun _ x => { x with prof := { x.prof with staging := [] } }) s.sessions }
    done (s.modSec fun x => { x with wiping := false })

/-! ## SELFTEST and random bytes (R394, R409) -/

def execSelftest (q : Req) : State → Result :=
  service 0x6D .any true (q.payload.isEmpty && q.arg == 0) q fun s => (.ok [], runTests bootTests s)

def execRandom (q : Req) : State → Result :=
  let n := q.arg.toNat
  service 0x6E .any false (q.payload.isEmpty && decide (1 ≤ n) && decide (n ≤ 256)) q fun s =>
    let (k, s) := takeDraw s
    (.ok ((List.range n).map fun i => Config.drbgByte (256 * k + i)), s)

/-! ## Registers (R410) -/

def readSec (off : Nat) (s : State) : W32 :=
  let x := s.sec
  match off with
  | 0x00 => at_ 30 (lifecycleCode x.lifecycle) ||| at_ 24 (modeCode x.mode) ||| at_ 16 x.errCode.toNat |||
      (List.range 4).foldl (fun v c => v ||| bitAt (8 + c) (x.creds.any (·.1 == c))) 0 |||
      (List.range 8).foldl (fun v i => v ||| bitAt i (s.sess i).co) 0
  | 0x04 => bitAt 3 x.cmdErr ||| bitAt 2 x.authFail ||| bitAt 1 x.error ||| bitAt 0 x.zeroised
  | 0x08 => x.fwSvn
  | 0x0C => x.fwFloor
  | 0x10 => x.imgFloor
  | 0x14 => bitAt 16 x.fwCopy ||| at_ 8 x.fwRevoked.toNat ||| x.imgRevoked.setWidth 32
  | 0x18 => bitAt 2 x.markSap ||| bitAt 1 x.markRtp ||| bitAt 0 x.markKey.isSome
  | 0x20 => at_ 8 x.failTotal.toNat ||| x.failRun.setWidth 32
  | _ => 0

def writeSec (r off : Nat) (v : W32) (s : State) : State :=
  match off with
  | 0x04 => s.modSec fun x => { x with
      cmdErr := w1c x.cmdErr v 3, authFail := w1c x.authFail v 2, error := w1c x.error v 1, zeroised := w1c x.zeroised v 0 }
  | 0x18 =>
    if r < 8 && (s.sess r).co then s.modSec fun x => { x with markSap := v.getLsbD 2, markRtp := v.getLsbD 1 } else secErr s
  | 0x1C => writeZeroise r v s
  | _ => s

end Sys2Proof.Machine
end

