-- ==== Sys2Proof/Machine/Power.lean ====
section
/-! DEFINITION. Power, reset and boot (R425 to R438, R442 to R445): supply and pin events, module resets, boot stages, power
states, sensors and telemetry, and the PWR registers. -/

namespace Sys2Proof.Machine

def State.modPwr (s : State) (f : Pwr → Pwr) : State := { s with pwr := f s.pwr }

/-! ## What survives a reset (R430) -/

/-- The security state that flash and fuses hold (R394, R396, R430); ZEROISED becomes PROVISIONING. Counter values the
key store had reserved are not used again (R397). -/
def keptSec (x : Sec) : Sec :=
  { lifecycle := if x.lifecycle == .zeroised then .provisioning else x.lifecycle
    creds := x.creds, fwFloor := x.fwFloor, imgFloor := x.imgFloor, fwRevoked := x.fwRevoked, imgRevoked := x.imgRevoked
    markKey := x.markKey, profileKey := x.profileKey, fwA := x.fwA, fwB := x.fwB
    storeCtr := ceilDiv x.storeCtr (2 ^ 20) * 2 ^ 20, drbg := x.drbg }

/-- The state with the main domain's own state gone: what flash and fuses hold is left, the standby domain, and the straps
as last sampled (R350). -/
def mainOff (s : State) : State :=
  { pending := s.pending, outbox := s.outbox, free := s.free, sec := keptSec s.sec, bureau := s.bureau, pwr := s.pwr
    smbOff := s.smbOff, readers := s.readers.filter fun e => e.1 == 8, kl := { pos := s.kl.pos } }

/-- A module reset starts (R429, R430): every register to its reset value, Bureau finds its ring. -/
def beginReset (cause : BitVec 3) (s : State) : State :=
  { mainOff s with
    smbOff := 0, readers := [], bureau := resetBureau s.bureau
    pwr := { cause := cause, lastMs := s.pwr.bootMs, inReset := true, rails := s.pwr.rails, pwrGood := s.pwr.pwrGood
             rstLow := s.pwr.rstLow, standbyOn := s.pwr.standbyOn, fitted := s.pwr.fitted } }

/-- A module reset ends: the straps are sampled and 0x0A03 is recorded (R350, R430, R445). -/
def endReset (pos : BitVec 3) (s : State) : State :=
  let s := { s with kl := { s.kl with pos := pos } }
  let s := s.modPwr fun x => { x with inReset := false, resetDue := false }
  fire 9 (record 0x0A03 (s.pwr.cause.setWidth 32) (s.pwr.lastMs.setWidth 32) 0 0 s)

/-! ## Supply and rails (R425 to R428) -/

/-- A shutdown starts: PWR_GOOD falls and Bureau programs the event ahead of its queue (R428). -/
def shutdown (cause : DownCause) (code : W16) (p0 p1 p2 p3 : W32) (s : State) : State :=
  let keep := s.pwr.down.isSome && cause == .vin
  let s := s.modPwr fun x => { x with
    pwrGood := false, down := if keep then x.down else some cause, cleared := keep && x.cleared }
  fire 9 (recordNow code p0 p1 p2 p3 s)

/-- The main rails are up, or coming up. -/
def State.powered (s : State) : Bool := s.pwr.state != .shutdown || s.pwr.down.isNone

def pwrCode : PwrState → Nat
  | .boot => 0 | .on => 1 | .standby => 2 | .shutdown => 3

/-- VIN reaches 40 V: the standby domain runs, Bureau finds its ring and resumes MINUTES (R415, R419, R425). -/
def execVinPresent (mv : Nat) (s : State) : Result :=
  if s.pwr.standbyOn || mv < 40000 then .next s
  else done ((s.modPwr fun x => { x with standbyOn := true }).modBureau fun b => findRing { b with minutes := b.keptMin })

/-- VIN has stayed at or above 47 V for 10 ms: the first main rail starts, unless a rail fault or a trip is not cleared
(R425, R428). -/
def execVinStable (mv : Nat) (s : State) : Result :=
  if !s.pwr.standbyOn || s.powered || 0 < s.pwr.rails || mv < 47000 then .next s
  else if s.pwr.down == some .vin || s.pwr.cleared then done (s.modPwr fun x => { x with down := none, cleared := false })
  else .next s

/-- VIN has stayed out of range for 100 µs (R425). -/
def execVinFault (mv : Nat) (s : State) : Result :=
  if !s.pwr.standbyOn || !s.powered || (45000 ≤ mv && mv ≤ 60000) then .next s
  else
    let code := pwrCode s.pwr.state
    done (shutdown .vin 0x0A01 (BitVec.ofNat 32 mv) (if mv < 45000 then 1 else 2) (BitVec.ofNat 32 code) 0
      (s.modPwr fun x => { x with vinFlag := true }))

/-- A rail reaches regulation and the next one starts (R426): `rails` counts the rails in regulation. -/
def execRailRegulation (rail : Nat) (s : State) : Result :=
  if s.pwr.state == .shutdown && s.pwr.down.isNone && rail = s.pwr.rails + 1 && rail ≤ 6 then
    done (s.modPwr fun x => { x with rails := rail })
  else .next s

/-- 10 ms after the last rail PWR_GOOD rises: PWRCYC counts a power-up, and a module reset starts (R418, R427, R429). -/
def execPwrGoodRise (s : State) : Result :=
  if s.pwr.rails = 6 && !s.pwr.pwrGood && s.pwr.down.isNone then
    let s := s.modBureau fun b => { b with pwrcyc := satInc b.pwrcyc }
    done (beginReset 1 (s.modPwr fun x => { x with pwrGood := true }))
  else .next s

/-- A rail leaves ±5%: PWR_GOOD falls (R427). -/
def execRailOutOfTolerance (rail : Nat) (s : State) : Result :=
  if s.powered && 1 ≤ rail && rail ≤ s.pwr.rails then done (s.modPwr fun x => { x with pwrGood := false }) else .next s

/-- A rail has stayed outside ±5% for 20 µs (R427, R445). -/
def execRailFault (rail mv : Nat) (s : State) : Result :=
  if s.powered && 1 ≤ rail && rail ≤ s.pwr.rails then
    done (shutdown .rail 0x0A02 (BitVec.ofNat 32 rail) (BitVec.ofNat 32 mv) 0 0 (s.modPwr fun x => { x with railf := true }))
  else .next s

/-- 1 ms after the cause the main rails are removed (R428). -/
def execRailsOff (s : State) : Result :=
  if s.pwr.down.isSome && (s.pwr.state != .shutdown || 0 < s.pwr.rails) then
    done ((mainOff s).modPwr fun x => { x with state := .shutdown, rails := 0 })
  else .next s

/-- VIN falls below 40 V: the standby domain stops. Flash and fuses keep what they hold, a slot being programmed part of its
record (R414, R419, R425). -/
def execStandbyDomainOff (mv : Nat) (s : State) : Result :=
  if !s.pwr.standbyOn || 40000 ≤ mv then .next s
  else
    let (bits, s) := s.freeBits
    let b := cutRecord bits s.bureau
    done { mainOff s with
      smbOff := 0, readers := []
      bureau := { ring := b.ring, minutes := b.minutes, pwrcyc := b.pwrcyc, keptMin := b.keptMin }
      pwr := { state := .shutdown, down := some .vin, rails := 0, pwrGood := false, rstLow := s.pwr.rstLow
               standbyOn := false, bootMs := s.pwr.bootMs, fitted := s.pwr.fitted } }

/-! ## Sensors (R435 to R437) -/

/-- Warning and trip limit of a sensor in °C; the coolant sensors have no trip (R435). -/
def sensorLimits (i : Nat) : Option (Int × Option Int) :=
  if i < 5 then some (95, some 105)
  else if i < 21 then some (85, some 95)
  else if i < 29 then some (85, some 95)
  else if i = 29 then some (110, some 125)
  else if i = 30 then some (45, none)
  else if i = 31 then some (65, none) else none

/-- The sensor exists: a DIMM's sensor does where a DIMM is fitted (R443). -/
def State.sensor (s : State) (i : Nat) : Bool :=
  if 21 ≤ i && i < 29 then s.pwr.fitted.getLsbD (i - 21) else decide (i < 32)

/-- Every sensor's last sample is below its warning limit. -/
def State.allCool (s : State) : Bool :=
  s.pwr.temps.all fun e => match e.2, sensorLimits e.1 with
    | some t, some (w, _) => decide (t.toInt < 16 * w)
    | _, _ => true

/-- In SHUTDOWN an asserted MOD_RST_N clears a rail fault, and a trip while every sensor is below its warning (R428,
R437). -/
def clearDown (s : State) : State :=
  if s.pwr.state != .shutdown || !s.pwr.rstLow then s
  else match s.pwr.down with
    | some .rail => s.modPwr fun x => { x with cleared := true, railf := false }
    | some .thermal =>
      if s.allCool then s.modPwr fun x => { x with cleared := true, railf := false, ttrip := false, thermTrip := false } else s
    | _ => s

/-- One sample of one sensor. -/
def sampleSensor (s : State) (e : Nat × W16) : State :=
  let i := e.1
  let t := e.2
  match sensorLimits i with
  | none => s
  | some (w, trip) =>
    if !s.sensor i then s else
      let peak := match cget none s.pwr.peaks i with
        | some p => if p.toInt < t.toInt then t else p
        | none => t
      let s := s.modPwr fun x => { x with temps := cput none i (some t) x.temps, peaks := cput none i (some peak) x.peaks }
      let s :=
        if 16 * w ≤ t.toInt && !s.pwr.warned.contains i then
          fire 9 (record 0x0A04 (BitVec.ofNat 32 i) (t.setWidth 32) (BitVec.ofInt 32 (16 * w)) (lo32 s.tl.pos)
            (s.modPwr fun x => { x with twarn := true, warned := i :: x.warned }))
        else if t.toInt ≤ 16 * (w - 5) then s.modPwr fun x => { x with warned := x.warned.filter (· != i) } else s
      match trip with
      | none => s
      | some l =>
        if 16 * l ≤ t.toInt && !s.pwr.ttrip then
          shutdown .thermal 0x0A05 (BitVec.ofNat 32 i) (t.setWidth 32) (BitVec.ofInt 32 (16 * l)) (lo32 s.tl.pos)
            (s.modPwr fun x => { x with ttrip := true, thermTrip := true })
        else s

def execThermalSample (temps : List (Nat × W16)) (s : State) : Result :=
  if !s.pwr.standbyOn then .next s else done (clearDown (temps.foldl sampleSensor s))

/-- VIN, IIN, PIN and the energy since the last update (R438). -/
def execTelemetryUpdate (mv ma mw mj : Nat) (s : State) : Result :=
  if !s.pwr.standbyOn then .next s
  else
    let sat := fun n => BitVec.ofNat 24 (min n (2 ^ 24 - 1))
    done (s.modPwr fun x => { x with
      vin := sat mv, iin := sat ma, pin := sat mw, energy := x.energy + BitVec.ofNat 64 mj })

/-! ## Module reset (R429 to R431) -/

/-- MOD_RST_N has been low for 10 µs: a module reset starts, unless one is in progress or the main domain is down. -/
def execModRstNAssert (s : State) : Result :=
  if !s.pwr.standbyOn then .next s
  else
    let s := s.modPwr fun x => { x with rstLow := true }
    if s.pwr.inReset || s.pwr.state == .shutdown || s.pwr.down.isSome then done (clearDown s) else done (beginReset 2 s)

/-- MOD_RST_N rises: a reset it started ends, and one whose 10 µs have passed. -/
def execModRstNRelease (brdPos : BitVec 3) (s : State) : Result :=
  if !s.pwr.standbyOn then .next s
  else
    let s := s.modPwr fun x => { x with rstLow := false }
    if s.pwr.inReset && (s.pwr.cause = 2 || s.pwr.resetDue) then done (endReset brdPos s) else done s

/-- 10 µs after its start a reset by power-up or command ends, or with the rise of MOD_RST_N where that is low. -/
def execResetEnd (brdPos : BitVec 3) (s : State) : Result :=
  if !s.pwr.inReset || s.pwr.cause = 2 then .next s
  else if s.pwr.rstLow then done (s.modPwr fun x => { x with resetDue := true })
  else done (endReset brdPos s)

/-! ## Boot (R396, R432) -/

/-- A firmware copy's rejection: 1 signature, 2 SVN; none where it is accepted (R396). -/
def fwRejected (copy : Nat) (s : State) : Option Nat :=
  let b := s.fwBytes copy
  let key := (Config.fwKeyId copy b).toNat
  if !Config.fwSigOk copy b || 7 < key || s.sec.fwRevoked.getLsbD key then some 1
  else if (Config.fwSvn copy b).toNat < s.sec.fwFloor.toNat then some 2 else none

/-- A rejected copy is recorded (R396, R411). -/
def noteRejected (s : State) (copy : Nat) : State :=
  match fwRejected copy s with
  | none => s
  | some why =>
    let b := s.fwBytes copy
    record 0x0901 (BitVec.ofNat 32 copy) (BitVec.ofNat 32 why) (Config.fwSvn copy b) (Config.fwKeyId copy b) s

/-- The copy the boot ROM runs: the accepted one with the higher SVN, A on a tie. -/
def fwChoice (s : State) : Option Nat :=
  match fwRejected 0 s, fwRejected 1 s with
  | none, none => some (if (Config.fwSvn 0 (s.fwBytes 0)).toNat < (Config.fwSvn 1 (s.fwBytes 1)).toNat then 1 else 0)
  | none, some _ => some 0
  | some _, none => some 1
  | some _, some _ => none

/-- SELFTEST completes: with no accepted copy boot stops; else the tests set MODE. -/
def bootSelftest (s : State) : State :=
  let s := s.each [0, 1] noteRejected
  match fwChoice s with
  | none => testFailed 1 s
  | some c =>
    let s := s.modSec fun x => { x with fwCopy := c == 1, fwSvn := Config.fwSvn c (s.fwBytes c) }
    let s := runTests (bootTests ++ storeTests) s
    let s := if s.sec.mode == .error then s else s.modSec fun x => { x with mode := .operational }
    s.modPwr fun x => { x with stage := 2 }

/-- Enabled Kryter links start training as the PLLs lock. -/
def startKryter (s : State) : State :=
  s.each (List.range 7) fun s k => if s.kl.en.getLsbD k then s.modKlink k fun x => { x with state := .training } else s

/-- A boot stage completes, `ms` after the end of reset (R432). -/
def execBootStageComplete (ms : Nat) (s : State) : Result :=
  if s.pwr.state != .boot || s.pwr.inReset then .next s
  else
    let enter := fun n => s.modPwr fun x => { x with stage := n }
    match s.pwr.stage.toNat with
    | 0 => done (startKryter (enter 1))
    | 1 => if s.sec.mode == .error then .next s else done (bootSelftest s)
    | 2 => done (enter 3)
    | 3 => if s.mem.fault || !s.mem.hbmTrained || !s.mem.ddrTrained then .next s else done (enter 4)
    | 4 =>
      if s.mem.ready then
        done (s.modPwr fun x => { x with stage := 5, state := .on, bootMs := BitVec.ofNat 16 (min ms 65535) })
      else .next s
    | _ => .next s

/-! ## Power states (R433, R434) -/

def pwrErr (s : State) : State := s.modPwr fun x => { x with cmdErr := true }

def mayStandby (s : State) : Bool :=
  s.pwr.state == .on && (s.image.state == .empty || s.image.state == .staged || s.image.state == .verified ||
    s.image.state == .rejected) && s.saps.all fun e => e.2.state == .stopped

def standbyCmd (s : State) : State :=
  if mayStandby s then
    let s := (s.modPwr fun x => { x with state := .standby }).modMem fun m => { m with ready := false }
    fire 9 (record 0x0A06 1 (lo32 s.tl.pos) 0 0 s)
  else pwrErr s

def wakeCmd (s : State) : State :=
  if s.pwr.state == .standby then s.modPwr fun x => { x with waking := true } else pwrErr s

/-- Waking completes: stacked SRAM is zero-filled, memory is ready. -/
def execWakeComplete (s : State) : Result :=
  if s.pwr.state == .standby && s.pwr.waking then
    let s := (s.modPwr fun x => { x with state := .on, waking := false }).modMem fun m =>
      { m with t0 := {}, t3 := {}, ready := true }
    done (fire 9 (record 0x0A06 2 (lo32 s.tl.pos) 0 0 s))
  else .next s

/-- RESET is accepted with its key in ON or STANDBY. -/
def mayReset (v : W32) (s : State) : Bool :=
  v.toNat / 65536 == 0x5253 && (s.pwr.state == .on || s.pwr.state == .standby)

/-- PWR_CMD (R434, R443): a RESET waits for the end of its message. -/
def writePwrCmd (v : W32) (s : State) : State :=
  match v.toNat % 16 with
  | 1 => standbyCmd s
  | 2 => wakeCmd s
  | 3 => if mayReset v s then s.modPwr fun x => { x with resetReq := true } else pwrErr s
  | _ => pwrErr s

/-- The end of a message or an SMBus write: an accepted RESET starts (R429). -/
def resetAfter (s : State) : State := if s.pwr.resetReq then beginReset 4 s else s

def execStandby (r : Nat) (s : State) : Result := byReader .always r standbyCmd s
def execWake (r : Nat) (s : State) : Result := byReader .always r wakeCmd s
/-- A PWR_CMD write of RESET, at the end of the message that carries it. -/
def execPwrReset (r : Nat) (v : W32) (s : State) : Result :=
  byReader .always r (fun s => if mayReset v s then beginReset 4 s else pwrErr s) s

/-! ## Registers (R443, R444) -/

/-- PWR_STATUS. -/
def State.pwrStatus (s : State) : W32 :=
  let x := s.pwr
  at_ 29 (pwrCode x.state) ||| bitAt 4 x.cmdErr ||| bitAt 3 x.vinFlag ||| bitAt 2 x.twarn ||| bitAt 1 x.ttrip |||
    bitAt 0 x.railf

/-- ALERT_N is asserted (low) while an enabled bit of PWR_STATUS is set (R442). -/
def State.alert (s : State) : Bool := s.pwrStatus &&& s.pwr.alertEn.setWidth 32 != 0

/-- 0x58 + BRD_POS (R439). -/
def State.smbAddr (s : State) : Nat := 0x58 + s.kl.pos.toNat

def readEnergyLo (r : Nat) (s : State) : W32 × State :=
  (lo32 s.pwr.energy, s.modReader r fun x => { x with energyHi := hi32 s.pwr.energy })

def execPwrEnergyLo (r : Nat) (s : State) : Result := byReader .always r (fun s => (readEnergyLo r s).2) s

def readTemp (s : State) (i : Nat) (l : Cells (Option W16)) : W32 :=
  if s.sensor i then bitAt 31 true ||| ((cget none l i).getD 0).setWidth 32 else 0

def readPwr (r off : Nat) (s : State) : W32 × State :=
  let x := s.pwr
  match off with
  | 0x00 => (s.pwrStatus, s)
  | 0x08 => (x.cause.setWidth 32, s)
  | 0x0C => (at_ 16 x.bootMs.toNat ||| x.stage.setWidth 32, s)
  | 0x10 => (x.vin.setWidth 32, s)
  | 0x14 => (x.iin.setWidth 32, s)
  | 0x18 => (x.pin.setWidth 32, s)
  | 0x1C => readEnergyLo r s
  | 0x20 => ((s.reader r).energyHi, s)
  | 0x24 => ((s.reader r).tsel.setWidth 32, s)
  | 0x28 => (readTemp s (s.reader r).tsel.toNat x.temps, s)
  | 0x2C => (readTemp s (s.reader r).tsel.toNat x.peaks, s)
  | 0x30 => (x.alertEn.setWidth 32, s)
  | 0x34 => (bitAt 9 x.pecErr ||| bitAt 8 x.denied ||| at_ 0 s.smbAddr, s)
  | _ => (0, s)

def writePwr (r off : Nat) (v : W32) (s : State) : State :=
  match off with
  | 0x00 => s.modPwr fun x => { x with cmdErr := w1c x.cmdErr v 4, vinFlag := w1c x.vinFlag v 3, twarn := w1c x.twarn v 2 }
  | 0x04 => writePwrCmd v s
  | 0x24 => s.modReader r fun x => { x with tsel := v.setWidth 5 }
  | 0x30 => s.modPwr fun x => { x with alertEn := v.setWidth 5 }
  | 0x34 => s.modPwr fun x => { x with pecErr := w1c x.pecErr v 9, denied := w1c x.denied v 8 }
  | _ => s

end Sys2Proof.Machine
end

