-- ==== Sys2Proof/Machine/SerialAudio.lean ====
section
/-! DEFINITION. Serial audio ports (R375 to R391). -/

namespace Sys2Proof.Machine

/-! ## Configuration (R375 to R377, R390) -/

/-- Bits of a WIDTH or SLOT_BITS code. -/
def sapBits (c : BitVec 2) : Nat := match c.toNat with | 0 => 16 | 1 => 24 | _ => 32
def Sap.ratio (x : Sap) : Nat := ratioOf x.rate.toNat
/-- SLIP in frames; 0 acts as 1. -/
def Sap.slipFrames (x : Sap) : Nat := max 1 x.slip.toNat

/-- The configuration a START takes (R377, R390). -/
def Sap.startable (x : Sap) : Bool :=
  decide (x.width.toNat < 3) && decide (x.slotBits.toNat < 3) && decide (x.format.toNat < 3) &&
  decide (1 ≤ x.slots.toNat) && decide (x.slots.toNat ≤ 32) && decide (sapBits x.width ≤ sapBits x.slotBits) &&
  (x.format == 2 || x.slots == 2) && (x.master || x.format == 0 || (x.format == 2 && x.delay))

/-- RUNIN, RUNNING or RUNOUT (R384). -/
def Sap.running (x : Sap) : Bool := x.state == .runin || x.state == .running || x.state == .runout
def Sap.halted (x : Sap) : Bool := x.state == .stopped || x.state == .armed

def sapErr (n : Nat) (s : State) : State := s.modSap n fun x => { x with cmdErr := true }

/-! ## Commands (R384, R385) -/

/-- The port becomes ARMED from P0 (R384, R386): counts restart, nothing of the last run remains. -/
def armSap (p0 : W64) (ext : Bool) (x : Sap) : Sap :=
  { x with state := .armed, p0 := p0, p1 := none, next := p0 - BitVec.ofNat 64 (x.runin.toNat * x.ratio)
           ext := ext, lastPin := true, underrun := 0, overrun := 0, inUnder := false, txnMask := none }

/-- START (1). -/
def sapStart (n : Nat) (s : State) : State :=
  let x := s.sap n
  if x.state == .stopped && x.startable && decide (x.pos.toNat % x.ratio = 0) &&
      decide (s.pos + x.runin.toNat * x.ratio < x.pos.toNat) then
    s.modSap n (armSap x.pos false)
  else sapErr n s

/-- START_EXT (2). -/
def sapStartExt (n : Nat) (s : State) : State :=
  let x := s.sap n
  if x.state == .stopped && x.startable then s.modSap n (armSap 0 true) else sapErr n s

/-- STOP (3). -/
def sapStop (n : Nat) (s : State) : State :=
  let x := s.sap n
  if (x.state == .runin || x.state == .running) && decide (x.pos.toNat % x.ratio = 0) && decide (s.pos < x.pos.toNat) then
    s.modSap n fun x => { x with p1 := some x.pos }
  else sapErr n s

/-- STOP_NOW (4). -/
def sapStopNow (n : Nat) (s : State) : State :=
  let x := s.sap n
  if x.state == .runin || x.state == .running then s.modSap n fun x => { x with p1 := some x.next } else sapErr n s

/-- CANCEL (5). -/
def sapCancel (n : Nat) (s : State) : State :=
  if (s.sap n).state == .armed then s.modSap n fun x => { x with state := .stopped, ext := false } else sapErr n s

def execSapCmdStart (r port : Nat) (s : State) : Result :=
  byReader .session r (fun s => if port < 4 then sapStart port s else s) s
def execStartExt (r port : Nat) (s : State) : Result :=
  byReader .session r (fun s => if port < 4 then sapStartExt port s else s) s
def execSapCmdStop (r port : Nat) (s : State) : Result :=
  byReader .session r (fun s => if port < 4 then sapStop port s else s) s
def execStopNow (r port : Nat) (s : State) : Result :=
  byReader .session r (fun s => if port < 4 then sapStopNow port s else s) s
def execSapCmdCancel (r port : Nat) (s : State) : Result :=
  byReader .session r (fun s => if port < 4 then sapCancel port s else s) s

/-- An ARMED port with START_EXT samples SAP_START at an increment to Tc (R385). -/
def samplePin (pin : Bool) (n : Nat) (s : State) : State :=
  let x := s.sap n
  if x.state == .armed && x.ext then
    if pin && !x.lastPin then
      let p0 := BitVec.ofNat 64 (x.ratio * ceilDiv (s.pos + 1) x.ratio + x.runin.toNat * x.ratio)
      s.modSap n fun x => { x with pos := p0, p0 := p0, ext := false, lastPin := true
                                   next := p0 - BitVec.ofNat 64 (x.runin.toNat * x.ratio) }
    else s.modSap n fun x => { x with lastPin := pin }
  else s

/-! ## Masks and slot maps (R379, R387, R388) -/

/-- The frame that carries a position: the last frame start position at or below it. -/
def Sap.frameOf (x : Sap) (pos : Nat) : W64 :=
  if x.p0.toNat ≤ pos then BitVec.ofNat 64 (x.p0.toNat + (pos - x.p0.toNat) / x.ratio * x.ratio)
  else BitVec.ofNat 64 (pos / x.ratio * x.ratio)

/-- A host write of SAP_MASK; `lastTwo`: it takes effect within the last two bit clocks before a frame start. -/
def writeMask (n : Nat) (v : W32) (lastTwo : Bool) (s : State) : State :=
  let x := s.sap n
  if x.txnMask.isSome && x.running then sapErr n s
  else if lastTwo && x.running then s.modSap n fun x => { x with late := some v }
  else s.modSap n fun x => { x with mask := v, late := none, wrote := true }

/-- A SAP_MASK action at its deadline N (R267, R388): host writes of the frame in progress and waiting ones are discarded
with CMD_ERR, later ones up to the frame that carries N. -/
def applyMask (n : Nat) (v : W32) (s : State) : State :=
  s.modSap n fun x =>
    if x.running then
      { x with mask := v, late := none, cmdErr := x.cmdErr || x.wrote || x.late.isSome, txnMask := some (x.frameOf s.pos) }
    else { x with mask := v, late := none }

def writeSlotMap (n slot : Nat) (v : W32) (s : State) : State :=
  let x := s.sap n
  let shadow := x.late.getD x.mask
  if x.halted || (!x.active.getLsbD slot && !shadow.getLsbD slot) then
    s.modSap n fun x => { x with map := cput 0 slot (v &&& 0x8000FFFF) x.map }
  else sapErr n s

def execSapMask (r port : Nat) (v : W32) (lastTwoClocks : Bool) (s : State) : Result :=
  byReader .session r (fun s => if port < 4 then writeMask port v lastTwoClocks s else s) s
def execSapSlotMap (r port slot : Nat) (v : W32) (s : State) : Result :=
  byReader .session r (fun s => if port < 4 && slot < 32 then writeSlotMap port slot v s else s) s

/-! ## Frames (R378, R380 to R382, R386) -/

/-- The active mask takes the shadow at a frame start; a late write follows at the next one (R387); from the frame that
carries N on, host writes are taken again (R388). -/
def takeMask (pos : W64) (x : Sap) : Sap :=
  { x with
    active := x.mask
    mask := x.late.getD x.mask
    late := none
    wrote := x.late.isSome
    txnMask := match x.txnMask with
      | some f => if f.toNat ≤ pos.toNat then none else some f
      | none => none }

/-- The word of a slot in a frame (R378); none: not driven. `silent`: run-in, run-out or underrun. -/
def slotWord (n : Nat) (silent : Bool) (pos : W64) (slot : Nat) (s : State) : Option W32 × State :=
  let x := s.sap n
  let on := x.active.getLsbD slot
  let m := cget 0 x.map slot
  let id := m.toNat % 65536
  if !on && x.tristate && x.format == 2 then (none, s)
  else if silent || !on || !m.getLsbD 31 then (some 0, s)
  else match s.plan? (s.stream id).plan.toNat with
    | some p =>
      if p.kind = 0 && p.rate == x.rate.toNat then
        match exitSample (1 + 32 * n + slot) 4 id pos.toNat s with
        | (some v, s) =>
          let w := sapBits x.width
          let (u, s) := toWire w p.plan v s
          let (u, s) := if w < 24 then (u, s) else markWord s.sec.markSap (1 + 32 * n + slot) id (pos.toNat / x.ratio) u s
          (some (BitVec.ofNat 32 (u * 2 ^ (sapBits x.slotBits - w))), s)
        | (none, s) => (some 0, s)
      else (some 0, s)
    | none => (some 0, s)

/-- A frame on its port's pins (R376, R377): slot s begins d + s × SLOT_BITS bit clocks after the frame start, most significant
bit first. -/
def Sap.line (x : Sap) (slots : List (Option W32)) : Line :=
  let b := sapBits x.slotBits
  { delay := match x.format.toNat with | 0 => 1 | 1 => 0 | _ => if x.delay then 1 else 0
    fsync := if !x.master then [] else (List.range (x.slots.toNat * b)).map fun i =>
      match x.format.toNat with | 0 => decide (b ≤ i) | 1 => decide (i < b) | _ => i == 0
    dout := slots.flatMap fun w => (List.range b).map fun i => w.map fun v => v.getLsbD (b - 1 - i) }

/-- Send the frame at a position. -/
def sendFrame (n : Nat) (silent : Bool) (pos : W64) (s : State) : State :=
  let (ws, s) := (List.range (s.sap n).slots.toNat).foldl (fun (acc : List (Option W32) × State) slot =>
    let (w, s) := slotWord n silent pos slot acc.2
    (acc.1 ++ [w], s)) ([], s)
  let s := s.modLive fun c => { c with sap := satInc c.sap }
  emit (.sapFrame n pos ws ((s.sap n).line ws)) s

/-- The state the port is in for the frame at `next` (R386). -/
def sapPhase (x : Sap) : SapState :=
  match x.p1 with
  | some p1 => if p1.toNat ≤ x.next.toNat then .runout else if x.next.toNat < x.p0.toNat then .runin else .running
  | none => if x.next.toNat < x.p0.toNat then .runin else .running

/-- Every run-out frame has been sent (R386). -/
def sapEnded (x : Sap) : Bool :=
  match x.p1 with
  | some p1 => decide (p1.toNat + (x.runout.toNat + 1) * x.ratio ≤ x.next.toNat)
  | none => false

/-- The port becomes STOPPED: event 0x0802 (R386, R391). -/
def sapEnd (n : Nat) (s : State) : State :=
  let x := s.sap n
  let s := record 0x0802 (BitVec.ofNat 32 n) (lo32 (x.p1.getD 0)) x.underrun x.overrun s
  s.modSap n fun x => { x with state := .stopped, txnMask := none, mask := x.late.getD x.mask, late := none }

/-- The frame at `next` starts; the port's state follows (event 0x0801 as it enters RUNNING), and `next` advances. -/
def takeFrame (n : Nat) (s : State) : State :=
  let x := s.sap n
  let ph := sapPhase x
  let s := s.modSap n fun x => { takeMask x.next x with state := ph, inUnder := false }
  let s := if ph == .running && x.state != .running then
      record 0x0801 (BitVec.ofNat 32 n) (lo32 x.p0) (hi32 x.p0) (if x.master then 1 else 0) s
    else s
  let s := sendFrame n (ph != .running) x.next s
  s.modSap n fun x => { x with next := x.next + BitVec.ofNat 64 x.ratio }

/-- A master port starts its next frame once the timeline has reached its position plus 1 (R380). -/
def execSapFrameStart (port : Nat) (s : State) : Result :=
  let x := s.sap port
  if port < 4 && x.master && x.state != .stopped && !x.ext && decide (x.next.toNat + 1 ≤ s.pos) then
    done (if sapEnded x then sapEnd port s else takeFrame port s)
  else .next s

/-- Frames a slave skips under overrun, by number (R381): every frame with P + SLIP × ratio at or below TL. -/
def overrunCount (x : Sap) (tl : Nat) : Nat :=
  let lim := x.slipFrames * x.ratio
  if x.next.toNat + lim ≤ tl then (tl - lim - x.next.toNat) / x.ratio + 1 else 0

/-- Skip frames under overrun; frames before P0 are not counted (R381). -/
def skipFrames (n k : Nat) (s : State) : State :=
  if k = 0 then s else
    let x := s.sap n
    let before := min k (ceilDiv (x.p0.toNat - x.next.toNat) x.ratio)
    let counted := k - before
    let s := s.modSap n fun x => { x with next := x.next + BitVec.ofNat 64 (k * x.ratio), overrun := satAdd x.overrun counted }
    if counted = 0 then s
    else fire 7 (record 0x0804 (BitVec.ofNat 32 n) (BitVec.ofNat 32 counted)
      (lo32 (x.next + BitVec.ofNat 64 (before * x.ratio))) (lo32 s.tl.pos) s)

/-- An underrun: zeros, no advance, counted, reported once a run (R381, R391). -/
def underrunFrame (n : Nat) (s : State) : State :=
  let x := s.sap n
  let s := if x.inUnder then s else fire 7 (record 0x0803 (BitVec.ofNat 32 n) (lo32 x.next) (lo32 s.tl.pos) 0 s)
  let s := s.modSap n fun x => { takeMask x.next x with underrun := satInc x.underrun, inUnder := true }
  sendFrame n true x.next s

/-- A slave port detects a frame start after a number of bit clocks (R381, R382). -/
def execSlaveFrameStart (port bitClocks : Nat) (s : State) : Result :=
  let x := s.sap port
  if !(decide (port < 4) && !x.master && x.state != .stopped && !x.ext) then .next s
  else
    let s := if x.running && bitClocks ≠ x.slots.toNat * sapBits x.slotBits then
        fire 7 (record 0x0805 (BitVec.ofNat 32 port) 2 (lo32 s.tl.pos) 0 (s.modSap port fun x => { x with frameErr := true }))
      else s
    if sapEnded x then done (sapEnd port s)
    else
      let s := skipFrames port (overrunCount x s.pos) s
      let y := s.sap port
      if sapEnded y then done (sapEnd port s)
      else if s.pos < y.next.toNat then
        (if y.state == .armed then done s
        else if y.next.toNat < y.p0.toNat then done (sendFrame port true y.next (s.modSap port (takeMask y.next)))
        else done (underrunFrame port s))
      else done (takeFrame port s)

/-- No frame start for four frame periods of a slave that heeds its clocks (R382, R386). -/
def execClkLost (port : Nat) (s : State) : Result :=
  let x := s.sap port
  if port < 4 && !x.master && x.state != .stopped && !x.ext then
    done (fire 7 (record 0x0805 (BitVec.ofNat 32 port) 1 (lo32 s.tl.pos) 0 (s.modSap port fun x => { x with clkLost := true })))
  else .next s

/-! ## Registers (R390) -/

def sapStCode : SapState → Nat
  | .stopped => 0 | .armed => 1 | .runin => 2 | .running => 3 | .runout => 4

def readSapPort (n off : Nat) (s : State) : W32 :=
  let x := s.sap n
  if 0x80 ≤ off && off ≤ 0xFC then (if off % 4 = 0 then cget 0 x.map ((off - 0x80) / 4) else 0) else
  match off with
  | 0x00 => bitAt 31 x.master ||| bitAt 30 x.tristate ||| at_ 28 x.format.toNat ||| bitAt 27 x.delay ||| at_ 22 x.rate.toNat |||
      at_ 20 x.width.toNat ||| at_ 18 x.slotBits.toNat ||| at_ 8 x.slip.toNat ||| at_ 0 x.slots.toNat
  | 0x08 => bitAt 10 x.clkLost ||| bitAt 9 x.frameErr ||| bitAt 8 x.cmdErr ||| at_ 0 (sapStCode x.state)
  | 0x0C => lo32 x.pos
  | 0x10 => hi32 x.pos
  | 0x14 => at_ 16 x.runout.toNat ||| at_ 0 x.runin.toNat
  | 0x18 => x.late.getD x.mask
  | 0x1C => x.active
  | 0x20 => x.underrun
  | 0x24 => x.overrun
  | _ => 0

/-- SAP_CFG as written. -/
def sapCfg (v : W32) (x : Sap) : Sap :=
  let f := bitsOf v.toNat
  { x with
    master := v.getLsbD 31, tristate := v.getLsbD 30, format := BitVec.ofNat 2 (f 28 2), delay := v.getLsbD 27
    rate := BitVec.ofNat 2 (f 22 2), width := BitVec.ofNat 2 (f 20 2), slotBits := BitVec.ofNat 2 (f 18 2)
    slip := BitVec.ofNat 8 (f 8 8), slots := BitVec.ofNat 6 (f 0 6) }

def sapCommand (n : Nat) (v : W32) (s : State) : State :=
  match v.toNat % 8 with
  | 1 => sapStart n s
  | 2 => sapStartExt n s
  | 3 => sapStop n s
  | 4 => sapStopNow n s
  | 5 => sapCancel n s
  | _ => sapErr n s

def writeSapPort (n off : Nat) (v : W32) (s : State) : State :=
  let x := s.sap n
  if 0x80 ≤ off && off ≤ 0xFC then (if off % 4 = 0 then writeSlotMap n ((off - 0x80) / 4) v s else s) else
  match off with
  | 0x00 => if x.state == .stopped then s.modSap n (sapCfg v) else sapErr n s
  | 0x04 => sapCommand n v s
  | 0x08 => s.modSap n fun x => { x with clkLost := w1c x.clkLost v 10, frameErr := w1c x.frameErr v 9, cmdErr := w1c x.cmdErr v 8 }
  | 0x0C => s.modSap n fun x => { x with pos := join (hi32 x.pos) v }
  | 0x10 => s.modSap n fun x => { x with pos := join v (lo32 x.pos) }
  | 0x14 => if x.state == .stopped then
      s.modSap n fun x => { x with runout := BitVec.ofNat 16 (bitsOf v.toNat 16 16), runin := v.setWidth 16 } else sapErr n s
  | 0x18 => writeMask n v false s
  | _ => s

def readSap (off : Nat) (s : State) : W32 :=
  if off = 0x400 then bitAt 0 s.wclkEn else if off < 0x400 then readSapPort (off / 0x100) (off % 0x100) s else 0
def writeSap (off : Nat) (v : W32) (s : State) : State :=
  if off = 0x400 then
    { s with wclkEn := v.getLsbD 0, tl := { s.tl with wclkOut := s.tl.wclkOut && v.getLsbD 0 } }
  else if off < 0x400 then writeSapPort (off / 0x100) (off % 0x100) v s else s

/-- WCLK_OUT falls half a nominal ts after it rose (R383). -/
def execWclkOutFall (s : State) : Result := .next { s with tl := { s.tl with wclkOut := false } }

end Sys2Proof.Machine
end

