-- ==== Sys2Proof/Machine/Txns.lean ====
section
/-! DEFINITION. Timeline-committed transactions (R259 to R276). -/

namespace Sys2Proof.Machine

/-! ## The checks (R260, R261, R264) -/

/-- What the earlier actions of a transaction make of a stream: its state and start position (R261). -/
abbrev Virt := List (Nat × StState × Option Nat)

def virtOf (v : Virt) (s : State) (id : Nat) : StState × Option Nat :=
  match v.find? (·.1 = id) with
  | some (_, st, p) => (st, p)
  | none =>
    let x := s.stream id
    (x.state, if x.state == .running || x.state == .draining then x.run.pos0.map (·.toNat) else none)

/-- Target states of R260. -/
def targetOk (op : Nat) (st : StState) : Bool :=
  match op with
  | 1 | 2 | 4 => stMoving st
  | 3 => stStill st
  | 5 | 6 => stMoving st || stStill st
  | _ => st != .free

/-- A DEST entry a stream may be bound to (R339). -/
def destFits (entry : Nat) (p : PlanEnt) (s : State) : Bool :=
  let e := s.dest entry
  let ratio := ratioOf p.rate
  match destKind e with
  | 2 => true
  | 1 => (decide (rtpFormat e < 2) || p.rate == 0) && rtpPtime e % ratio == 0 && decide (rtpPtime e / ratio * rtpBytes (rtpFormat e) ≤ 1440)
  | _ => false

/-- The failure of an action's own fields, in the order of R259 (R264, codes 0x02, 0x03, 0x0A, 0x08). `fresh`: the check is
made at arm, too, where a profile must be placeable (R266). -/
def fieldError (a : BitVec 128) (paced fresh atArm : Bool) (v : Virt) (s : State) : Option Nat :=
  let op := actionOp a
  let id := actionTarget a
  let a0 := actionArg0 a
  let a1 := actionArg1 a
  let x := s.stream id
  if !([1, 2, 3, 4, 5, 6, 0x10, 0x11].contains op) || bitsOf a.toNat 8 8 ≠ 0 then some 2
  else if op = 0x10 then (if 4 ≤ id then some 3 else if a1 ≠ 0 then some 2 else none)
  else
    let single := ((s.plan? x.plan.toNat).map (·.kind)) == some 1
    if !targetOk op (virtOf v s id).1 then some 3
    else if single && op = 0x11 && !paced then some 3
    else if single && paced && !atArm then some 0x0A
    else match op with
      | 1 =>
        if 2 ^ 20 ≤ a0 then some 2
        else if !s.profileOk a0 || (fresh && !s.placeable a0) then some 8
        else if a1 ≠ 0 then some 2 else none
      | 5 => if a0 ≠ 0 then some 2 else none
      | 6 => if a1 ≠ 0 || !fpFinitePos (BitVec.ofNat 32 a0) then some 2 else none
      | 0x11 =>
        let fits := match s.plan? x.plan.toNat with | some p => destFits a0 p s | none => false
        if a1 ≠ 0 || (a0 ≠ 0xFFFF && (4096 ≤ a0 || !fits)) then some 2 else none
      | _ => if a0 ≠ 0 || a1 ≠ 0 then some 2 else none

/-- The deadline D of an action with a commit position N, or the failure of its position: 0x04, and 0x09 of a START that breaks
the start rule of R170, whose D that rule gives, ahead of 0x05 (R260, R264; DESIGN CHOICE, notes/assumptions/66.md). -/
def pacedDeadline (a : BitVec 128) (n : Nat) (atArm : Bool) (v : Virt) (s : State) : Nat ⊕ Nat :=
  let op := actionOp a
  let id := actionTarget a
  if op = 0x10 then .inl n
  else match s.plan? (s.stream id).plan.toNat with
    | none => .inr 3
    | some p =>
      let t := p.period
      if op = 0x11 then (if n % ratioOf p.rate = 0 then .inl n else .inr 4)
      else if op = 3 then
        (if n % ratioOf p.rate ≠ 0 then .inr 4
         else if n / t < p.nlevels || (!atArm && (n / t - p.nlevels) * t < s.pos) then .inr 9
         else .inl ((n / t - p.nlevels) * t))
      else match (virtOf v s id).2 with
        | none => .inr 4
        | some p0 => if n < p0 || (n - p0) % t ≠ 0 then .inr 4 else .inl ((p0 / t - p.nlevels + (n - p0) / t) * t)

/-- When an action of an immediate transaction takes effect (R272): the next round created, ρ × T for a stream whose first
round has yet to come, TL for what acts at once, TL + 1 for SAP_MASK and DEST, the next token of an unpaced stream. -/
def immediateDeadline (a : BitVec 128) (v : Virt) (s : State) : Nat :=
  let op := actionOp a
  let id := actionTarget a
  if op = 0x10 || op = 0x11 then s.pos + 1
  else match s.plan? (s.stream id).plan.toNat with
    | none => s.pos
    | some p =>
      let (st, p0) := virtOf v s id
      if op = 3 then s.pos
      else if p.kind = 1 then (if stStill st then s.pos else nextToken.toNat)
      else match p0 with
        | none => s.pos
        | some p0 =>
          let first := (p0 / p.period - p.nlevels) * p.period
          let fresh := v.any (·.1 = id)
          if s.pos < first || (fresh && s.pos == first) then first else (s.pos / p.period + 1) * p.period

/-- What the action makes of its stream (R261). -/
def virtStep (a : BitVec 128) (n : Nat) (v : Virt) : Virt :=
  match actionOp a with
  | 3 => (actionTarget a, .running, some n) :: v
  | 4 => (actionTarget a, .stopped, none) :: v
  | _ => v

/-- The start an action sets: N, or the earliest acceptable start (R267, R272). -/
def actionStart (a : BitVec 128) (n : Option Nat) (s : State) : Nat :=
  match n with
  | some n => n
  | none => match s.plan? (s.stream (actionTarget a)).plan.toNat with
    | some p => earliestStart p s.pos
    | none => s.pos

/-- The same OP, TARGET and D is taken already (R264, code 0x06). -/
def conflicts (a : BitVec 128) (d : Nat) (taken : List (Nat × Nat × Nat)) : Bool :=
  taken.contains (actionOp a, actionTarget a, d)

/-- Keys of the actions of the other transactions of the set. -/
def State.takenBy (s : State) (self : Option W32) : List (Nat × Nat × Nat) :=
  (s.txn.set.filter fun t => some t.id != self).flatMap fun t =>
    (t.actions.zip t.deadlines).map fun (a, d) => (actionOp a, actionTarget a, d.toNat)

/-- The pin that a VOICE's arm takes, and the fetch it starts (R248, R266). -/
def pinAction (s : State) (a : BitVec 128) : State :=
  if actionOp a == 1 then
    let p := actionArg0 a % 2 ^ 20
    startFetch p (s.modProfile p fun x => { x with armPins := x.armPins + 1 })
  else s

/-- The checks of R264 action by action: the deadlines, or the first failure with its index. `n`: the commit position, none
under IMMEDIATE; `atArm`: the check of R266; the state is as the pins of the actions before make it (R261). -/
def checkActions (n : Option Nat) (atArm : Bool) :
    List (BitVec 128) → Nat → Virt → List (Nat × Nat × Nat) → List Nat → State → List Nat ⊕ (Nat × Nat)
  | [], _, _, _, ds, _ => .inl ds
  | a :: rest, i, v, taken, ds, s =>
    match fieldError a n.isSome (atArm || n.isNone) atArm v s with
    | some c => .inr (c, i)
    | none =>
      let r := match n with
        | some n => pacedDeadline a n atArm v s
        | none => .inl (immediateDeadline a v s)
      match r with
      | .inr c => .inr (c, i)
      | .inl d =>
        if n.isSome && !atArm && d ≤ s.pos + 1 then .inr (5, i)
        else if n.isSome && atArm && d ≤ s.pos then .inr (5, i)
        else if conflicts a d taken then .inr (6, i)
        else
          let st := actionStart a n s
          checkActions n atArm rest (i + 1) (virtStep a st v) ((actionOp a, actionTarget a, d) :: taken) (ds ++ [d]) (pinAction s a)

/-! ## Taking effect (R267, R272) -/

/-- One action takes effect. `start`: the S a START sets. -/
def applyAction (a : BitVec 128) (start : Nat) (s : State) : State :=
  let id := actionTarget a
  let a0 := actionArg0 a
  let attach := fun (c : Attach) => s.modStream id fun x => { x with run := { x.run with attach := x.run.attach ++ [c] } }
  match actionOp a with
  | 1 => attach (.voice (BitVec.ofNat 20 a0) true)
  | 2 => attach .reset
  | 3 => match s.plan? (s.stream id).plan.toNat with
    | some p => beginRun id p (BitVec.ofNat 64 start) s
    | none => s
  | 4 => attach .stop
  | 5 => s.modStream id fun x => { x with seed := actionArg1 a }
  | 6 => s.modStream id fun x => { x with invT := BitVec.ofNat 32 a0 }
  | 0x10 => applyMask id (BitVec.ofNat 32 a0) s
  | 0x11 => applyDest id a0 s
  | _ => s

/-- Actions of one transaction due at or before the present position take effect, in list order. -/
def applyDue (id : W32) (s : State) : State :=
  match s.txn.set.find? (·.id == id) with
  | none => s
  | some t =>
    if !t.armed then s else
      let due := fun (d : W64) (ap : Bool) => !ap && d != nextToken && decide (d.toNat ≤ s.pos)
      let s' := s.each (t.actions.zip (t.deadlines.zip t.applied)) fun s (a, d, ap) =>
        if due d ap then applyAction a (match t.pos with | some n => n.toNat | none => actionStart a none s) s else s
      s'.modTxn fun u => { u with set := u.set.map fun w => if w.id == t.id then
        { w with applied := (w.deadlines.zip w.applied).map fun (d, ap) => ap || due d ap } else w }

/-- A transaction becomes ARMED: VOICE actions pin their profiles and start their fetches, targets are held (R266, R270). -/
def armTxn (t : Txn) (s : State) : State :=
  let s := putTxn { t with armed := true } s
  let s := setOutcome ⟨t.id, .armed, 0, 0⟩ s
  refreshHolds t.targets (s.each t.actions pinAction)

/-- A pending transaction is checked again and armed, or ABORTED with event 0x0C01 (R266, R276). -/
def tryArm (id : W32) (s : State) : State :=
  match s.txn.set.find? (·.id == id) with
  | none => s
  | some t =>
    if t.armed then s else
      match checkActions (t.pos.map (·.toNat)) true t.actions 0 [] (s.takenBy (some t.id)) [] s with
      | .inl _ => armTxn t s
      | .inr (c, i) =>
        let target := ((t.actions[i]?).map actionTarget).getD 0
        let s := finishTxn t .aborted c i s
        let s := s.modTxn fun u => { u with aborts := satInc u.aborts }
        record 0x0C01 t.id (BitVec.ofNat 32 c) (BitVec.ofNat 32 i) (BitVec.ofNat 32 target) s

/-- A = D_min - 1 (R266). -/
def Txn.armPos (t : Txn) : Nat := t.deadlines.foldl (fun m d => min m d.toNat) (2 ^ 64) - 1

def insertId (n : Nat) : List Nat → List Nat
  | [] => [n]
  | x :: t => if n ≤ x then n :: x :: t else x :: insertId n t
/-- IDs of the set, ascending (R266). -/
def State.txnIds (s : State) : List Nat := s.txn.set.foldl (fun l t => insertId t.id.toNat l) []

/-- The timeline reaches a position: transactions arm, and due actions take effect (R266, R267). -/
def txnTick (s : State) : State :=
  let s := s.each s.txnIds fun s n =>
    match s.txn.set.find? (·.id.toNat == n) with
    | some t => if !t.armed && t.pos.isSome && t.armPos == s.pos then tryArm t.id s else s
    | none => s
  s.each s.txnIds fun s n => applyDue (BitVec.ofNat 32 n) s

/-- The timeline reaches N: transactions become DONE (R267). -/
def txnDone (s : State) : State :=
  let s := s.each s.txnIds fun s n =>
    match s.txn.set.find? (·.id.toNat == n) with
    | some t => if t.armed && t.pos == some s.tl.pos then doneTxn t s else s
    | none => s
  settleTxns s

/-! ## Commands (R259, R262, R263, R273) -/

def State.modSt (s : State) (r : Nat) (f : SessTxn → SessTxn) : State := s.modSess r fun x => { x with txn := f x.txn }
def txnErr (r : Nat) (s : State) : State := s.modSt r fun x => { x with cmdErr := true }

/-- The action in TXN_ACT0 to TXN_ACT3 (R259). -/
def SessTxn.action (x : SessTxn) : BitVec 128 :=
  BitVec.ofNat 128 (x.act0.toNat + x.act1.toNat * 2 ^ 32 + x.act2.toNat * 2 ^ 64 + x.act3.toNat * 2 ^ 96)

def txnAppend (r : Nat) (s : State) : State :=
  if 64 ≤ (s.sess r).txn.build.length then txnErr r s
  else s.modSt r fun x => { x with build := x.build ++ [x.action] }

def txnClear (r : Nat) (s : State) : State := s.modSt r fun x => { x with build := [] }

/-- CANCEL of a PENDING transaction (R273). -/
def txnCancel (r : Nat) (s : State) : State :=
  match s.txn.set.find? fun t => t.id == (s.sess r).txn.cancelId && !t.armed with
  | some t => finishTxn t .cancelled 0x0B 0 s
  | none => txnErr r s

/-- The position a 32-bit RTP timestamp extends to (R225); none below 0. -/
def extendRtp (x : W32) (ratio : Nat) (offset : W32) (pos : Nat) : Option Nat :=
  let k := pos / ratio
  let d := x - (BitVec.ofNat 32 k + offset)
  let n := ((k : Int) + d.toInt) * ratio
  if n < 0 then none else some n.toNat

/-- The commit position a SUBMIT names: none where it cannot be used (R262). -/
def commitPos (rtppos immediate : Bool) (y : SessTxn) (s : State) : Option Nat :=
  if !rtppos then some (join y.posHi y.posLo).toNat
  else
    let hi := y.posHi.toNat
    let e := s.dest (hi % 4096)
    if immediate || bitsOf hi 12 4 ≠ 0 || 2 ^ 18 ≤ hi || destKind e ≠ 1 then none
    else extendRtp y.posLo (ratioOf (bitsOf hi 16 2)) (BitVec.ofNat 32 (destField e 16 4)) s.pos

/-- The next ID: from 1, skipping 0 at the wrap (R263). -/
def nextTxnId (id : W32) : W32 := if id + 1 = 0 then 1 else id + 1

/-- An immediate transaction arms and acts in the cycle of its acceptance (R272). -/
def runImmediate (t : Txn) (s : State) : State :=
  let s := armTxn t s
  let s := applyDue t.id s
  let s := s.each (t.actions.zip t.deadlines) fun s (a, d) => if d == nextToken then applyAction a s.pos s else s
  let started := (t.actions.filter fun a => actionOp a == 3).map actionTarget
  let s := s.each started fun s id => joinRound id s
  settleTxns (s.each t.targets fun s id => progress id s)

/-- SUBMIT (R262 to R264, R272). -/
def txnSubmit (r : Nat) (immediate rtppos : Bool) (s : State) : State :=
  let y := (s.sess r).txn
  let id := s.txn.nextId
  let s := s.modTxn fun u => { u with nextId := nextTxnId id }
  let s := s.modSt r fun x => { x with id := id, build := [] }
  let finish := fun (c i : Nat) (s : State) => s.modSt r fun x => { x with code := BitVec.ofNat 8 c, index := BitVec.ofNat 6 i }
  let refuse := fun (c i : Nat) => finish c i (newOutcome ⟨id, .refused, BitVec.ofNat 8 c, BitVec.ofNat 6 i⟩ s)
  match commitPos rtppos immediate y s with
  | none => refuse 0x0D 0
  | some n =>
    if y.build.isEmpty then refuse 1 0
    else
      let n := if immediate then none else some n
      match checkActions n false y.build 0 [] (s.takenBy none) [] s with
      | .inr (c, i) => refuse c i
      | .inl ds =>
        if 256 ≤ s.txn.set.length then refuse 7 0
        else
          let t : Txn := { id := id, actions := y.build, pos := n.map (BitVec.ofNat 64), deadlines := ds.map (BitVec.ofNat 64)
                           applied := y.build.map fun _ => false }
          let s := s.modTxn fun u => { u with set := u.set ++ [t] }
          let s := newOutcome ⟨id, .pending, 0, 0⟩ (finish 0 0 s)
          if immediate then runImmediate t s else s

def execTxnAppend (r : Nat) (s : State) : Result := byReader .session r (fun s => txnAppend r s) s
def execTxnClear (r : Nat) (s : State) : Result := byReader .session r (fun s => txnClear r s) s
def execTxnCancel (r : Nat) (s : State) : Result := byReader .session r (fun s => txnCancel r s) s
def execTxnSubmit (r : Nat) (immediate rtppos : Bool) (s : State) : Result := byReader .session r (fun s => txnSubmit r immediate rtppos s) s

/-! ## Registers (R275) -/

def txnStCode : TxnState → Nat
  | .pending => 1 | .armed => 2 | .done => 3 | .aborted => 4 | .cancelled => 5 | .refused => 6

/-- The smallest A among PENDING transactions, or all ones. -/
def State.nextArm (s : State) : W64 :=
  (s.txn.set.filter fun t => !t.armed).foldl (fun m t => if t.armPos < m.toNat then BitVec.ofNat 64 t.armPos else m) (BitVec.allOnes 64)

def readTxn (r off : Nat) (s : State) : W32 :=
  let x := (s.sess r).txn
  match off with
  | 0x00 => x.act0
  | 0x04 => x.act1
  | 0x08 => x.act2
  | 0x0C => x.act3
  | 0x14 => BitVec.ofNat 32 x.build.length
  | 0x18 => x.posLo
  | 0x1C => x.posHi
  | 0x20 => bitAt 31 x.cmdErr ||| at_ 16 x.index.toNat ||| x.code.setWidth 32
  | 0x24 => x.id
  | 0x28 => x.cancelId
  | 0x2C => at_ 16 (s.txn.set.filter (·.armed)).length ||| at_ 0 s.txn.set.length
  | 0x30 => x.queryId
  | 0x34 => match s.txn.outcomes.find? (·.id == x.queryId) with
    | some o => at_ 29 (txnStCode o.state) ||| at_ 16 o.index.toNat ||| o.code.setWidth 32
    | none => 0
  | 0x38 => lo32 s.nextArm
  | 0x3C => hi32 s.nextArm
  | 0x40 => s.txn.aborts
  | _ => 0

def writeTxn (r off : Nat) (v : W32) (s : State) : State :=
  match off with
  | 0x00 => s.modSt r fun x => { x with act0 := v }
  | 0x04 => s.modSt r fun x => { x with act1 := v }
  | 0x08 => s.modSt r fun x => { x with act2 := v }
  | 0x0C => s.modSt r fun x => { x with act3 := v }
  | 0x10 =>
    match v.toNat % 16 with
    | 1 => txnAppend r s
    | 2 => txnSubmit r (v.getLsbD 8) (v.getLsbD 9) s
    | 3 => txnClear r s
    | 4 => txnCancel r s
    | _ => txnErr r s
  | 0x18 => s.modSt r fun x => { x with posLo := v }
  | 0x1C => s.modSt r fun x => { x with posHi := v }
  | 0x20 => s.modSt r fun x => { x with cmdErr := w1c x.cmdErr v 31 }
  | 0x28 => s.modSt r fun x => { x with cancelId := v }
  | 0x30 => s.modSt r fun x => { x with queryId := v }
  | _ => s

end Sys2Proof.Machine
end

