-- ==== Sys2Proof/Machine/Timing.lean ====
section
/-! DEFINITION. The media timeline (R205 to R228), the PTP engine's part of it (R344), the statistics boundaries (R220 to
R223, R455), and what happens as the timeline reaches a position. -/

namespace Sys2Proof.Machine

def State.modTl (s : State) (f : Timeline → Timeline) : State := { s with tl := f s.tl }
def State.modPeriod (s : State) (f : Period → Period) : State := { s with period := f s.period }
def tlErr (s : State) : State := s.modTl fun t => { t with cmdErr := true }

/-! ## Rates (R211, R226) -/

def Timeline.ppm (t : Timeline) : Int := (min 1000 (max 1 t.slew.toNat) : Nat)
def clampPpb (lim x : Int) : Int := max (-lim) (min lim x)

/-- The measured rate of WCLK_IN relative to nominal, in parts per 10^9: nominal period 62,500/3 ns over the mean. -/
def wclkPpb (periods : List Nat) : Int :=
  if periods.sum = 0 then 0 else ((62500 * periods.length * 10 ^ 9 / (3 * periods.sum) : Nat) : Int) - 10 ^ 9

/-- TL_FREQ: under PTP what the servo set, within the limit in force; that limit towards the PTP time while FAR stands (R211,
R216). -/
def Timeline.rate (t : Timeline) : W32 :=
  match t.src.toNat with
  | 0 => BitVec.ofInt 32 (clampPpb (t.ppm * 1000) t.trim.toInt)
  | 1 =>
    let lim := t.ppm * 1000
    BitVec.ofInt 32 (if t.far then (if t.lead < 0 then -lim else lim) else clampPpb lim t.freq.toInt)
  | _ => BitVec.ofInt 32 (wclkPpb t.periods)

/-- TL_OFFSET reads 0 under FREE and WCLK. -/
def Timeline.offsetReg (t : Timeline) : W32 := if t.src = 1 then t.offset else 0

/-! ## States (R213, R228) -/

def tlCode : TlState → Nat
  | .free => 0 | .acquiring => 1 | .locked => 2 | .holdover => 3

/-- Enter a state: the period's flags, LOST, events 0x0610 and 0x0611 with the timeline interrupt. -/
def enterTl (st : TlState) (s : State) : State :=
  if s.tl.state == st then s else
    let s := s.modTl fun t => { t with state := st, lost := t.lost || st == .holdover }
    let s := s.modPeriod fun p => { p with
      liveHeld := p.liveHeld || st == .holdover
      liveUnlocked := p.liveUnlocked || (s.tl.src != 0 && st != .locked) }
    let src := s.tl.src.setWidth 32
    match st with
    | .holdover => fire 0 (record 0x0610 src (lo32 s.tl.pos) (hi32 s.tl.pos) 0 s)
    | .locked => fire 0 (record 0x0611 src (lo32 s.tl.pos) (hi32 s.tl.pos) s.tl.offsetReg s)
    | _ => s

/-! ## Statistics boundaries (R220 to R223) -/

/-- A position is a boundary: congruent to ANCHOR modulo L (R220). -/
def Period.boundary (p : Period) (pos : Nat) : Bool := ((pos : Int) - p.anchor.toNat) % p.activeLen.toNat == 0

/-- The period registers latch, and a new length takes effect (R221 to R223, R226). -/
def closePeriod (cc : Nat) (pos : W64) (st : TlState) (src : BitVec 2) (p : Period) : Period :=
  { p with
    seq := p.seq + 1, cc := cc
    flags := (if p.liveUnlocked then 4 else 0) ||| (if p.liveHeld then 2 else 0) ||| (if p.liveStepped then 1 else 0)
    hold := p.liveHold, start := pos, liveStepped := false, liveHold := 0
    liveHeld := st == .holdover, liveUnlocked := src != 0 && st != .locked
    activeLen := if p.lenWaits then p.len else p.activeLen
    anchor := if p.lenWaits then pos else p.anchor, lenWaits := false }

/-- The STATS shadows latch (R455). -/
def latchStats (seq : W32) (openNow : Nat) (moving : Nat) (energy : W64) (t : Stats) : Stats :=
  let used := energy.toNat - t.energyBase.toNat
  { shadow := t.live, live := {}, seq := seq, energy := satAdd (0 : W32) used, energyBase := energy
    openEnd := BitVec.ofNat 17 openNow, peak := t.livePeak, livePeak := BitVec.ofNat 17 moving }

/-- The counts of the period that ends latch, and the QUANT counts wait for their own latch (R53, R54, R222). -/
def latchPeriod (cc : Nat) (s : State) : State :=
  let q : QuantPeriod := { seq := s.period.seq, start := s.period.start, len := s.period.activeLen, valid := s.quant.monEff
                           slots := if s.quant.monEff then s.quant.live else [] }
  let s := { s with quant := { s.quant with closing := s.quant.closing ++ [q], live := [], monEff := s.quant.monEn } }
  let start := s.period.cc
  let s := s.modPeriod (closePeriod cc s.tl.pos s.tl.state s.tl.src)
  let moving := (s.streams.filter fun e => stMoving e.2.state).length
  let s := { s with stats := latchStats s.period.seq s.openStreams moving s.pwr.energy s.stats }
  let s := { s with streams := cmap {} (fun _ x =>
    { x with emptySl := x.emptyLive, zeroSl := x.zeroLive, emptyLive := 0, zeroLive := 0 }) s.streams }
  let s := s.each (s.img.stages.map (·.stage)) fun s n => s.modStage n fun g =>
    let g := clockStage start cc g
    { g with busy := satAdd (0 : W32) g.busyLive, idle := satAdd (0 : W32) g.idleLive, busyLive := 0, idleLive := 0 }
  let s := { s with bellows := { s.bellows with channels := cmap {} (fun _ c =>
    { c with bytes := c.bytesLive, merged := c.mergedLive, bytesLive := 0, mergedLive := 0 }) s.bellows.channels } }
  { s with kl := { s.kl with links := cmap {} (fun _ k => { k with data := k.dataLive, dataLive := 0 }) s.kl.links } }

/-- The period latches where the present position is a boundary, and a position reached in HOLDOVER counts (R222, R223,
R226). -/
def reachBoundary (cc : Nat) (s : State) : State :=
  let s := if s.period.boundary s.pos then latchPeriod cc s else s
  if s.tl.state == .holdover then s.modPeriod fun p => { p with liveHold := satInc p.liveHold } else s

/-! ## Slots leaving (R171, R243, R267) -/

/-- The slots of a stream that end at the present position leave; a stream that a transaction stopped with no slot left is drained
at the position where its next one would begin. -/
def slotsLeave (s : State) (id : Nat) : State :=
  let x := s.stream id
  match x.run.pos0, s.plan? x.plan.toNat with
  | some p0, some p =>
    if p.kind = 1 then s else
      let s := s.each (x.run.tokens.filter fun t => s.tokenEnd id t == s.tl.pos) fun s t => leaveSlot id t s.tl.pos s
      if p0.toNat + x.run.slot.toNat * p.period ≤ s.pos then checkDrained id s.tl.pos s else s
  | _, _ => s

/-! ## The timeline reaches a position (R206, R470) -/

/-- Everything laid down for the core cycle in which an increment reaches a position, in order: the statistics boundary,
WCLK_OUT, START_EXT, slots that end, transactions' arms and actions, rounds, the samples that begin, transactions done. -/
def reachPosition (cc : Nat) (sapPin : Bool) (s : State) : State :=
  let s := reachBoundary cc s
  let s := s.modTl fun t => { t with wclkOut := s.wclkEn }
  let s := s.each [0, 1, 2, 3] fun s n => samplePin sapPin n s
  let ids := s.streams.map (·.1)
  let s := ids.foldl slotsLeave s
  let s := createRounds (txnTick s)
  let s := s.each ids fun s id => rtpTick id (slotStart id s)
  txnDone s

/-- TL takes a value by a step or load: STEPPED, event 0x0613 (R218, R228). `kind`: 1 STEP, 2 LOAD. -/
def jumpTo (new : W64) (kind : W32) (s : State) : State :=
  let old := s.tl.pos
  let s := s.modTl fun t => { t with pos := new, stepped := true }
  let s := s.modPeriod fun p => { p with liveStepped := true }
  fire 0 (record 0x0613 (lo32 old) (lo32 new) (hi32 new) kind s)

/-- The edge of a position in units of 2^-32 ns, rounded up (R210, R217). -/
def edgeOf (n : Nat) : Nat := ceilDiv (125000 * 2 ^ 32 * n) 6
/-- A time is at or past the edge of position n (R210). -/
def pastEdge (t n : Nat) : Bool := decide (125000 * 2 ^ 32 * n ≤ 6 * t)
/-- The position a PTP time converts to (R210). -/
def ptpPosition (sec : BitVec 48) (ns : BitVec 30) : W64 := BitVec.ofNat 64 (sec.toNat * 48000 + ns.toNat * 6 / 125000)
/-- A PTP time in units of 2^-32 ns. -/
def ptpTau (sec : BitVec 48) (ns : BitVec 30) : Nat := (sec.toNat * 10 ^ 9 + ns.toNat) * 2 ^ 32

/-- An increment is due: the timebase is past the next edge; under WCLK a qualified edge was taken while LOCKED, or the
timeline runs at its measured rate (R209, R210, R212, R213). -/
def incrementDue (tau : Nat) (s : State) : Bool :=
  !s.pwr.inReset && s.pwr.state != .shutdown &&
  if s.tl.src = 2 then (if s.tl.state == .locked then s.tl.wclkDue else true) else pastEdge tau (s.pos + 1)

def execTlIncrement (tau : Nat) (sapStart : Bool) (cc : Nat) (s : State) : Result :=
  if !incrementDue tau s then .next s
  else
    let load := s.tl.loadPending
    let s := s.modTl fun t => { t with tau := tau, wclkDue := false, loadPending := false }
    let s :=
      if load then
        let s := jumpTo s.tl.loadPos 2 s
        if s.tl.src = 0 then s.modTl fun t => { t with tau := edgeOf t.pos.toNat } else s
      else s.modTl fun t => { t with pos := t.pos + 1 }
    done (reachPosition cc sapStart s)

/-! ## Sources (R212 to R214) -/

/-- A rising edge of WCLK_IN, `since` ns after the last one that was not ignored, `sinceInc` ns after the last increment. An
edge that comes too late to be qualified starts the measure anew. -/
def execWclkInEdge (since sinceInc : Nat) (s : State) : Result :=
  if s.tl.src ≠ 2 || since < 20812 then .next s
  else if 20855 < since then done (s.modTl fun t => { t with consec := 0 })
  else
    let s := s.modTl fun t => { t with periods := (since :: t.periods).take 48 }
    let s := if s.tl.state == .holdover then enterTl .acquiring (s.modTl fun t => { t with consec := 0 }) else s
    let s := s.modTl fun t => { t with consec := t.consec + 1 }
    let s := if s.tl.state == .acquiring && 48 ≤ s.tl.consec then enterTl .locked (s.modTl fun t => { t with realign := true }) else s
    done (if s.tl.state == .locked then
        if s.tl.realign && sinceInc < 20812 then s else s.modTl fun t => { t with wclkDue := true, realign := false }
      else s)

/-- Enter HOLDOVER from LOCKED or ACQUIRING. -/
def loseSource (s : State) : State :=
  if s.tl.state == .locked || s.tl.state == .acquiring then
    enterTl .holdover (s.modTl fun t => { t with consec := 0, wclkDue := false, realign := false })
  else s

/-- No qualified edge within 31,250 ns of the last (R213). -/
def execWclkLoss (since : Nat) (s : State) : Result :=
  if s.tl.src = 2 && 31250 < since then done (loseSource s) else .next s

/-- No servo update for TL_LOSS.MS ms (R213). -/
def execPtpLoss (ms : Nat) (s : State) : Result :=
  if s.tl.src = 1 && max 1 s.tl.loss.toNat ≤ ms then done (loseSource s) else .next s

/-! ## PTP (R211, R213, R216, R344) -/

/-- An offset in ns as TL_OFFSET shows it: saturating at ±(2^31 - 1). -/
def satOffset (x : Int) : W32 := BitVec.ofInt 32 (max (-(2 ^ 31 - 1)) (min (2 ^ 31 - 1) x))

/-- FAR follows the offset in ts; setting it is event 0x0612 (R216, R228). -/
def trackFar (target : W64) (s : State) : State :=
  let far := decide (max 1 s.tl.stepThresh.toNat < (target - s.tl.pos).toInt.natAbs)
  let was := s.tl.far
  let s := s.modTl fun t => { t with far := far }
  if far && !was then
    fire 0 (record 0x0612 s.tl.offsetReg (lo32 s.tl.pos) (hi32 s.tl.pos) (BitVec.ofNat 32 s.openStreams) s)
  else s

/-- Lock and loss of lock by a servo update of an offset (R213). -/
def servoState (offset : Int) (s : State) : State :=
  let ok := decide (offset.natAbs < s.tl.lockThresh.toNat)
  let s := if s.tl.state == .holdover then enterTl .acquiring (s.modTl fun t => { t with consec := 0 }) else s
  let s := s.modTl fun t => { t with consec := if ok then t.consec + 1 else 0 }
  if s.tl.state == .acquiring && max 1 s.tl.lockCount.toNat ≤ s.tl.consec then enterTl .locked s else s

/-- A Sync whose delay measurement completes: one servo update; the servo's rate is Config.servoRate, within the limit of
R211. -/
def execPtpSync (sec : BitVec 48) (ns : BitVec 30) (offset : Int) (s : State) : Result :=
  if !s.receives || !(s.eth.ptpState == .uncalibrated || s.eth.ptpState == .slave) then .next s
  else
    let s := s.modEth fun e => { e with ptpState := .slave }
    if s.tl.src ≠ 1 then done s
    else
      let s := s.modTl fun t => { t with
        offset := satOffset offset, ptpKnown := true, lead := (ptpTau sec ns : Int) - t.tau, servoCount := t.servoCount + 1
        freq := Config.servoRate t.servoCount }
      done (trackFar (ptpPosition sec ns) (servoState offset s))

/-- Data set comparison: the fields best first, then the identity. -/
def announceKey (a : Announce) : List Nat := a.priority ++ [a.identity.toNat]
def keyBefore : List Nat → List Nat → Bool
  | x :: xs, y :: ys => if x < y then true else if y < x then false else keyBefore xs ys
  | _, _ => false

/-- A received Announce of the engine's domain: the best-master algorithm selects a better master, event 0x0604 with the
timeline waiting for its updates; one of the present master refreshes it (R344, R348). -/
def execPtpAnnounce (a : Announce) (s : State) : Result :=
  if !s.receives || a.domain ≠ s.eth.ptpDomain || s.eth.ptpState == .faulty then .next s
  else
    let select := fun (s : State) =>
      let s := s.modEth fun e => { e with master := some a, ptpState := .uncalibrated }
      fire 5 (record 0x0604 (BitVec.ofNat 32 a.identity.toNat) (BitVec.ofNat 32 (a.identity.toNat / 2 ^ 32))
        (s.eth.ptpDomain.setWidth 32) (a.steps.setWidth 32) s)
    match s.eth.master with
    | none => done (select s)
    | some m =>
      if m.identity = a.identity then done (s.modEth fun e => { e with master := some a })
      else if keyBefore (announceKey a) (announceKey m) then done (select s) else .next s

/-- Three announce intervals without an Announce from the master (R344). -/
def execAnnounceReceiptTimeout (s : State) : Result :=
  if s.eth.master.isSome then done (s.modEth fun e => { e with master := none, ptpState := .listening }) else .next s

/-! ## Steps, loads and settings (R216 to R221) -/

/-- The core cycle of a command that does not give it: some cycle at or after the last one known (a free value; R181). -/
def State.laterCycle (s : State) : Nat × State :=
  let (v, s) := s.takeFree
  (s.stages.foldl (fun m e => max m e.2.mark) s.period.cc + v.toNat, s)

/-- TL takes the converted position and the timebase the PTP time; FAR clears (R216). -/
def ptpStep (sec : BitVec 48) (ns : BitVec 30) (s : State) : State :=
  let (cc, s) := (jumpTo (ptpPosition sec ns) 1 s).laterCycle
  reachBoundary cc (s.modTl fun t => { t with tau := ptpTau sec ns, lead := 0, far := false })

def execTlAutoStep (sec : BitVec 48) (ns : BitVec 30) (s : State) : Result :=
  if s.tl.src = 1 && s.tl.far && s.tl.autoStep && s.idle && s.tl.ptpKnown then done (ptpStep sec ns s) else .next s

def tlLoad (s : State) : State :=
  if s.idle && s.tl.src ≠ 1 then s.modTl fun t => { t with loadPending := true } else tlErr s

def tlStep (sec : BitVec 48) (ns : BitVec 30) (s : State) : State :=
  if s.idle && s.tl.src = 1 && s.tl.ptpKnown then ptpStep sec ns s else tlErr s

def execTlLoad (r : Nat) (s : State) : Result := byReader .session r (fun s => tlLoad s) s
def execTlStep (r : Nat) (sec : BitVec 48) (ns : BitVec 30) (s : State) : Result := byReader .session r (fun s => tlStep sec ns s) s

/-- An accepted change of SRC (R213, R217, R219). -/
def changeSrc (src : BitVec 2) (s : State) : State :=
  let s := s.modTl fun t => { t with
    src := src, consec := 0, ptpKnown := false, far := false, wclkDue := false, realign := src == 2 }
  if src = 0 then enterTl .free s
  else
    let s := if s.tl.state == .free then enterTl .acquiring s else s
    s.modPeriod fun p => { p with liveUnlocked := p.liveUnlocked || s.tl.state != .locked }

def writeTlCtrl (v : W32) (s : State) : State :=
  let s := s.modTl fun t => { t with autoStep := v.getLsbD 2 }
  let src : BitVec 2 := v.setWidth 2
  if src = s.tl.src then s
  else if src = 3 || !s.idle then tlErr s
  else changeSrc src s

def execTlCtrl (r : Nat) (v : W32) (s : State) : Result := byReader .session r (fun s => writeTlCtrl v s) s

/-- TL_STAT_LEN takes effect at the next boundary; reserved bits are ignored (R4, R221). -/
def writeStatLen (v : W32) (s : State) : State :=
  let n : BitVec 23 := v.setWidth 23
  if 48 ≤ n.toNat && n.toNat ≤ 4800000 then s.modPeriod fun p => { p with len := n, lenWaits := true } else tlErr s

def execTlStatLen (r : Nat) (v : W32) (s : State) : Result := byReader .session r (fun s => writeStatLen v s) s

/-- A read of TL_POS_LO captures TL [63:32] for the reader (R227). -/
def readPosLo (r : Nat) (s : State) : W32 × State :=
  (lo32 s.tl.pos, s.modReader r fun x => { x with tlHi := hi32 s.tl.pos })

def execTlPosLo (r : Nat) (s : State) : Result := byReader .subset r (fun s => (readPosLo r s).2) s

/-! ## The QUANT latch (R53, R78, R136, R451) -/

/-- Events of a slot's latched counts. -/
def latchEvents (seq : W32) (s : State) (e : Nat × QuantSlot) : State :=
  let slot := BitVec.ofNat 32 e.1
  let s := if e.2.accsat = 0 then s else record 0x0103 slot seq e.2.accsat 0 s
  if e.2.drawnf = 0 then s else record 0x0105 slot (e.2.drawBy.setWidth 32) e.2.drawnf seq s

/-- The oldest closing period's counts latch: QUANT_PERIOD_SEQ rises and PERIOD fires. The command comes once every step
dispatched in it has finished, and in every case by the end of the largest budget: what a step left over still converts then is
not counted (R53; notes/assumptions/72.md). -/
def execQuantLatch (s : State) : Result :=
  match s.quant.closing with
  | [] => .next s
  | q :: rest =>
    let seq := q.seq + 1
    let s := { s with quant := { s.quant with closing := rest, shadow := { q with seq := seq } } }
    done (fire 10 (q.slots.foldl (latchEvents seq) s))

/-! ## Registers of TIMELINE and STATS (R226, R455) -/

def readTimeline (r off : Nat) (s : State) : W32 × State :=
  let t := s.tl
  let p := s.period
  match off with
  | 0x00 => (bitAt 2 t.autoStep ||| t.src.setWidth 32, s)
  | 0x04 => (bitAt 10 t.lost ||| bitAt 9 t.stepped ||| bitAt 8 t.cmdErr ||| bitAt 4 (t.far && t.autoStep) |||
      bitAt 3 t.far ||| at_ 0 (tlCode t.state), s)
  | 0x0C => readPosLo r s
  | 0x10 => ((s.reader r).tlHi, s)
  | 0x14 => (lo32 t.loadPos, s)
  | 0x18 => (hi32 t.loadPos, s)
  | 0x1C => (t.offsetReg, s)
  | 0x20 => (t.rate, s)
  | 0x24 => (t.trim, s)
  | 0x28 => (t.slew.setWidth 32, s)
  | 0x2C => (t.stepThresh.setWidth 32, s)
  | 0x30 => (at_ 16 t.lockCount.toNat ||| t.lockThresh.setWidth 32, s)
  | 0x34 => (t.loss.setWidth 32, s)
  | 0x38 => (p.len.setWidth 32, s)
  | 0x3C => (p.activeLen.setWidth 32, s)
  | 0x40 => (lo32 p.anchor, s)
  | 0x44 => (hi32 p.anchor, s)
  | 0x48 => (p.seq, s)
  | 0x4C => (p.flags.setWidth 32, s)
  | 0x50 => (p.hold, s)
  | _ => (0, s)

/-- The PTP time in ns as the last servo update left it: tau and what it lacked then. A STEP written through REG_WRITE
takes this time; the command TL_STEP carries the PTP engine's own. -/
def Timeline.ptpNow (t : Timeline) : Nat := ((t.tau : Int) + t.lead).toNat / 2 ^ 32

/-- Writes of the TIMELINE block (R226); a STEP takes Timeline.ptpNow. -/
def writeTimeline (off : Nat) (v : W32) (s : State) : State :=
  match off with
  | 0x00 => writeTlCtrl v s
  | 0x04 => s.modTl fun t => { t with lost := w1c t.lost v 10, stepped := w1c t.stepped v 9, cmdErr := w1c t.cmdErr v 8 }
  | 0x08 =>
    match v.toNat % 4 with
    | 1 => tlLoad s
    | 2 => let t := s.tl.ptpNow; tlStep (BitVec.ofNat 48 (t / 10 ^ 9)) (BitVec.ofNat 30 (t % 10 ^ 9)) s
    | 3 => tlErr s
    | _ => s
  | 0x14 => s.modTl fun t => { t with loadPos := join (hi32 t.loadPos) v }
  | 0x18 => s.modTl fun t => { t with loadPos := join v (lo32 t.loadPos) }
  | 0x24 => s.modTl fun t => { t with trim := v }
  | 0x28 => s.modTl fun t => { t with slew := v.setWidth 10 }
  | 0x2C => s.modTl fun t => { t with stepThresh := v.setWidth 23 }
  | 0x30 => s.modTl fun t => { t with lockCount := BitVec.ofNat 16 (v.toNat / 2 ^ 16), lockThresh := v.setWidth 16 }
  | 0x34 => s.modTl fun t => { t with loss := v.setWidth 16 }
  | 0x38 => writeStatLen v s
  | _ => s

def readStats (off : Nat) (s : State) : W32 :=
  let t := s.stats
  let c := t.shadow
  match off with
  | 0x00 => t.seq
  | 0x08 => lo32 c.tokens
  | 0x0C => hi32 c.tokens
  | 0x10 => c.slots
  | 0x14 => c.empty
  | 0x18 => c.zeros
  | 0x1C => c.rtp
  | 0x20 => c.sap
  | 0x24 => c.audio
  | 0x28 => c.exec
  | 0x2C => c.opens
  | 0x30 => c.refused
  | 0x34 => c.aborts
  | 0x38 => t.energy
  | 0x3C => t.openEnd.setWidth 32
  | 0x40 => t.peak.setWidth 32
  | _ => 0

end Sys2Proof.Machine
end

