-- ==== Sys2Proof/Machine/Regs.lean ====
section
/-! DEFINITION. The register space (R4 to R6, R446 to R455): the IDENT, SESSION, STREAM, QUANT and RNG blocks, and the read
and the write of any register by a reader. -/

namespace Sys2Proof.Machine

/-! ## IDENT (R447, R448) -/

/-- Geometry entries 32 to 49: the device limits. -/
def deviceLimits : List Nat :=
  [65536, 32, 2048, 64, 1048576, 65536, 8, 64, 256, 4096, 4, 32, 64, 4194304, 4096, 16, 8, 2097152]

/-- Geometry entry i. -/
def State.geom (s : State) (i : Nat) : Nat :=
  if i < 32 then (((geomTable s.ddrGb)[i]?).map (·.1)).getD 0 else (deviceLimits[i - 32]?).getD 0

def readIdent (off : Nat) (s : State) : W32 :=
  if 0x100 ≤ off && off < 0x300 then
    BitVec.ofNat 32 (s.geom ((off - 0x100) / 8) / (if off % 8 = 0 then 1 else 2 ^ 32))
  else match off with
    | 0x00 => 0x004E5950
    | 0x04 => 0x530300B0
    | 0x08 => lo32 Config.serial
    | 0x0C => hi32 Config.serial
    | 0x10 => 1
    | 0x18 => 0x0001FFFF
    | 0x1C => 0x0003FFFF
    | _ => 0

/-! ## SESSION (R250, R256, R450 to R454) -/

def State.modInt (s : State) (r : Nat) (f : SessInt → SessInt) : State := s.modSess r fun x => { x with int := f x.int }
def State.modSel (s : State) (r : Nat) (f : SessSel → SessSel) : State := s.modSess r fun x => { x with sel := f x.sel }

/-- INT_ENABLE: bits already pending that the write newly enables send a message (R452). -/
def writeIntEnable (r : Nat) (v : W32) (s : State) : State :=
  let en : BitVec 11 := v.setWidth 11
  flushInt (s.modInt r fun x => { x with enable := en, fresh := x.fresh ||| (x.pend &&& en &&& ~~~x.enable) }) r

/-- INT_DEST: with VALID the entry must have KIND ST (R453). -/
def writeIntDest (r : Nat) (v : W32) (s : State) : State :=
  let entry : BitVec 12 := v.setWidth 12
  if v.getLsbD 31 && destKind (s.dest entry.toNat) ≠ 2 then s.modInt r fun x => { x with cmdErr := true }
  else s.modInt r fun x => { x with destValid := v.getLsbD 31, destEntry := entry }

def execIntEnable (r : Nat) (v : W32) (s : State) : Result := byReader .session r (fun s => writeIntEnable r v s) s
def execIntDest (r : Nat) (v : W32) (s : State) : Result := byReader .session r (fun s => writeIntDest r v s) s

def readSession (r off : Nat) (s : State) : W32 :=
  let x := s.sess r
  let q := s.queue x.sel.queue.toNat
  let kind := match x.sel.queue.toNat % 32 with | 0 => 0 | 2 => 2 | _ => 1
  let p := s.profile x.sel.profile.toNat
  match off with
  | 0x000 => bitAt 31 x.int.cmdErr ||| bitAt 16 x.co ||| bitAt 8 x.role ||| at_ 0 (r % 8)
  | 0x004 => x.int.scratch
  | 0x008 => x.int.reqs
  | 0x010 => x.sel.stream.setWidth 32
  | 0x014 => x.sel.queue.setWidth 32
  | 0x018 => x.sel.profile.setWidth 32
  | 0x040 => if q.present then bitAt 31 true ||| at_ 29 kind ||| at_ 0 q.depth else 0
  | 0x044 => if q.present then BitVec.ofNat 32 q.base else 0
  | 0x048 => if q.present then at_ 30 1 ||| BitVec.ofNat 32 (q.base / 2 ^ 32) else 0
  | 0x04C => q.head
  | 0x050 => q.tail
  | 0x054 => at_ 16 q.lost.toNat ||| bitAt 0 x.sel.queueCmdErr
  | 0x084 => bitAt 31 x.prof.busy.isSome ||| bitAt 16 x.prof.cmdErr ||| x.prof.result.setWidth 32
  | 0x088 => at_ 30 (if p.slot.isSome then 2 else if p.stored then 1 else 0) ||| at_ 0 (s.streamPins x.sel.profile.toNat)
  | 0x08C => lo32 p.version
  | 0x090 => hi32 p.version
  | 0x094 => s.profCap.setWidth 32
  | 0x098 => BitVec.ofNat 32 (s.profiles.filter (·.2.slot.isSome)).length
  | 0x09C => BitVec.ofNat 32 (0x01000000 + r * 0x40000)
  | 0x100 => x.int.pend.setWidth 32
  | 0x104 => x.int.enable.setWidth 32
  | 0x108 => bitAt 31 x.int.destValid ||| x.int.destEntry.setWidth 32
  | 0x10C => x.int.seq
  | _ => 0

def writeSession (r off : Nat) (v : W32) (s : State) : State :=
  match off with
  | 0x000 => s.modInt r fun x => { x with cmdErr := w1c x.cmdErr v 31 }
  | 0x004 => s.modInt r fun x => { x with scratch := v }
  | 0x010 => s.modSel r fun x => { x with stream := v.setWidth 16 }
  | 0x014 => s.modSel r fun x => { x with queue := v.setWidth 21 }
  | 0x018 => s.modSel r fun x => { x with profile := v.setWidth 20 }
  | 0x04C => writeQueueHead r v s
  | 0x054 => s.modSel r fun x => { x with queueCmdErr := w1c x.queueCmdErr v 0 }
  | 0x080 => writeProfileCmd r v s
  | 0x084 => s.modProf r fun x => { x with cmdErr := w1c x.cmdErr v 16 }
  | 0x100 => s.modInt r fun x => { x with pend := w1cBits x.pend v }
  | 0x104 => writeIntEnable r v s
  | 0x108 => writeIntDest r v s
  | _ => s

/-! ## STREAM (R243, R244, R257) -/

/-- STREAM_CMD. -/
def streamCmd (r : Nat) (v : W32) (s : State) : State :=
  let id := s.selStream r
  match v.toNat % 16 with
  | 1 => startNow r s
  | 2 => doStop id s
  | 3 => doPark id s
  | 4 => doResume id s
  | 5 => doClose id s
  | 6 => doAbort r id s
  | _ => streamErr id s

def writeStream (r off : Nat) (v : W32) (s : State) : State :=
  match off with
  | 0x2004 => streamCmd r v s
  | 0x2008 => s.modStream (s.selStream r) fun x => { x with cmdErr := w1c x.cmdErr v 16 }
  | 0x200C => if (s.stream (s.selStream r)).held.isSome then streamErr (s.selStream r) s else s
  | 0x2010 => writeLoHalf r off v s
  | 0x2014 => writeSeedHi r v s
  | 0x2018 => writeInvT r v s
  | 0x201C => writeLoHalf r off v s
  | 0x2020 => writeStartHi r v s
  | 0x202C => writeLoHalf r off v s
  | 0x2030 => writeParkHi r v s
  | _ => s

/-! ## QUANT (R52, R54 to R56, R76, R95, R112, R135) -/

/-- The slot the window shows: zeros from NUM_SLOTS on. -/
def State.shownSlot (s : State) (r : Nat) : QuantSlot :=
  let i := (s.sess r).sel.mon.toNat
  if i < s.quant.numSlots.toNat then cget {} s.quant.shadow.slots i else {}

/-- MSE = round(SSE / ELEMS), SSE having 32 fractional bits. -/
def meanSquare (x : QuantSlot) : W32 := ratF32 x.sse.toNat x.elems.toNat (-32)

def readQuant (r off : Nat) (s : State) : W32 :=
  let p := s.quant.shadow
  let shown := decide ((s.sess r).sel.mon.toNat < s.quant.numSlots.toNat)
  let x := s.shownSlot r
  match off with
  | 0x00 => bitAt 0 s.quant.monEn
  | 0x04 => s.quant.numSlots.setWidth 32
  | 0x08 => p.seq
  | 0x0C => (s.sess r).sel.mon.setWidth 32
  | 0x10 => lo32 p.start
  | 0x14 => hi32 p.start
  | 0x18 => p.len.setWidth 32
  | 0x40 => lo32 x.elems
  | 0x44 => hi32 x.elems
  | 0x48 => x.clip
  | 0x4C => x.uflow
  | 0x50 => x.nonfin
  | 0x54 => x.degen
  | 0x58 => x.raises
  | 0x5C => lo32 x.sse
  | 0x60 => hi32 x.sse
  | 0x64 => meanSquare x
  | 0x68 => x.maxobs
  | 0x6C => if x.expValid then at_ 8 x.expHi.toNat ||| x.expLo.setWidth 32 else 0
  | 0x70 => bitAt 4 x.ceil ||| bitAt 3 x.expValid ||| bitAt 2 x.sseSat ||| bitAt 1 x.cntSat ||| bitAt 0 (shown && p.valid)
  | 0x74 => x.accsat
  | 0x78 => x.accnf
  | 0x7C => x.statenf
  | 0x80 => x.padonly
  | 0x84 => x.wnan
  | 0x88 => lo32 x.draws
  | 0x8C => hi32 x.draws
  | 0x90 => x.drawnf
  | _ => 0

def writeQuant (r off : Nat) (v : W32) (s : State) : State :=
  match off with
  | 0x00 => { s with quant := { s.quant with monEn := v.getLsbD 0 } }
  | 0x0C => s.modSel r fun x => { x with mon := v.setWidth 12 }
  | _ => s

/-! ## RNG (R122, R123, R132, R133) -/

def State.modRngTest (s : State) (r : Nat) (f : SessRng → SessRng) : State := s.modSess r fun x => { x with rng := f x.rng }

/-- A read of RNG_TEST_OUT_LO hashes the session's test key and captures the high word. -/
def readTestLo (r : Nat) (s : State) : W32 × State :=
  let x := (s.sess r).rng
  let h := keyHash x.seed x.stream x.tensor x.step x.elem
  (lo32 h, s.modRngTest r fun x => { x with outHi := hi32 h })

def execRngTestOutLo (r : Nat) (s : State) : Result := byReader .session r (fun s => (readTestLo r s).2) s

def readRng (r off : Nat) (s : State) : W32 × State :=
  let x := (s.sess r).rng
  match off with
  | 0x00 => (bitAt 0 s.rng.lock, s)
  | 0x04 => (lo32 s.rng.seed, s)
  | 0x08 => (hi32 s.rng.seed, s)
  | 0x10 => (lo32 x.seed, s)
  | 0x14 => (hi32 x.seed, s)
  | 0x18 => (at_ 16 x.stream.toNat ||| x.tensor.setWidth 32, s)
  | 0x1C => (x.step.setWidth 32, s)
  | 0x20 => (BitVec.ofNat 32 (x.step.toNat / 2 ^ 32), s)
  | 0x24 => (x.elem, s)
  | 0x28 => readTestLo r s
  | 0x2C => (x.outHi, s)
  | _ => (0, s)

def writeRng (r off : Nat) (v : W32) (s : State) : State :=
  match off with
  | 0x00 => if s.rng.lock then s else { s with rng := { s.rng with lock := v.getLsbD 0 } }
  | 0x04 => if s.rng.lock then s else { s with rng := { s.rng with seed := join (hi32 s.rng.seed) v } }
  | 0x08 => if s.rng.lock then s else { s with rng := { s.rng with seed := join v (lo32 s.rng.seed) } }
  | 0x10 => s.modRngTest r fun x => { x with seed := join (hi32 x.seed) v }
  | 0x14 => s.modRngTest r fun x => { x with seed := join v (lo32 x.seed) }
  | 0x18 => s.modRngTest r fun x => { x with stream := BitVec.ofNat 16 (v.toNat / 2 ^ 16), tensor := v.setWidth 16 }
  | 0x1C => s.modRngTest r fun x => { x with step := BitVec.ofNat 48 (x.step.toNat / 2 ^ 32 * 2 ^ 32 + v.toNat) }
  | 0x20 => s.modRngTest r fun x => { x with step := BitVec.ofNat 48 (v.toNat % 2 ^ 16 * 2 ^ 32 + x.step.toNat % 2 ^ 32) }
  | 0x24 => s.modRngTest r fun x => { x with elem := v }
  | _ => s

/-! ## The whole space (R446) -/

/-- A reader's read of the register at an offset (R4, R6). -/
def readReg (r off : Nat) (s : State) : W32 × State :=
  if off % 4 ≠ 0 then (0, s)
  else if off < 0x1000 then (readIdent off s, s)
  else if off < 0x2000 then (readSession r (off - 0x1000) s, s)
  else if off < 0x2100 then (readStream r off s, s)
  else
    let o := off % 0x10000
    match off / 0x10000 with
    | 0x1 => readTimeline r o s
    | 0x2 => (readTxn r o s, s)
    | 0x3 => (readStats o s, s)
    | 0x4 => (readQuant r o s, s)
    | 0x5 => if o < 0x4000 then (readSched r o s, s) else (0, s)
    | 0x6 => (readBellows r o s, s)
    | 0x7 => (readMem r o s, s)
    | 0x8 => (readProt r o s, s)
    | 0x9 => (readTag o s, s)
    | 0xA => (readEth o s, s)
    | 0xB => (readLink r o s, s)
    | 0xC => (readSap o s, s)
    | 0xD => (readSec o s, s)
    | 0xE => readEvrec r o s
    | 0xF => readPwr r o s
    | 0x10 => (readImageReg o s, s)
    | 0x11 => readRng r o s
    | _ => (0, s)

/-- A reader's write of the register at an offset (R4, R6). -/
def writeReg (r off : Nat) (v : W32) (s : State) : State :=
  if off % 4 ≠ 0 || off < 0x1000 then s
  else if off < 0x2000 then writeSession r (off - 0x1000) v s
  else if off < 0x2100 then writeStream r off v s
  else
    let o := off % 0x10000
    match off / 0x10000 with
    | 0x1 => writeTimeline o v s
    | 0x2 => writeTxn r o v s
    | 0x4 => writeQuant r o v s
    | 0x5 => if o < 0x4000 then writeSched r o v s else s
    | 0x6 => writeBellows r o v s
    | 0x7 => writeMemReg r o v s
    | 0x8 => writeProt r o v s
    | 0x9 => writeTag o v s
    | 0xA => writeEth o v s
    | 0xB => writeLinkReg r o v s
    | 0xC => writeSap o v s
    | 0xD => writeSec r o v s
    | 0xE => writeEvrec r o v s
    | 0xF => writePwr r o v s
    | 0x10 => writeImageReg o v s
    | 0x11 => writeRng r o v s
    | _ => s

/-- The W1C flags of the register at an offset. -/
def w1cFlags (off : Nat) : W32 :=
  match off with
  | 0x1000 | 0x20020 | 0xB0004 => 0x80000000
  | 0x1054 => 1
  | 0x1084 | 0x2008 => 0x10000
  | 0x1100 => 0x7FF
  | 0x10004 | 0xC0008 | 0xC0108 | 0xC0208 | 0xC0308 => 0x700
  | 0x60040 => 0x1000000
  | 0x80004 | 0x90000 => 7
  | 0xA0004 => 4
  | 0xB000C => 0x10
  | 0xD0004 => 0xF
  | 0xE0004 => 0xC0000
  | 0xF0000 => 0x1C
  | 0xF0034 => 0x300
  | 0x100008 => 0x100
  | _ => 0

/-- What a write does to a register: the flags that a hardware update of the same core cycle sets, which `raced` names, are not
cleared by it (R7). -/
def raceWrite (off : Nat) (v raced : W32) : W32 := v &&& ~~~(raced &&& w1cFlags off)

/-- A write with the updates of its core cycle. An interrupt source that fires in the cycle in which its bit is cleared counts
as a new setting (R452). -/
def writeRaced (r off : Nat) (v raced : W32) (s : State) : State :=
  let s := writeReg r off (raceWrite off v raced) s
  if off = 0x1100 then
    flushInt (s.modInt r fun x => { x with fresh := x.fresh ||| (x.pend &&& x.enable &&& (v &&& raced).setWidth 11) }) r
  else s

/-- How far the SMBus port reaches a register (R431, R441). -/
def reachOf (off : Nat) : Reach :=
  if off / 0x10000 = 0xF || (off / 0x10000 = 0xE && off ≠ 0xE003C) then .always
  else if off < 0x1000 || [0xD0000, 0xD0004, 0xD001C, 0xD0020, 0x70000, 0x70004, 0xA0000, 0xA0004, 0xA0008, 0xA000C,
      0xA0010, 0xA0014, 0xA0018, 0xA001C, 0xA0020, 0xA0024, 0x10004, 0x1000C, 0x10010, 0x100008, 0x100028,
      0x10002C].contains off then .subset
  else .session

/-- An SMBus write outside the subset: DENIED, and EVREC_STATUS.CMD_ERR too where it names EVREC_CLEAR (R422, R441). -/
def smbDenied (off : Nat) (s : State) : State := denied (if off = 0xE003C then evrecErr s else s)

/-- A write by a reader to a register: an SMBus write starts a RESET it carried at once, a session's at the end of its
message, which this command stands for (R4, R7, R429). -/
def execRegisterWrite (r : Nat) (off : W32) (v : Raced W32) (s : State) : Result :=
  if r = 8 && s.pwr.standbyOn && !s.smbReach (reachOf off.toNat) then done (smbDenied off.toNat s)
  else byReader (reachOf off.toNat) r (fun s => resetAfter (writeRaced r off.toNat v.value v.raced s)) s

/-! ## REG_READ and REG_WRITE (R332, R333) -/

/-- Consecutive registers, each read a separate access. -/
def readRegs (r : Nat) : Nat → Nat → State → List Byte × State
  | 0, _, s => ([], s)
  | n + 1, off, s =>
    let (v, s) := readReg r off s
    let (rest, s) := readRegs r n (off + 4) s
    (leBytes 4 v.toNat ++ rest, s)

def execRegRead (q : Req) (s : State) : Result :=
  done (serve 0x10 q (fun s =>
    let n := field q.payload 0 4
    if q.payload.length ≠ 4 || n < 1 || 256 < n || 2 ^ 32 ≤ q.arg.toNat || q.arg.toNat % 4 ≠ 0 then (.err 5 0 0, s)
    else
      let (b, s) := readRegs q.session.toNat n q.arg.toNat s
      (.ok b, s)) s)

/-- The pairs of a REG_WRITE. -/
def regPairs (l : List Byte) : List (Nat × W32) :=
  (List.range (l.length / 8)).map fun i => (field l (8 * i) 4, BitVec.ofNat 32 (field l (8 * i + 4) 4))

/-- REG_WRITE: refused whole where a pair's offset is misaligned; a RESET starts once the reply is sent (R333, R429). The W1C
flags of R7 are those of each register it writes. -/
def execRegWrite (c : Raced Req) (s : State) : Result :=
  let q := c.value
  let ps := regPairs q.payload
  done (resetAfter (serve 0x11 q (fun s =>
    if q.payload.length % 8 ≠ 0 || ps.isEmpty || 256 < ps.length || q.arg ≠ 0 then (.err 5 0 0, s)
    else match ps.findIdx? fun p => p.1 % 4 != 0 with
      | some i => (.err 5 i ((ps[i]?.map (·.1)).getD 0), s)
      | none => (.ok [], s.each ps fun s p => writeRaced q.session.toNat p.1 p.2 c.raced s)) s))

/-! ## MEM_READ and MEM_WRITE (R161, R277, R285, R294, R303, R318, R332, R333) -/

/-- The address and SPACE of a memory message. -/
def memAddr (q : Req) : Nat := q.arg.toNat % 2 ^ 48
def memSpace (q : Req) : Nat := q.arg.toNat / 2 ^ 48
def memArgOk (q : Req) : Bool := decide (memSpace q < 4) && memAddr q % 64 == 0

/-- First address of a session's staging buffer (R256). -/
def stageBase (r : Nat) : Nat := 0x01000000 + r * 0x40000

/-- The refusal of the first 64-byte unit that is refused: STATUS, unit, address. -/
def firstRefused (write : Bool) (tier a : Nat) (units : Nat) (s : State) : Option Reply :=
  (List.range units).findSome? fun i =>
    (hostAccess write tier (a + 64 * i) 64 s.lockedRegions s).map fun st =>
      .err st (if st = 6 then 0 else i) (if st = 6 then 0 else (a + 64 * i) % 2 ^ 32)

/-- Read 64-byte units on the full path; the first that fails is UNCORR. -/
def readUnits (tier : Nat) : Nat → Nat → Nat → State → (List Byte ⊕ Reply) × State
  | 0, _, _, s => (.inl [], s)
  | n + 1, i, a, s =>
    match readFull 1 tier a 64 s with
    | (none, s) => (.inr (.err 9 i (a % 2 ^ 32)), s)
    | (some b, s) => match readUnits tier n (i + 1) (a + 64) s with
      | (.inl t, s) => (.inl (b ++ t), s)
      | (.inr y, s) => (.inr y, s)

def runMemRead (q : Req) (s : State) : Reply × State :=
  let n := field q.payload 0 4
  if q.payload.length ≠ 4 || n < 64 || 8192 < n || n % 64 ≠ 0 || !memArgOk q then (.err 5 0 0, s)
  else if !s.mem.ready then (.err 6 0 0, s)
  else if memSpace q = 3 then (.err 8 0 (memAddr q % 2 ^ 32), s)
  else match firstRefused false (memSpace q) (memAddr q) (n / 64) s with
    | some y => (y, s)
    | none => match readUnits (memSpace q) (n / 64) 0 (memAddr q) s with
      | (.inl b, s) => (.ok b, s)
      | (.inr y, s) => (y, s)

def execMemRead (q : Req) (ups : List Upset) (s : State) : Result :=
  done (serve 0x20 q (runMemRead q) (applyUpsets ups s))

def runMemWrite (q : Req) (s : State) : Reply × State :=
  let n := q.payload.length
  let a := memAddr q
  let r := q.session.toNat
  if n < 64 || 8192 < n || n % 64 ≠ 0 || !memArgOk q then (.err 5 0 0, s)
  else if !s.mem.ready then (.err 6 0 0, s)
  else if memSpace q = 3 then
    (if a < stageBase r || stageBase r + 0x40000 < a + n then (.err 7 0 (a % 2 ^ 32), s)
     else (.ok [], s.modProf r fun x => { x with staging := cputs 0 (a - stageBase r) q.payload x.staging }))
  else match firstRefused true (memSpace q) a (n / 64) s with
    | some y => (y, s)
    | none => match ingressRest (memSpace q) [(a, n)] s with
      | (false, s) => (.err 9 0 0, ingressBad s)
      | (true, s) => (.ok [], writeTagged (memSpace q) a q.payload 0xFFFF true (fun g => g) s)

def execMemWrite (q : Req) (ups : List Upset) (s : State) : Result :=
  done (serve 0x21 q (runMemWrite q) (applyUpsets ups s))

/-! ## The SMBus port (R431, R439 to R442) -/

/-- One register read over SMBus: outside the subset it reads 0 and sets DENIED. -/
def smbRead (s : State) : W32 × State :=
  let off := s.smbOff.toNat
  let s := { s with smbOff := s.smbOff + 4 }
  if s.smbReach (reachOf off) then readReg 8 off s else (0, denied s)

def smbReads : Nat → State → List Byte × State
  | 0, s => ([], s)
  | n + 1, s =>
    let (v, s) := smbRead s
    let (rest, s) := smbReads n s
    (leBytes 4 v.toNat ++ rest, s)

/-- A block write of 4 bytes with PEC: its PEC byte is NACKed where it is wrong (R439). -/
def smbWrite (data : List Byte) (pecOk : Bool) (f : W32 → State → State) (s : State) : Result :=
  if !s.pwr.standbyOn then .next s
  else if !pecOk then done (emit .smbusNack (s.modPwr fun x => { x with pecErr := true }))
  else if data.length ≠ 4 then done (emit .smbusNack s)
  else done (f (BitVec.ofNat 32 (leNat data)) s)

def execSetOffset (data : List Byte) (pecOk : Bool) : State → Result :=
  smbWrite data pecOk fun v s => { s with smbOff := v }

/-- WRITE: the register at the offset, which advances; a RESET starts once the write completes (R7, R429, R440). -/
def execWrite (data : Raced (List Byte)) (pecOk : Bool) : State → Result :=
  smbWrite data.value pecOk fun v s =>
    let off := s.smbOff.toNat
    let s := { s with smbOff := s.smbOff + 4 }
    if s.smbReach (reachOf off) then resetAfter (writeRaced 8 off v data.raced s) else smbDenied off s

def smbReply (n : Nat) (s : State) : Result :=
  if !s.pwr.standbyOn then .next s
  else
    let (b, s) := smbReads n s
    done (emit (.smbus b) s)

def execRead (s : State) : Result := smbReply 1 s
def execRead8 (s : State) : Result := smbReply 8 s

/-- The Alert Response Address is answered with the port's 7-bit address; ALERT_N is not released (R442). -/
def execAlertResponse (s : State) : Result :=
  if s.pwr.standbyOn then done (emit (.smbus [BitVec.ofNat 8 s.smbAddr]) s) else .next s

/-- A stalled transaction is abandoned: none of its access has been made (R439). -/
def execSmbusTimeout (s : State) : Result := .next s

/-! ## The test port (R393) -/

/-- A test instruction: 0 IDCODE and 1 BYPASS always answer, any other one in PROVISIONING only. -/
def execBoundaryScanAccess (ir : Nat) (s : State) : Result :=
  if ir < 2 || s.sec.lifecycle == .provisioning then .next (emit (.tap ir) s) else .next s

end Sys2Proof.Machine
end

