-- ==== Sys2Proof/Machine/Records.lean ====
section
/-! DEFINITION. The records of a step program on one row: MATMUL (R62 to R76, R149), GATE with the cells (R79 to R98, R150),
CONVERT (R41 to R50, R151), WINDOW (R102 to R115, R152), SAMPLE (R120 to R126, R153). -/

namespace Sys2Proof.Machine

/-! ## What a record works on -/

/-- A record on one row: image, program, record and its number, the step's repetition, the row and its operands, link
operands as loaded, tensors and rescale table, key/value entries, delayed-scale record, history; `free`: the number of its
first free value. -/
structure Work where
  m : Image
  g : ProgEnt
  op : Nat
  r : Rec
  rep : Nat
  reps : Nat
  row : Row
  x : OpInput
  ins : List Loaded := []
  tens : List (Nat × List Byte) := []
  table : List W32 := []
  kv : List (Nat × List Byte) := []
  scale : ScaleRec := {}
  hist : List W32 := []
  cleared : Nat := 0
  keyId : W16 := 0
  free : Nat := 0

/-- Positions of the chunk. -/
def Work.pos (c : Work) : Nat := max 1 c.x.positions
/-- The n-byte field of the record at byte o. -/
def Work.f (c : Work) (o n : Nat) : Nat := field c.r.bytes o n

/-- An element that no operand gives: a free value. -/
def Work.unset (c : Work) (i : Nat) : W32 := (Config.freeValue (c.free + i)).setWidth 32
/-- A list brought to a length. -/
def Work.fill (c : Work) (n : Nat) (l : List W32) : List W32 :=
  l.take n ++ (List.range (n - l.length)).map fun i => c.unset (l.length + i)
def Work.fillCodes (c : Work) (fmt n : Nat) (l : List Nat) : List Nat :=
  l.take n ++ (List.range (n - l.length)).map fun i => (c.unset (l.length + i)).toNat % 2 ^ fmtBits fmt

/-- Regions of a tensor the step has read: codes, scales, side list. -/
def Work.regions (c : Work) (t : TensorEnt) : List Byte × List Byte × List Byte :=
  let b := ((c.tens.find? (·.1 = t.tid)).map (·.2)).getD []
  (b.take t.codesLen, slice t.codesLen t.scalesLen b, b.drop (t.codesLen + t.scalesLen))
/-- Elements of a constant tensor; none where the record names none. -/
def Work.constants (c : Work) (tid : Nat) : List W32 :=
  match c.m.tensor? tid with
  | some t => t.values (c.regions t).1
  | none => []

/-! ## Operands and destinations (R150) -/

/-- Words that stand at a state word: those of the cell that begins there, or one vector. -/
def Image.ramLen (m : Image) (g : ProgEnt) (unit w : Nat) : Nat :=
  match g.recs.find? fun r => r.isCell && r.unit == unit && field r.bytes 10 2 % 2 ^ 14 == w with
  | some r => m.cellSize g r
  | none => 64

/-- An accumulator as a plain operand: A_n in FP32. -/
def Acc.value (x : Acc) : W32 := if x.nonFinite then qnan else x.a.f32

/-- A source operand; `k`: which link operand it is. -/
def Work.source (c : Work) (env : RowEnv) (o k : Nat) : List W32 :=
  let i := o % 2 ^ 14
  match o / 2 ^ 14 with
  | 0 => cget [] env.regs (c.r.unit * 65536 + i)
  | 1 => env.elems c.row c.pos c.r.unit i (c.m.ramLen c.g c.r.unit i)
  | 2 => (cget [] env.accs c.r.unit).map Acc.value
  | _ => ((c.ins[k]?).map Loaded.values).getD []

/-- Link operands before a record's second source. -/
def secondLink (a : Nat) : Nat := if a / 2 ^ 14 = 3 then 1 else 0
def Work.srcA (c : Work) (env : RowEnv) : List W32 := c.source env (c.f 12 2) 0
def Work.srcB (c : Work) (env : RowEnv) : List W32 := c.source env (c.f 14 2) (secondLink (c.f 12 2))

/-- A list cut into one vector for each position. -/
def Work.byPos {α : Type} (c : Work) (l : List α) : List (List α) := chunksOf (max 1 (ceilDiv l.length c.pos)) l

def RowEnv.put (env : RowEnv) (x : OpResult) : RowEnv := { env with out := env.out ++ [x] }
/-- A result of the record. -/
def Work.result (c : Work) : OpResult := { record := c.op, stream := c.row.stream, link := c.x.out, scaleAt := c.x.scaleAt }

/-! ## MATMUL -/

/-- The activation row of a chunk position; a ring member's stretch begins at context position `lo` (R75). -/
def Work.arow (c : Work) (len lo p : Nat) : ARow :=
  let act := (c.ins.head?).getD {}
  let grouped := (c.f 9 1).testBit 1
  let per := ceilDiv len 64
  let codes := c.fillCodes (c.f 8 1 / 16) len ((act.codes.drop (p * len)).take len)
  { fmt := c.f 8 1 / 16, codes := List.replicate lo 0 ++ codes, grouped := grouped
    pairs := if grouped then List.replicate (lo / 64) (one, 0) ++ (act.pairs.drop (p * per)).take per else act.pairs.take 1 }

/-- The code of 1.0 in a value format (R73). -/
def oneCode (fmt : Nat) : Nat := match fmt with | 3 => 0x38 | 4 => 0x3C | 1 => 0x3F80 | 2 => 0x3C00 | _ => 1

/-- Key/value state as the weights of an output channel for a chunk position (R72, R73): of scores the entry of the channel's
context position; of values the channel's code of every entry, 1.0 in the last channel. -/
def Work.kvRow (c : Work) (env : RowEnv) (k : KvRef) (p j : Nat) : WRow :=
  let fmt := c.f 8 1 % 16
  let (n, len) := (c.f 12 4, c.f 16 4)
  if k.value then
    let top := if k.span.isSome then kvLast k c.row c.pos else c.row.own p + 1
    let bytes := packedBytes fmt (n - 1)
    let code := fun q => if j + 1 = n then oneCode fmt else codeAt fmt (leNat (env.entryAt c.row c.kv k.off bytes p q)) j
    { fmt := fmt, span := some (kvFirst k, top)
      codes := (List.range (min len top)).map fun q => if q < kvFirst k then 0 else code q }
  else
    let b := env.entryAt c.row c.kv k.off (packedBytes fmt len) p (kvFirst k + j)
    { fmt := fmt, codes := (List.range len).map (codeAt fmt (leNat b)) }

/-- The weights of an output channel for a chunk position. -/
def Work.wrow (c : Work) (env : RowEnv) (p j : Nat) : WRow :=
  match c.x.kv with
  | some k => c.kvRow env k p j
  | none => match c.m.tensor? (c.f 20 2) with
    | some t => let (a, b, d) := c.regions t; t.row a b d j
    | none => { fmt := c.f 8 1 % 16, codes := [] }

/-- A score that no context position stands behind is -inf, which gives p = +0 (R90). -/
def Work.noScore (c : Work) (p j : Nat) : Bool :=
  match c.x.kv with
  | some k => !k.value && !kvAttends k c.row p (kvFirst k + j)
  | none => false

/-- C_n of an output channel (R37, R149). -/
def Work.cOf (c : Work) (j : Nat) : W32 := if c.r.usesTable then el c.table j else BitVec.ofNat 32 (c.f 24 4)

/-- An accumulator of a chunk position and output channel. -/
def Work.acc (c : Work) (env : RowEnv) (a : ARow) (p j : Nat) : Acc :=
  if c.noScore p j then { a := .inf true, c := c.cOf j, sa := a.scale, n := j }
  else
    let w := c.wrow env p j
    let (v, sat, bad) := product (sfield c.r.bytes 10 2) (c.f 16 4) w a
    { a := v, sat := sat, nonFinite := bad, c := c.cOf j, o := outlierSum w a, sa := a.scale, n := j }

/-- The nodes other members of a ring have sent, by chunk position and output channel (R75). -/
def Work.ringParts (c : Work) : List (Nat × Part) := c.ins.flatMap fun l => readParts (l.codes.map (BitVec.ofNat 32))

/-- The owner completes the tree of a channel from the nodes of its ring (R75); what is not known then is a free value. -/
def Work.completed (c : Work) (p j : Nat) : Acc :=
  let ch := p * c.f 12 4 + j
  let held := c.ringParts.filterMap fun (k, x) => if k = ch then some x else none
  let fp := (WRow.fp { fmt := c.f 8 1 % 16, codes := [] })
  let b := ceilDiv (c.f 16 4) 64
  let sa := (((c.ins.head?).bind fun l => l.pairs.head?).map (·.1)).getD one
  match partTree (Node.add fp) held b ((List.range b).map fun i => Part.known held ⟨i, 1, none⟩) with
  | [⟨_, _, some x⟩] =>
    let (v, sat, bad) := x.result fp
    { a := v, sat := sat, nonFinite := bad, c := c.cOf j, sa := sa, n := j }
  | _ => { a := fval (c.unset ch), c := c.cOf j, sa := sa, n := j }

/-- A member's value product over its own stretch: the largest complete nodes of every channel (R71, R75). -/
def Work.members (c : Work) (env : RowEnv) (k : KvRef) : List W32 :=
  let lo := kvFirst k
  let top := kvLast k c.row c.pos
  (List.range c.pos).flatMap fun p =>
    let a := c.arow (top - lo) lo p
    (List.range (c.f 12 4)).flatMap fun j =>
      (partNodes (sfield c.r.bytes 10 2) (c.f 16 4) (c.wrow env p j) a (lo / 64) (ceilDiv top 64) []).flatMap (Part.words (p * c.f 12 4 + j))

/-- MATMUL (R62 to R76, R149). -/
def Work.matmul (c : Work) (env : RowEnv) : RowEnv × Tally :=
  match c.x.ring, c.x.kv with
  | 2, some k => (env.put { c.result with words := c.members env k }, {})
  | role, _ =>
    let accs := (List.range c.pos).flatMap fun p =>
      let a := c.arow (c.f 16 4) 0 p
      (List.range (c.f 12 4)).map fun j => if role = 3 then c.completed p j else c.acc env a p j
    ({ env with accs := cput [] c.r.unit accs env.accs },
      { accsat := (accs.filter (·.sat)).length, accnf := (accs.filter (·.nonFinite)).length })

/-! ## GATE -/

/-- A unary operation of the gate pipeline (R81, R84 to R87). -/
def gateUnary (op : Nat) : Option (W32 → W32) :=
  match op with
  | 6 => some fabs | 7 => some fneg | 9 => some fsqrt | 10 => some exp2 | 11 => some recip | 12 => some fexp
  | 13 => some sigmoid | 14 => some ftanh | 15 => some softplus | _ => none
def gateBinary (op : Nat) : Option (W32 → W32 → W32) :=
  match op with
  | 1 => some fadd | 2 => some fsub | 3 => some fmul | 4 => some fmax | 5 => some fmin | _ => none

/-- Two operands element by element. -/
def Work.both (c : Work) (env : RowEnv) : List (W32 × W32) :=
  let a := c.srcA env
  let b := c.srcB env
  let n := max a.length b.length
  (c.fill n a).zip (c.fill n b)

/-- Attention's row operations (R74, R75, R90). A record whose SRC_B is 0xFFFF forms p, any other one forms o (DESIGN CHOICE:
R90 gives one opcode for both; notes/assumptions/64.md). In a ring's first circulation the row's own largest finite score and
those of the other members give m; in its second, m comes with the query block. -/
def Work.attention (c : Work) (env : RowEnv) : List W32 :=
  let rows := c.byPos (c.srcA env)
  match c.x.ring with
  | 1 => (rows.zipIdx).map fun (x, p) => scoreMax (x ++ ((c.byPos (c.srcB env))[p]?).getD [])
  | 2 => (rows.zipIdx).flatMap fun (x, p) => attentionWeights (((c.srcB env)[p]?).getD (c.unset p)) x
  | _ => rows.flatMap fun x => if c.f 14 2 = 0xFFFF then attentionWeights (scoreMax x) x else attentionOut x

/-- The result of a GATE record that is no cell (R79 to R90, R150). -/
def Work.gate (c : Work) (env : RowEnv) : List W32 :=
  let op := c.f 8 1
  let a := c.srcA env
  let rows := c.byPos a
  match gateUnary op, gateBinary op with
  | some g, _ => a.map g
  | _, some g => (c.both env).map fun (x, y) => g x y
  | _, _ =>
    match op with
    | 0x08 =>
      let l := c.both env
      let per := max 1 (ceilDiv l.length c.pos)
      l.zipIdx.map fun (x, i) => fread (if c.row.mark = some (i / per) then x.2 else x.1)
    | 0x10 =>
      let bias := c.constants (c.f 14 2)
      let per := max 1 (ceilDiv a.length c.pos)
      let accs := if c.f 12 2 / 2 ^ 14 = 2 then cget [] env.accs c.r.unit
        else a.zipIdx.map fun (v, i) => ({ a := fval v, n := i % per } : Acc)
      accs.map fun x => rescale x (el bias x.n)
    | 0x11 =>
      let gamma := c.constants (c.f 14 2)
      rows.flatMap fun x => rmsNorm x gamma (BitVec.ofNat 32 (c.f 16 4)) (BitVec.ofNat 32 (c.f 20 4))
    | 0x12 =>
      let t := c.constants (c.f 14 2)
      rows.flatMap fun x =>
        layerNorm x (t.take x.length) ((t.drop x.length).take x.length ++ List.replicate x.length 0)
          (BitVec.ofNat 32 (c.f 16 4)) (BitVec.ofNat 32 (c.f 20 4))
    | 0x13 => c.attention env
    | 0x14 => rows.map rowSum
    | _ => []

/-- The states of a GRU or LSTM cell after each position (R92, R93, R98): its state words, and INIT, have been loaded. -/
def Work.cell (c : Work) (env : RowEnv) : List (List W32) :=
  let lstm := c.f 8 1 == 0x21
  let size := c.m.cellSize c.g c.r
  let n := if lstm then size / 2 else size
  let per := max 1 ((if lstm then 4 else 3) * n)
  let dst := c.f 10 2 % 2 ^ 14
  let xs := c.fill (c.pos * per) (c.srcA env)
  let hs := c.fill (c.pos * per) (c.srcB env)
  let lanes := fun (drop : Nat) => ((List.range (ceilDiv size 64)).flatMap fun i =>
    ((cget [] env.carried (c.r.unit * 65536 + dst + i)).drop drop).take 64).take size
  let old := match cget [] env.words (c.r.unit * 65536 + dst) with
    | [] => lanes 0
    | _ => ((List.range (ceilDiv size 64)).flatMap fun i => env.word c.row (c.r.unit * 65536 + dst + i) (c.pos - 1)).take size
  cellRun (if lstm then lstmStep n else gruStep n) (chunksOf per xs) (chunksOf per hs) (lanes 64) c.row.mark old

/-- Non-finite elements that a cell writes, at every position, and the lowest index among those of the first such position
(R94, R96). -/
def cellTally (sts : List (List W32)) : Tally :=
  let bad := sts.map fun st => (st.zipIdx.filter fun v => !(fval v.1).isFin).map (·.2)
  { statenf := (bad.map List.length).sum, stateAt := (((bad.find? (!·.isEmpty)).bind List.head?)).getD 0 }

/-- A GATE result goes to lane registers, accumulators or a link; state words are the step's own (R150). -/
def Work.dest (c : Work) (ws : List W32) (env : RowEnv) : RowEnv :=
  let o := c.f 10 2
  let i := o % 2 ^ 14
  match o / 2 ^ 14 with
  | 0 => { env with regs := cput [] (c.r.unit * 65536 + i) ws env.regs }
  | 1 => env.putElems c.row c.r.unit i (c.byPos ws)
  | 2 =>
    let per := max 1 (ceilDiv ws.length c.pos)
    { env with accs := cput [] c.r.unit (ws.zipIdx.map fun (v, i) => { a := fval v, n := i % per }) env.accs }
  | _ => env.put { c.result with words := ws }

/-! ## CONVERT -/

/-- The position of a row's mark in the input of a window operation. -/
def Row.winMark (row : Row) (w : Win) : Option Nat := row.mark.map fun o => ceilDiv (o * w.num) w.den

/-- A row's input of a window operation, but for its elements. -/
def Work.winIn (c : Work) (w : Win) : WinIn :=
  { x := [], hist := c.hist, h := if c.r.isStream then c.r.history else 0, cleared := c.cleared, mark := c.row.winMark w }

/-- Elements of a converted row at or past its reset mark (R46): output positions of the window operation before it, or
positions of the chunk. -/
def Work.afterMark (c : Work) (plane : Option Nat) (per i : Nat) : Bool :=
  match plane with
  | some len =>
    let w := readWin (((c.g.recs[c.op - 1]?).map (·.bytes)).getD [])
    !c.row.rst || (c.winIn w).fresh w (i % max 1 len)
  | none => !c.row.rst || decide (c.row.rstOff ≤ i / per)

/-- The delayed-scale record a conversion leaves, as the words of its result. -/
def scaleWords (q : ScaleRec) : List W32 :=
  (match q.eRaise with | some e => [1, e.setWidth 32] | none => [0, 0]) ++ [q.ePrev.setWidth 32] ++ q.maxima

/-- CONVERT (R41 to R50, R151). The result's words are the delayed-scale record it leaves; its codes may be key/value state. -/
def Work.convert (c : Work) (env : RowEnv) : RowEnv × Tally :=
  let xs := match env.plane with
    | some (ws, _) => ws
    | none => c.source env (c.f 32 2) 0
  let len := env.plane.map (·.2)
  let per := max 1 (len.getD (ceilDiv xs.length c.pos))
  let y := convertRow (readConv c.r.bytes) c.scale c.row.rst (c.afterMark len per) per xs
  let kv := match c.x.kvOut with
    | some off => (c.byPos y.codes).zipIdx.map fun (l, p) => (p, off, packCodes (c.f 8 1 / 16) l)
    | none => []
  let out : OpResult := { c.result with
    words := match y.scale with | some q => scaleWords q | none => []
    codes := y.codes, plane := len.getD 0, pairs := y.pairs.flatMap fun p => [p.1, BitVec.ofInt 32 p.2] }
  (({ env with plane := none, kv := kv ++ env.kv }).put out, y.tally)

/-! ## WINDOW -/

/-- WINDOW (R102 to R115, R152). An ARGMAX's codes are its class indices; of a streaming operation the history it leaves and
how many of its positions a reset set to +0 are a result of their own. -/
def Work.window (c : Work) (env : RowEnv) : RowEnv × Tally :=
  let w := readWin c.r.bytes
  let i := { c.winIn w with x := c.fill (w.cIn * w.len) (((c.ins.head?).map Loaded.values).getD []) }
  if w.op = 4 then
    let es := (List.range w.len).map (argmaxAt w i.x)
    (env.put { c.result with codes := es.map (·.1) }, { wnan := (es.filter (·.2)).length })
  else
    let len := c.r.outLen.toNat
    let bias := if w.op ≤ 1 && w.bias ≠ 0xFFFF then c.constants w.bias else []
    let ys := winOut w i (c.constants w.taps) bias len
    let (hist, zeros) := winHistory w i
    let env := if c.r.isStream then env.put { record := c.op, stream := c.row.stream, words := hist ++ [BitVec.ofNat 32 zeros] } else env
    ({ env with plane := some (ys, len) }, { padonly := padOnly w i (if w.op ≤ 1 then w.cOut else w.cIn) len })

/-! ## SAMPLE -/

/-- The step number of a position's draws (R98, R122): the position count, from 0 at the mark. -/
def Work.number (c : Work) (p : Nat) : Nat :=
  if c.row.rst && c.row.rstOff ≤ p then p - c.row.rstOff
  else c.row.base * c.reps * c.pos / max 1 c.row.chunk + c.rep * c.pos + p - if c.row.rst then 0 else c.row.rstOff

/-- SAMPLE (R120 to R126, R153): codes are the class indices, draw by draw within each position. -/
def Work.sample (c : Work) (env : RowEnv) : RowEnv × Tally :=
  let scores := ((c.ins.head?).map Loaded.values).getD []
  let (n, d) := (c.f 10 2, c.f 9 1)
  let greedy := !(c.f 8 1).testBit 4
  let invT := if (c.f 8 1).testBit 5 then c.row.invT else BitVec.ofNat 32 (c.f 16 4)
  let all := c.fill (c.pos * d * n) scores
  let ds := (List.range c.pos).flatMap fun p => (List.range d).map fun j =>
    draw greedy (c.f 14 1) invT
      (fun i => gumbel (keyHash c.row.seed c.keyId (BitVec.ofNat 16 (c.f 12 2)) (BitVec.ofNat 48 (c.number p)) (BitVec.ofNat 32 (j * 4096 + i))))
      ((all.drop ((p * d + j) * n)).take n)
  (env.put { c.result with codes := ds.map (·.1) }, { draws := ds.length, drawnf := (ds.filter (·.2)).length })

/-! ## One record on one row: what it reads, then what it does -/

/-- State words that a record's sources are. -/
def Work.ramSources (c : Work) : List (Nat × Nat) :=
  let at_ := fun (o : Nat) => if inRam o then [((o % 2 ^ 14 : Nat), ceilDiv (c.m.ramLen c.g c.r.unit (o % 2 ^ 14)) 64)] else ([] : List (Nat × Nat))
  match c.r.cls with
  | 1 => at_ (c.f 12 2) ++ (if [1, 2, 3, 4, 5, 8, 0x13, 0x20, 0x21].contains (c.f 8 1) then at_ (c.f 14 2) else []) ++
      (if c.r.isCell then [(c.f 10 2 % 2 ^ 14, ceilDiv (c.m.cellSize c.g c.r) 64)] else [])
  | 2 => at_ (c.f 32 2)
  | _ => []

/-- Ranges of state words one after another. -/
def takeRanges (x : Sel) (op slot : Nat) (row : Row) (unit : Nat) : List (Nat × Nat) → RowEnv → State → Got RowEnv
  | [], env, s => (some env, s)
  | (w, n) :: t, env, s => chain (takeRam x op slot row unit w n env s) fun env s => takeRanges x op slot row unit t env s

/-- Elements that earlier segments of the step loaded for an operand come before those loaded now. -/
def Loaded.after (l : Loaded) (held : List (Nat × List Nat × List Nat)) (k : Nat) : Loaded :=
  let mine := held.filter (·.1 = k)
  if mine.isEmpty then l
  else { l with codes := mine.flatMap (·.2.1) ++ l.codes, pairs := mine.flatMap (fun h => pairsOf h.2.2) ++ l.pairs
                count := (mine.flatMap (·.2.1)).length + l.codes.length }

/-- The operands of a row's record, each of the link that its place among the record's links gives. -/
def takeOperands (x : Sel) (op : Nat) (r : Rec) (row : Row) (y : OpInput) (s : State) : Got (List Loaded) :=
  let w := readWin r.bytes
  let i : WinIn := { x := [], hist := [], h := 0, cleared := 0, mark := row.winMark w }
  let reads := if r.cls = 3 then some (w.reads i r.outLen.toNat) else none
  let os := y.ins.zipIdx.filterMap fun (o, k) => ((r.inLink k).bind s.img.link?).map fun e => (e, o)
  gather (takeOperand x op r reads) os s

/-- What key/value state a row's record reads. -/
def Work.takeKv (c : Work) (x : Sel) (env : RowEnv) (s : State) : Got (List (Nat × List Byte)) :=
  match c.x.kv with
  | some k => Machine.takeKv x c.op k c.row env c.pos (packedBytes (c.f 8 1 % 16) (if k.value then c.f 12 4 - 1 else c.f 16 4)) s
  | none => (some [], s)

/-- A record's effect on a row once it has read what it needs. -/
def Work.finish (c : Work) (x : Sel) (slot : Nat) (env : RowEnv) (s : State) : Got (RowEnv × Tally) :=
  match c.r.cls with
  | 0 => (some (c.matmul env), s)
  | 1 =>
    if c.r.isCell then
      let sts := c.cell env
      (some (env.putElems c.row c.r.unit (c.f 10 2 % 2 ^ 14) sts, cellTally sts), s)
    else
      let ws := c.gate env
      let dst := c.f 10 2
      if inRam dst then
        chain (takeRam x c.op slot c.row c.r.unit (dst % 2 ^ 14) (ceilDiv (ceilDiv ws.length c.pos) 64) env s) fun env s =>
          (some (c.dest ws env, {}), s)
      else (some (c.dest ws env, {}), s)
  | 2 => (some (c.convert env), s)
  | 3 => (some (c.window env), s)
  | 4 => (some (c.sample env), s)
  | _ => (some (env, {}), s)

/-- One record on one row: its operands, state, key/value entries and records of the carved regions are read, then it runs. -/
def runRow (x : Sel) (op : Nat) (r : Rec) (tens : List (Nat × List Byte)) (table : List W32) (rows : List RowInput)
    (y : Row × Nat × RowEnv) (s : State) : Got (RowEnv × Tally) :=
  let (row, slot, env) := y
  let ins := ((rows.find? (·.stream = row.stream)).bind fun i => i.recs.find? (·.record = op)).getD ⟨op, 1, [], none, none, none, none, 0⟩
  let c : Work := {
    m := s.img, g := x.g, op := op, r := r, rep := x.t.rep, reps := kindReps x.t.kind, row := row, x := ins, tens := tens, table := table
    keyId := (s.stream row.stream).keyId, cleared := cget 0 s.cleared (ctxKey row.stream x.g.prog op), free := s.free }
  let s := { s with free := s.free + 2 ^ 32 }
  chain (takeOperands x op r row ins s) fun ops s =>
    chain (takeRanges x op slot row r.unit c.ramSources env s) fun env s =>
      chain (c.takeKv x env s) fun kv s =>
        chain (if r.isDelayed && !row.rst then takeScaleRec x op row.stream s else (some {}, s)) fun q s =>
          let (hist, s) := if r.isStream then takeHistory x op r row.stream s else ([], s)
          let held := ops.zipIdx.map fun (l, k) => l.after env.held k
          { c with ins := held, kv := kv, scale := q, hist := hist }.finish x slot { env with held := [] } s

end Sys2Proof.Machine
end

