-- ==== Sys2Proof/Machine/Steps.lean ====
section
/-! DEFINITION. Steps: selection with the reads and checks of R320 and R302, the waits and stalls of R175, completion with
everything a step writes (R233, R235, R316, R317), the watchdog (R179). -/

namespace Sys2Proof.Machine

/-! ## Which step (R174, R176) -/

/-- The first READY step among the 64 of the scoreboard; none while the stage is trapped or runs one. -/
def Stage.next (g : Stage) : Option Step :=
  if g.trapped || g.steps.any (·.state == .run) then none else (g.steps.take 64).find? (·.state == .ready)

/-- A stage's step with its program and entry. -/
def State.sel? (s : State) (stage : Nat) (t : Step) : Option Sel :=
  match s.img.prog? t.prog, s.img.stage? stage with
  | some g, some e => some { stage := stage, e := e, g := g, t := t }
  | _, _ => none

/-- What follows a step's end, wait or stop: aborts of R199, and the release of a single-stream plan whose stream has gone
(R173, R178). -/
def settleStage (t : Step) (s : State) : State :=
  let s := sweepHalted s
  s.each (t.rows.map (·.stream)).eraseDups fun s id =>
    if (s.stream id).state == .aborted || (s.stream id).state == .closing then releaseIfSingle id s else s

/-! ## The first selection (R180, R194, R268) -/

/-- Where a program stands in tier 2, and its length (R139, R148). -/
def Image.progAt (m : Image) (prog : Nat) : Option (Nat × Nat) :=
  let len := fun (p : ProgEnt) => 16 + (p.recs.map (·.bytes.length)).sum
  match m.dir.find? (·.1 = 7), m.prog? prog with
  | some (_, off, _, _), some g => some (off + ((m.programs.takeWhile (·.prog != prog)).map len).sum, len g)
  | _, _ => none

/-- The stage fetches the step's program (class 1 of R302): an uncorrectable word traps it. -/
def fetchProgram (x : Sel) (s : State) : Got Unit :=
  match s.img.progAt x.g.prog with
  | none => (some (), s)
  | some (a, n) =>
    match readFixed 1 0xFFFF 2 a n s with
    | (none, s) => (none, trapStage x.stage x.g.prog 0 s)
    | (some _, s) => (some (), s)

/-- A token whose level-0 chunk has n positions, `off` of them ahead of its mark: the counts of its stream, of its later tokens
and of their rows move on (R98, R122). -/
def growChunk (id slot n off : Nat) (rst : Bool) (s : State) : State :=
  let add := n - 1 - if rst then off else 0
  let x := s.stream id
  let later := x.run.tokens.filter fun t => slot < t.slot && !t.old
  let shifted := (later.takeWhile (!·.rst)) ++ (later.dropWhile (!·.rst)).take 1
  let cap := ((s.plan? x.plan.toNat).map (·.maxContext)).getD 0
  let moved := fun (k : Nat) => shifted.any fun t => t.slot == k
  let token := fun (t : Token) =>
    if t.old then t
    else if t.slot = slot then { t with chunk := n }
    else if moved (t.slot) then { t with base := t.base + add, ctx := min cap (t.ctx + add) } else t
  let row := fun (rep : Nat) (r : Row) =>
    if r.stream ≠ id then r
    else if r.slot = slot then { r with chunk := n }
    else if moved (r.slot) && !(r.base == 0 && rep != 0) then { r with base := r.base + add, ctx := min cap (r.ctx + add) } else r
  let s := s.modStream id fun x => { x with
    step := if later.any (fun t => t.rst) then x.step else x.step + BitVec.ofNat 48 add
    ctxTokens := if later.any (fun t => t.rst) then x.ctxTokens else BitVec.ofNat 32 (min cap (x.ctxTokens.toNat + add))
    run := { x.run with tokens := x.run.tokens.map token } }
  { s with stages := cmap {} (fun _ g => { g with steps := g.steps.map fun u => { u with rows := u.rows.map (row u.rep) } }) s.stages }

/-- RST_OFF of a marked row: the larger of the offsets at which tokens of its chunk begin (R97, R99, R268), which later
repetitions of the kind count their positions from. -/
def markRow (x : Sel) (i : RowInput) (s : State) : State :=
  match (x.t.rows.find? (·.stream = i.stream)) with
  | none => s
  | some row =>
    if !row.rst then s else
      let off := i.marks.foldl max 0
      s.modStage x.stage fun g => { g with steps := g.steps.map fun u =>
        if u.plan = x.t.plan && u.kidx = x.t.kidx && u.round = x.t.round && u.run = x.t.run then
          { u with rows := u.rows.map fun r => if r.stream = row.stream && r.slot = row.slot then { r with rstOff := off } else r }
        else u }

/-- A level-0 step says how many positions its rows' chunks have. -/
def chunkRow (x : Sel) (i : RowInput) (s : State) : State :=
  match (x.t.rows.find? (·.stream = i.stream)) with
  | none => s
  | some row =>
    let n := (i.recs.map (·.positions)).foldl max 1
    if kindLevel x.t.kind ≠ 0 || x.t.rep ≠ 0 || row.chunk ≠ 1 || n = 1 then s
    else growChunk row.stream row.slot n (i.marks.foldl max 0) row.rst s

/-- The blocks of a step's streamed weights join the data queue of its stage's weight stream, in record order (R184, R194). -/
def queueWeights (x : Sel) (s : State) : State :=
  let l := weightLink x.stage
  let ts := (x.g.recs.filter (·.cls == 0)).filterMap fun r => (s.img.tensor? (field r.bytes 20 2)).bind fun t =>
    if s.img.streamed x.e.die t then some t else none
  match s.img.linkChannel l with
  | none => s
  | some c =>
    if ts.isEmpty then s else
      let n := (ts.map TensorEnt.tiles).sum
      let s := modStep x (fun u => { u with wfrom := (s.linkSt l).queued, wtiles := n }) s
      let s := s.modLink l fun y => { y with queued := y.queued + n }
      s.modChannel c fun y => { y with data := y.data ++ ts.map fun t =>
        { role := 5, link := l, checked := true, bytes := 4096 * t.tiles, tiles := t.tiles, tid := t.tid } }

/-- The first selection of a step: its program is fetched, its rows' marks and chunks become known, its weights' blocks are
queued. -/
def beginStep (x : Sel) (rows : List RowInput) (s : State) : Got Unit :=
  chain (fetchProgram x s) fun _ s =>
    (some (), queueWeights x (s.each rows fun s i => chunkRow x i (markRow x i s)))

/-! ## Running records (R175) -/

/-- A MOVE record starts one block on its link (R153, R192). -/
def startBlock (r : Rec) (s : State) : State :=
  let l := field r.bytes 8 2
  let n := field r.bytes 12 4
  match s.img.linkChannel l with
  | some c => s.modChannel c fun x => { x with data := x.data ++ [{ role := 1, link := l, bytes := n, tiles := ceilDiv n 4096 }] }
  | none => s

/-- The rows no abort has masked, with their places and what they have so far. -/
def Step.live (t : Step) : List (Row × Nat × RowEnv) :=
  (t.rows.zipIdx.filter fun y => !y.1.masked).map fun (r, i) => (r, i, (t.envs.find? (·.stream = r.stream)).getD { stream := r.stream })

/-- What rows give for a record. -/
def inputsOf (rows : List RowInput) (live : List (Row × Nat × RowEnv)) (op : Nat) : List OpInput :=
  (rows.filter fun i => live.any fun y => y.1.stream == i.stream).flatMap fun i => i.recs.filter (·.record = op)

/-- What the rows have replaces what they had. -/
def Step.withEnvs (t : Step) (es : List RowEnv) : Step :=
  { t with envs := t.envs.filter (fun e => !es.any fun f => f.stream == e.stream) ++ es }

/-- One record on every row; the step stops at it where a tile has not come, or its stage has trapped. -/
def runRecord (x : Sel) (rows : List RowInput) (t : Step) (r : Rec) (s : State) : State :=
  if r.cls = 5 then modStep x (fun u => { u with op := u.op + 1 }) (startBlock r s)
  else
    let mine := inputsOf rows t.live t.op
    let kv := !mine.isEmpty && mine.all fun i => i.kv.isSome
    let got :=
      chain (takeTiles x r mine s) fun _ s => chain (gather (takeTensor x t.op) (r.tensors kv) s) fun tens s =>
        chain (takeTable x t.op r s) fun table s => gather (runRow x t.op r tens table rows) t.live s
    match got with
    | (none, s) => s
    | (some outs, s) =>
      let period := t.period.getD s.period.seq
      let s := s.each outs fun s y => tallySlot period r.slot y.1.stream y.2 s
      let skip := if r.cls = 0 && kv then (s.img.tensor? (field r.bytes 20 2)).map (fun e => if s.img.streamed x.e.die e then e.tiles else 0) else none
      modStep x (fun u => { u.withEnvs (outs.map (·.1)) with op := u.op + 1, wdone := u.wdone + skip.getD 0 }) s

/-- The records of a step from its place on, those before `upto`. -/
def runRecords (x : Sel) (rows : List RowInput) (upto : Nat) : Nat → State → State
  | 0, s => s
  | fuel + 1, s =>
    match s.now? x with
    | none => s
    | some t =>
      if t.state != .run || upto ≤ t.op then s
      else match x.g.recs[t.op]? with
        | none => s
        | some r => runRecords x rows upto fuel (runRecord x rows t r s)

/-- A row's operands of the next record as far as this segment's tiles hold them. -/
def loadAhead (x : Sel) (r : Rec) (op : Nat) (rows : List RowInput) (y : Row × Nat × RowEnv) (s : State) : Got RowEnv :=
  let (row, _, env) := y
  match (rows.find? (·.stream = row.stream)).bind fun i => i.recs.find? (·.record = op) with
  | none => (some env, s)
  | some i => chain (takeOperands x op r row i s) fun ops s =>
      (some { env with held := env.held ++ ops.zipIdx.map fun (l, k) =>
        (k, l.codes, l.pairs.flatMap fun p => [p.1.toNat, unsigned 8 p.2]) }, s)

/-- Operands given for the record at which a segment ends are loaded, so that their tiles can be released (R195). -/
def loadNext (x : Sel) (rows : List RowInput) (upto : Nat) (s : State) : State :=
  match s.now? x with
  | none => s
  | some t =>
    match x.g.recs[t.op]? with
    | none => s
    | some r =>
      let mine := inputsOf rows t.live t.op
      if t.state != .run || t.op ≠ upto || mine.isEmpty then s
      else match chain (takeTiles x r mine s) fun _ s => gather (loadAhead x r t.op rows) t.live s with
        | (none, s) => s
        | (some es, s) => modStep x (fun u => u.withEnvs es) s

/-- A stage with no step in RUN selects its first READY step, which runs the segment's records, or those before the first whose
tiles have not come (R175, R176). -/
def execStepSelect (stage cc : Nat) (ups : List Upset) (seg : Segment) (s : State) : Result :=
  match (s.stage stage).next with
  | none => .next s
  | some t =>
    match s.sel? stage t with
    | none => .next s
    | some x =>
      let s := applyUpsets ups (s.modStage stage (clockStage s.period.cc cc))
      let s := modStep x (fun u => { u with state := .run, await := none, need := 1, period := some (u.period.getD s.period.seq) }) s
      let seats := if (s.img.ramUnits stage).isEmpty then [] else t.rows.zipIdx.filter fun y => !y.1.masked
      match chain (if t.period.isNone then beginStep x seg.rows s else (some (), s)) fun _ s =>
          gather (fun (y : Row × Nat) s => seatRow x y.2 y.1.stream s) seats s with
      | (none, s) => done (settleStage t s)
      | (some _, s) => done (settleStage t (loadNext x seg.rows seg.upto (runRecords x seg.rows seg.upto (x.g.recs.length + 1) s)))

/-! ## Stalls (R175, R195) -/

/-- The step releases the tiles it holds of a link. -/
def releaseTiles (x : Sel) (l : Nat) (s : State) : State :=
  match s.now? x, s.img.link? l with
  | some t, some e =>
    let mine := (t.bufs.filter (·.1 == l)).map (·.2)
    let s := modStep x (fun u => { u with bufs := u.bufs.filter (·.1 != l) }) s
    s.each mine fun s h => (releaseBuffer e h s).2
  | _, _ => s

/-- The running step reaches a tile that has not come, having read and released those it held of the link, or a link that has
no free buffer for what it writes: WAIT, the stage is free (R175, R195). -/
def execStepStall (stage cc link : Nat) (s : State) : Result :=
  match (s.stage stage).steps.find? (·.state == .run) with
  | none => .next s
  | some t =>
    match s.sel? stage t with
    | none => .next s
    | some x =>
      let s' := s.modStage stage (clockStage s.period.cc cc)
      if x.g.reads.contains link && s.tilesFor x link = 0 then
        done (settleStage t (wakeStage stage (waitFor x link 1 (releaseTiles x link s'))))
      else if x.g.writes.contains link && !s.bufferFree link then done (settleStage t (waitFor x link 0 s'))
      else .next s

/-! ## What a step writes -/

/-- Links that a record's result leaves on: its own, or the one its row gives (R75, R115). -/
def resultLinks (r : Rec) (x : OpResult) : List Nat := if r.cls ≠ 3 && !r.writes.isEmpty then r.writes else x.link.toList

/-- The output of a record as bytes (R15); the planes of a window operation each begin on 64 bytes (R103). -/
def outBytes (r : Rec) (x : OpResult) : List Byte :=
  match r.cls with
  | 2 =>
    let fmt := field r.bytes 8 1 / 16
    if x.plane = 0 then packCodes fmt x.codes
    else (chunksOf x.plane x.codes).flatMap fun l => let b := packCodes fmt l; slice 0 (ceilDiv b.length 64 * 64) b
  | 3 | 4 => x.codes.flatMap fun k => leBytes 2 k
  | _ => x.words.flatMap fun w => leBytes 4 w.toNat

/-- Bytes as tiles, at least one, the last padded to whole granules; first and last among them. -/
def cutTiles (link : Nat) (b : List Byte) : List (Nat × Bool × Bool × List Byte) :=
  let n := max 1 (ceilDiv b.length 4096)
  (List.range n).map fun i =>
    let t := (b.drop (4096 * i)).take 4096
    (link, i == 0, i + 1 == n, slice 0 (pad512 (max 1 t.length)) t)

/-- The results of a step's rows. -/
def Step.results (t : Step) : List OpResult := t.live.flatMap fun y => y.2.2.out

/-- The tiles a step writes, link by link, row after row. -/
def Step.tiles (m : Image) (g : ProgEnt) (t : Step) : List (Nat × Bool × Bool × List Byte) :=
  let outs := t.results.filterMap fun y => (g.recs[y.record]?).map fun r => (r, y)
  let links := (g.writes ++ outs.flatMap fun (r, y) => resultLinks r y).eraseDups
  links.flatMap fun l => match m.link? l with
    | none => []
    | some e => if e.transport = 4 then [] else
      cutTiles l (outs.flatMap fun (r, y) => if (resultLinks r y).contains l then outBytes r y else [])

/-- One tile that a step writes: into the consumer's buffer, or on its way to another device. None: no buffer is free. -/
def writeLink (e : LinkEnt) (y : Bool × Bool × List Byte) (s : State) : Option State :=
  if e.transport = 2 || e.transport = 3 then
    if (s.kimg e.link).tiles.isEmpty then some (produceTile e.link ⟨y.1, y.2.1, y.2.2, []⟩ s) else none
  else (takeBuffer e s).map fun (h, s) =>
    (fillBuffer e h (writeTagged 0 (s.img.bufferAddr e (h.toNat % 65536)) y.2.2 0xFFFF true (fun g => linkSeq h (g % 8)) s)).2

/-- Tiles leave in order until one finds no buffer: the link it waits at, or none once all have. -/
def writeTiles : List (Nat × Bool × Bool × List Byte) → State → (Option Nat × List (Nat × Bool × Bool × List Byte)) × State
  | [], s => ((none, []), s)
  | y :: t, s =>
    match s.img.link? y.1 with
    | none => writeTiles t s
    | some e =>
      match writeLink e y.2 s with
      | some s => writeTiles t s
      | none => ((some y.1, y :: t), s)

/-- The token a step's row serves, by its round (R171, R174). -/
def Step.tokenRound (t : Step) (p : PlanEnt) : Nat := if p.kind = 1 then t.round else t.round - kindLevel t.kind

/-- Samples of a token's last level go to its output slot, which is written once they are all there (R171, R245). -/
def writeSamples (id round : Nat) (last : Bool) (p : PlanEnt) (ws : List W32) (s : State) : State :=
  match (s.stream id).run.tokens.find? (·.round = round) with
  | none => s
  | some t =>
    let all := t.samples ++ ws
    let s := s.modStream id fun x => { x with run := { x.run with
      tokens := x.run.tokens.map fun u => if u.round = round then { u with samples := all } else u } }
    if !t.written && (last || p.spt ≤ all.length) then
      writeSlot id t p (slice 0 (4 * p.spt) (all.flatMap fun w => leBytes 4 w.toNat)) s
    else s

/-- The output ring is the destination of a record's result. -/
def State.toRing (s : State) (r : Rec) (x : OpResult) : Bool :=
  (resultLinks r x).any fun l => ((s.img.link? l).map (·.transport)) == some 4

/-- A row's samples go to its token. -/
def commitSamples (x : Sel) (t : Step) (p : PlanEnt) (s : State) (y : OpResult) : State :=
  match x.g.recs[y.record]? with
  | none => s
  | some r =>
    if !s.toRing r y then s else
      let last := !(s.stages.any fun k => k.2.steps.any fun u => !u.same t &&
        u.plan == t.plan && u.run == t.run && u.round == t.round && kindLevel u.kind == kindLevel t.kind && u.streams.contains y.stream)
      writeSamples y.stream (t.tokenRound p) last p (wordsLE (outBytes r y)) s

/-- A record's scale records, delayed-scale record, history and class indices are written (R44, R48, R110, R252). -/
def commitResult (x : Sel) (s : State) (y : OpResult) : State :=
  match x.g.recs[y.record]? with
  | none => s
  | some r =>
    let key := ctxKey y.stream x.g.prog y.record
    match r.cls with
    | 2 =>
      let s := match y.scaleAt, s.img.region? x.e.die 5 x.stage with
        | some off, some g =>
          if off + 4 * y.pairs.length ≤ g.len then
            writeMem 0 (g.addr + off) ((chunksOf 2 y.pairs).flatMap fun p => leBytes 4 (el p 0).toNat ++ [(el p 1).setWidth 8, 0, 0, 0]) s
          else s
        | _, _ => s
      match s.keptFor 6 x.e.die x.stage x.g.prog y.record y.stream with
      | some a =>
        if !r.isDelayed then s else
          let q : ScaleRec := { maxima := y.words.drop 3, ePrev := (el y.words 2).setWidth 8
                                eRaise := if el y.words 0 = 1 then some ((el y.words 1).setWidth 8) else none }
          writeMem 0 a (q.bytes 0 0) s
      | none => s
    | 3 =>
      if !r.isStream then s else
        let n := r.history * field r.bytes 12 4
        let s := match s.keptFor 3 x.e.die x.stage x.g.prog y.record y.stream with
          | some a => writeHistory a r (y.words.take n) s
          | none => s
        { s with cleared := cput 0 key (el y.words n).toNat s.cleared }
    | 4 =>
      if r.isFed then { s with fed := cput [] key (y.codes.drop (y.codes.length - field r.bytes 9 1)) s.fed } else s
    | _ => s

/-- A row's state words go to state RAM (R91). -/
def commitRam (x : Sel) (slot : Nat) (env : RowEnv) (s : State) : State :=
  s.each env.words fun s (k, lanes) => writeLanes x.e slot (k / 65536) (k % 65536) (lanes.drop (lanes.length - 64)) s

/-- The stretch of context positions that a device holds of a stream (R75, R282): first one and how many. -/
def State.stretch (s : State) (id : Nat) (p : PlanEnt) : Nat × Nat :=
  if p.seqGroup ≤ 1 then (0, p.maxContext)
  else
    let n := ceilDiv p.maxContext p.seqGroup
    let i := match (s.stream id).ring with | some o => o.member | none => (s.ringSelf p.plan p.seqGroup).getD 0
    (i * n, n)

/-- Key/value bytes that a row's records wrote go to the stream's area with their tags (R283, R316, R317). -/
def commitKv (p : PlanEnt) (row : Row) (env : RowEnv) (s : State) : State :=
  let (lo, n) := s.stretch row.stream p
  match (s.stream row.stream).area with
  | none => s
  | some b =>
    let base := s.partBase p.plan + b * p.area
    s.each env.kv.reverse fun s (c, off, bs) =>
      let q := row.own c
      if q < lo || lo + n ≤ q then s else
        let a := base + (q - lo) * p.kvBytes + off
        (writeMem 1 a bs s).each (kvGranules 1 base p.kvBytes row.stream a bs.length) fun s (_, g, st, ns, seq) => makeTag 1 g st ns seq s

/-- Records a stream's level-0 step has consumed: entries whose last record is consumed go (R233). -/
def consumeRecords (id : Nat) : Nat → Nat → State → State
  | 0, _, s => s
  | fuel + 1, n, s =>
    if n = 0 || (s.queue (qid id 0)).held = 0 then s else
      let e := s.entry id 0
      let x := s.stream id
      if entryOp e ≠ 1 then s
      else
        let left := entryCount e - x.inp.consumed
        if n < left then s.modStream id fun x => { x with inp := { x.inp with consumed := x.inp.consumed + n } }
        else
          let s := consumeHead id 0 false s
          consumeRecords id fuel (n - left) (settleHead id (s.queue (qid id 0)).held s)

/-- The plan's first level-0 SAMPLE record: program and record (R235). -/
def Image.stopRecord (m : Image) (p : PlanEnt) : Option (Nat × Nat) :=
  (p.kinds.filter fun k => kindLevel k = 0).findSome? fun k => (m.budget? k).bind fun b => (m.prog? b.prog).bind fun g =>
    (g.recs.zipIdx.find? fun r => r.1.cls == 4).map fun r => (g.prog, r.2)

/-- A token of a DRAINING stream that draws STOP_CLASS is the last (R235). -/
def checkStop (t : Step) (p : PlanEnt) (s : State) (x : OpResult) : State :=
  let y := s.stream x.stream
  if s.img.stopRecord p == some (t.prog, x.record) && y.state == .draining && y.inp.stopClass ≠ 0xFFFF &&
      x.codes.head? == some y.inp.stopClass.toNat then
    s.modStream x.stream fun y => { y with run := { y.run with
      halt := true, tokens := y.run.tokens.map fun u => if u.round = t.round then { u with last := true } else u } }
  else s

/-! ## STEP_COMPLETE (R175) -/

/-- Everything a completed step leaves beside its tiles: carried state, samples, released tiles, consumed records. -/
def finishStep (x : Sel) (t : Step) (p : PlanEnt) (consumed : List (Nat × Nat)) (s : State) : State :=
  let s := s.modStage x.stage fun k => { k with steps := k.steps.filter fun u => !u.same t }
  let s := s.each t.live fun s y => commitKv p y.1 y.2.2 (commitRam x y.2.1 y.2.2 s)
  let s := t.results.foldl (commitResult x) s
  let s := s.each t.bufs fun s b => match s.img.link? b.1 with
    | some e => (releaseBuffer e b.2 s).2
    | none => s
  let s := t.results.foldl (commitSamples x t p) s
  let s := if kindLevel t.kind ≠ 0 then s else
    let s := t.results.foldl (checkStop t p) s
    s.each consumed fun s y =>
      let i := (s.stream y.1).inp
      let n := min y.2 (i.placed - i.consumed)
      if t.streams.contains y.1 then consumeRecords y.1 (n + 1) n s else s
  let s := t.streams.foldl (fun s id => progress id (sendUnpaced id (s.queue (qid id 2)).held s)) s
  settleStage t (wakeStage x.stage s)

/-- A step completes its last operation: its tiles leave as buffers take them, the step waiting at a link that has none
free; then its results are written, its tiles released, its records consumed, its entry freed (R175). `consumed`: stream
and records its row read. -/
def execStepComplete (stage cc : Nat) (consumed : List (Nat × Nat)) (s : State) : Result :=
  match (s.stage stage).steps.find? (·.state == .run) with
  | none => .next s
  | some t =>
    match s.sel? stage t, s.plan? t.plan with
    | some x, some p =>
      if t.op < x.g.recs.length then .next s
      else
        let s := s.modStage stage (clockStage s.period.cc cc)
        match writeTiles (if t.closed then t.outs else t.tiles s.img x.g) s with
        | ((some l, rest), s) => done (settleStage t (waitFor x l 0 (modStep x (fun u => { u with closed := true, outs := rest }) s)))
        | ((none, _), s) => done (finishStep x ((s.now? x).getD t) p consumed s)
    | _, _ => .next s

/-! ## The watchdog (R179) -/

/-- SCHED_WDOG.LIMIT in force: a value below 1,024 acts as 1,024. -/
def Sched.limitInForce (d : Sched) : Nat := max 1024 d.limit.toNat

/-- The steps that alone can end one wait of a step: for a buffer the steps that take tiles of its link; for a tile the steps
that write its link, and for a tile of a weight stream the one whose tile stands in the window before it. -/
def State.suppliers (s : State) (stage : Nat) (t : Step) (l : Nat) : List Step :=
  let reads := fun (w : Bool) (u : Step) => ((s.img.prog? u.prog).map fun g => if w then g.writes else g.reads).any (·.contains l)
  match s.img.flow? l with
  | none => []
  | some e =>
    if t.need = 0 && t.await.isSome then (s.stage e.cons).steps.filter fun u => reads false u || u.bufs.any (·.1 == l)
    else if l < 65536 then (s.stage e.prod).steps.filter (reads true)
    else (s.stage stage).steps.filter fun u => !u.same t && (s.linkSt l).full != 0 &&
      decide (u.wfrom + u.wdone ≤ (s.linkSt l).released) && decide ((s.linkSt l).released < u.wfrom + u.wtiles)

/-- A step in WAIT or PEND has a wait that only other steps of a set can end. -/
def State.waitsWithin (s : State) (set : List (Nat × Step)) (y : Nat × Step) : Bool :=
  let (stage, t) := y
  let waits := if t.need = 0 && t.await.isSome then t.await.toList
    else ((s.allot stage).find? fun z => z.1.same t).map (·.2) |>.getD []
  (t.state == .wait || t.state == .pend) && waits.any fun l =>
    let us := s.suppliers stage t l
    !us.isEmpty && us.all fun u => !u.same t && set.any fun z => z.2.same u

/-- A wait cycle persists for LIMIT cc: the youngest stream in it, the one whose open was accepted last, aborts with cause
0x01, its steps are removed, event 0x0201. `steps`: the cycle as stage and place on its scoreboard. -/
def execWatchdogAbort (die : Nat) (steps : List (Nat × Nat)) (waited : Nat) (s : State) : Result :=
  let d := s.sched die
  let found := steps.filterMap fun (g, i) => ((s.stage g).steps[i]?).map fun t => (g, t)
  let lowest := steps.foldl (fun m x => min m x.1) 0xFFFF
  let streams := (found.flatMap fun t => t.2.streams).eraseDups
  let youngest := streams.foldl (fun (b : Option Nat) id => match b with
    | none => some id
    | some y => if (s.stream y).opened < (s.stream id).opened then some id else b) none
  match youngest with
  | some id =>
    if !d.wdogEn || waited < d.limitInForce || found.length ≠ steps.length || !found.all (s.waitsWithin found) ||
        ((s.img.stage? lowest).map (·.die)) ≠ some die then .next s
    else
      let s := record 0x0201 (BitVec.ofNat 32 id) (BitVec.ofNat 32 die) (BitVec.ofNat 32 lowest) (d.limit.setWidth 32) s
      let s := abortStream id 1 (BitVec.ofNat 32 die) (d.limit.setWidth 32) s
      let s := dropSteps (fun t => t.dead && t.rows.any (·.stream == id)) s
      done (s.modSched die fun d => { d with aborts := satInc d.aborts })
  | none => .next s

end Sys2Proof.Machine
end

