-- ==== Sys2Proof/Machine/Dispatch.lean ====
section
/-! DEFINITION. What each command does: one arm per command of the table. -/

namespace Sys2Proof.Machine

open Host (Outcome)

def exec (i : Instr) (s : State) : Host.Outcome State Fault Refusal :=
  match i with
  | .registerWrite r off v => Sys2Proof.Machine.execRegisterWrite r off v s
  | .sessionOpen q => Sys2Proof.Machine.execSessionOpen q s
  | .sessionClose q => Sys2Proof.Machine.execSessionClose q s
  | .sessionLeaseExpiry sess => Sys2Proof.Machine.execSessionLeaseExpiry sess s
  | .nop q => Sys2Proof.Machine.execNop q s
  | .stMessageRefused ip port raw => Sys2Proof.Machine.execStMessageRefused ip port raw s
  | .regRead q => Sys2Proof.Machine.execRegRead q s
  | .regWrite q => Sys2Proof.Machine.execRegWrite q s
  | .memRead q ups => Sys2Proof.Machine.execMemRead q ups s
  | .memWrite q ups => Sys2Proof.Machine.execMemWrite q ups s
  | .streamOpen q => Sys2Proof.Machine.execStreamOpen q s
  | .submit q => Sys2Proof.Machine.execSubmit q s
  | .streamBind q => Sys2Proof.Machine.execStreamBind q s
  | .destWrite q => Sys2Proof.Machine.execDestWrite q s
  | .destRead q => Sys2Proof.Machine.execDestRead q s
  | .coChallenge q => Sys2Proof.Machine.execCoChallenge q s
  | .coAuth q => Sys2Proof.Machine.execCoAuth q s
  | .authLockoutEnd => Sys2Proof.Machine.execAuthLockoutEnd s
  | .coEnrol q => Sys2Proof.Machine.execCoEnrol q s
  | .attest q => Sys2Proof.Machine.execAttest q s
  | .certRead q => Sys2Proof.Machine.execCertRead q s
  | .keyAgree q => Sys2Proof.Machine.execKeyAgree q s
  | .sakLoad q => Sys2Proof.Machine.execSakLoad q s
  | .saCtrl q => Sys2Proof.Machine.execSaCtrl q s
  | .markKeyLoad q => Sys2Proof.Machine.execMarkKeyLoad q s
  | .svnCommit q => Sys2Proof.Machine.execSvnCommit q s
  | .keyRevoke q => Sys2Proof.Machine.execKeyRevoke q s
  | .fwWrite q => Sys2Proof.Machine.execFwWrite q s
  | .zeroise q => Sys2Proof.Machine.execZeroise q s
  | .secZeroise r v => Sys2Proof.Machine.execSecZeroise r v s
  | .zeroiseWipeComplete => Sys2Proof.Machine.execZeroiseWipeComplete s
  | .selftest q => Sys2Proof.Machine.execSelftest q s
  | .random q => Sys2Proof.Machine.execRandom q s
  | .tile via q => Sys2Proof.Machine.execTile via q s
  | .signal q => Sys2Proof.Machine.execSignal q s
  | .ringAdmit via q => Sys2Proof.Machine.execRingAdmit via q s
  | .ringAbort via q => Sys2Proof.Machine.execRingAbort via q s
  | .ringClose via q => Sys2Proof.Machine.execRingClose via q s
  | .ringLeaseExpiry stream => Sys2Proof.Machine.execRingLeaseExpiry stream s
  | .arp senderMac senderIp targetIp => Sys2Proof.Machine.execArp senderMac senderIp targetIp s
  | .neighbourSolicitation source target => Sys2Proof.Machine.execNeighbourSolicitation source target s
  | .echoRequest source dest v6 data => Sys2Proof.Machine.execEchoRequest source dest v6 data s
  | .udpOtherPort dport => Sys2Proof.Machine.execUdpOtherPort dport s
  | .macsecDrop sc an isProtected icvOk pn => Sys2Proof.Machine.execMacsecDrop sc an isProtected icvOk pn s
  | .addressResolution entry found => Sys2Proof.Machine.execAddressResolution entry found s
  | .ethLinkUp at16 fails => Sys2Proof.Machine.execEthLinkUp at16 fails s
  | .ethLinkDown => Sys2Proof.Machine.execEthLinkDown s
  | .ptpSync sec ns offset => Sys2Proof.Machine.execPtpSync sec ns offset s
  | .ptpAnnounce a => Sys2Proof.Machine.execPtpAnnounce a s
  | .announceReceiptTimeout => Sys2Proof.Machine.execAnnounceReceiptTimeout s
  | .ethPtpCfg r v => Sys2Proof.Machine.execEthPtpCfg r v s
  | .tlIncrement tau sapStart cc => Sys2Proof.Machine.execTlIncrement tau sapStart cc s
  | .wclkInEdge since sinceInc => Sys2Proof.Machine.execWclkInEdge since sinceInc s
  | .wclkLoss since => Sys2Proof.Machine.execWclkLoss since s
  | .ptpLoss ms => Sys2Proof.Machine.execPtpLoss ms s
  | .tlAutoStep sec ns => Sys2Proof.Machine.execTlAutoStep sec ns s
  | .tlLoad r => Sys2Proof.Machine.execTlLoad r s
  | .tlStep r sec ns => Sys2Proof.Machine.execTlStep r sec ns s
  | .tlCtrl r v => Sys2Proof.Machine.execTlCtrl r v s
  | .tlStatLen r v => Sys2Proof.Machine.execTlStatLen r v s
  | .quantLatch => Sys2Proof.Machine.execQuantLatch s
  | .tlPosLo r => Sys2Proof.Machine.execTlPosLo r s
  | .tileArrival link => Sys2Proof.Machine.execTileArrival link s
  | .stepSelect stage cc ups seg => Sys2Proof.Machine.execStepSelect stage cc ups seg s
  | .stepStall stage cc link => Sys2Proof.Machine.execStepStall stage cc link s
  | .stepComplete stage cc consumed => Sys2Proof.Machine.execStepComplete stage cc consumed s
  | .watchdogAbort die steps waited => Sys2Proof.Machine.execWatchdogAbort die steps waited s
  | .chSubmit r => Sys2Proof.Machine.execChSubmit r s
  | .chRestart r => Sys2Proof.Machine.execChRestart r s
  | .descriptorCheck ch => Sys2Proof.Machine.execDescriptorCheck ch s
  | .bellowsUnitTransfer ch ups => Sys2Proof.Machine.execBellowsUnitTransfer ch ups s
  | .tileFetchStart link head entries ups => Sys2Proof.Machine.execTileFetchStart link head entries ups s
  | .waitLimit ch waited => Sys2Proof.Machine.execWaitLimit ch waited s
  | .start r => Sys2Proof.Machine.execStart r s
  | .stop r => Sys2Proof.Machine.execStop r s
  | .park r => Sys2Proof.Machine.execPark r s
  | .parkComplete stream => Sys2Proof.Machine.execParkComplete stream s
  | .resume r => Sys2Proof.Machine.execResume r s
  | .restoreComplete stream ups => Sys2Proof.Machine.execRestoreComplete stream ups s
  | .close r => Sys2Proof.Machine.execClose r s
  | .closeComplete stream => Sys2Proof.Machine.execCloseComplete stream s
  | .abort r => Sys2Proof.Machine.execAbort r s
  | .streamLoHalfWrite r off v => Sys2Proof.Machine.execStreamLoHalfWrite r off v s
  | .streamSeedHi r v => Sys2Proof.Machine.execStreamSeedHi r v s
  | .streamInvT r v => Sys2Proof.Machine.execStreamInvT r v s
  | .streamStartHi r v => Sys2Proof.Machine.execStreamStartHi r v s
  | .streamParkHi r v => Sys2Proof.Machine.execStreamParkHi r v s
  | .queueHead r v => Sys2Proof.Machine.execQueueHead r v s
  | .store r profile => Sys2Proof.Machine.execStore r profile s
  | .delete r profile => Sys2Proof.Machine.execDelete r profile s
  | .prefetch r profile => Sys2Proof.Machine.execPrefetch r profile s
  | .profileCmdEnd r => Sys2Proof.Machine.execProfileCmdEnd r s
  | .profileFetchComplete profile ups => Sys2Proof.Machine.execProfileFetchComplete profile ups s
  | .txnAppend r => Sys2Proof.Machine.execTxnAppend r s
  | .txnSubmit r immediate rtppos => Sys2Proof.Machine.execTxnSubmit r immediate rtppos s
  | .txnClear r => Sys2Proof.Machine.execTxnClear r s
  | .txnCancel r => Sys2Proof.Machine.execTxnCancel r s
  | .intEnable r v => Sys2Proof.Machine.execIntEnable r v s
  | .intDest r v => Sys2Proof.Machine.execIntDest r v s
  | .imageLen r v => Sys2Proof.Machine.execImageLen r v s
  | .verify r => Sys2Proof.Machine.execVerify r s
  | .verifyComplete => Sys2Proof.Machine.execVerifyComplete s
  | .activate r => Sys2Proof.Machine.execActivate r s
  | .activateComplete ups => Sys2Proof.Machine.execActivateComplete ups s
  | .deactivate r => Sys2Proof.Machine.execDeactivate r s
  | .discard r => Sys2Proof.Machine.execDiscard r s
  | .hbmTrainingComplete fail => Sys2Proof.Machine.execHbmTrainingComplete fail s
  | .ddrTrainingComplete dimms => Sys2Proof.Machine.execDdrTrainingComplete dimms s
  | .tierFillComplete tier => Sys2Proof.Machine.execTierFillComplete tier s
  | .dronePage tier device ups => Sys2Proof.Machine.execDronePage tier device ups s
  | .pageRepair tier device ups => Sys2Proof.Machine.execPageRepair tier device ups s
  | .flitReceive k bytes checks => Sys2Proof.Machine.execFlitReceive k bytes checks s
  | .flitSend k => Sys2Proof.Machine.execFlitSend k s
  | .tileMessageSend k => Sys2Proof.Machine.execTileMessageSend k s
  | .replayTimeout k => Sys2Proof.Machine.execReplayTimeout k s
  | .creditTimeout k data => Sys2Proof.Machine.execCreditTimeout k data s
  | .laneLockLoss k => Sys2Proof.Machine.execLaneLockLoss k s
  | .klCtrl r v => Sys2Proof.Machine.execKlCtrl r v s
  | .trainingTimeout k => Sys2Proof.Machine.execTrainingTimeout k s
  | .trainingRetry k => Sys2Proof.Machine.execTrainingRetry k s
  | .holdExpiry link => Sys2Proof.Machine.execHoldExpiry link s
  | .gapSend link position => Sys2Proof.Machine.execGapSend link position s
  | .klLinkPeer r v => Sys2Proof.Machine.execKlLinkPeer r v s
  | .klRingMember r v => Sys2Proof.Machine.execKlRingMember r v s
  | .ethDevAddr r v => Sys2Proof.Machine.execEthDevAddr r v s
  | .sapCmdStart r port => Sys2Proof.Machine.execSapCmdStart r port s
  | .startExt r port => Sys2Proof.Machine.execStartExt r port s
  | .sapCmdStop r port => Sys2Proof.Machine.execSapCmdStop r port s
  | .stopNow r port => Sys2Proof.Machine.execStopNow r port s
  | .sapCmdCancel r port => Sys2Proof.Machine.execSapCmdCancel r port s
  | .sapFrameStart port => Sys2Proof.Machine.execSapFrameStart port s
  | .slaveFrameStart port bitClocks => Sys2Proof.Machine.execSlaveFrameStart port bitClocks s
  | .clkLost port => Sys2Proof.Machine.execClkLost port s
  | .sapMask r port v lastTwoClocks => Sys2Proof.Machine.execSapMask r port v lastTwoClocks s
  | .sapSlotMap r port slot v => Sys2Proof.Machine.execSapSlotMap r port slot v s
  | .rngTestOutLo r => Sys2Proof.Machine.execRngTestOutLo r s
  | .evrecData0 r => Sys2Proof.Machine.execEvrecData0 r s
  | .evrecData7 r => Sys2Proof.Machine.execEvrecData7 r s
  | .evrecCtrl r v => Sys2Proof.Machine.execEvrecCtrl r v s
  | .freezeExpiry r => Sys2Proof.Machine.execFreezeExpiry r s
  | .evrecClear r v => Sys2Proof.Machine.execEvrecClear r v s
  | .clearEraseComplete => Sys2Proof.Machine.execClearEraseComplete s
  | .slotProgramComplete => Sys2Proof.Machine.execSlotProgramComplete s
  | .sectorEraseComplete => Sys2Proof.Machine.execSectorEraseComplete s
  | .minuteTick => Sys2Proof.Machine.execMinuteTick s
  | .counterPersist => Sys2Proof.Machine.execCounterPersist s
  | .vinPresent mv => Sys2Proof.Machine.execVinPresent mv s
  | .vinStable mv => Sys2Proof.Machine.execVinStable mv s
  | .vinFault mv => Sys2Proof.Machine.execVinFault mv s
  | .railRegulation rail => Sys2Proof.Machine.execRailRegulation rail s
  | .pwrGoodRise => Sys2Proof.Machine.execPwrGoodRise s
  | .railFault rail mv => Sys2Proof.Machine.execRailFault rail mv s
  | .railsOff => Sys2Proof.Machine.execRailsOff s
  | .modRstNAssert => Sys2Proof.Machine.execModRstNAssert s
  | .modRstNRelease brdPos => Sys2Proof.Machine.execModRstNRelease brdPos s
  | .resetEnd brdPos => Sys2Proof.Machine.execResetEnd brdPos s
  | .bootStageComplete ms => Sys2Proof.Machine.execBootStageComplete ms s
  | .standby r => Sys2Proof.Machine.execStandby r s
  | .wake r => Sys2Proof.Machine.execWake r s
  | .wakeComplete => Sys2Proof.Machine.execWakeComplete s
  | .pwrReset r v => Sys2Proof.Machine.execPwrReset r v s
  | .thermalSample temps => Sys2Proof.Machine.execThermalSample temps s
  | .telemetryUpdate mv ma mw mj => Sys2Proof.Machine.execTelemetryUpdate mv ma mw mj s
  | .pwrEnergyLo r => Sys2Proof.Machine.execPwrEnergyLo r s
  | .setOffset data pecOk => Sys2Proof.Machine.execSetOffset data pecOk s
  | .read => Sys2Proof.Machine.execRead s
  | .read8 => Sys2Proof.Machine.execRead8 s
  | .write data pecOk => Sys2Proof.Machine.execWrite data pecOk s
  | .alertResponse => Sys2Proof.Machine.execAlertResponse s
  | .wclkOutFall => Sys2Proof.Machine.execWclkOutFall s
  | .standbyDomainOff mv => Sys2Proof.Machine.execStandbyDomainOff mv s
  | .railOutOfTolerance rail => Sys2Proof.Machine.execRailOutOfTolerance rail s
  | .smbusTimeout => Sys2Proof.Machine.execSmbusTimeout s
  | .boundaryScanAccess ir => Sys2Proof.Machine.execBoundaryScanAccess ir s
  | .igmpMldReport v6 query => Sys2Proof.Machine.execIgmpMldReport v6 query s

end Sys2Proof.Machine
end

