-- ==== Sys2Proof/WellFormed.lean ====
section
/-! DEFINITION. Which commands can arrive: the operands within the ranges the spec gives them. -/

namespace Sys2Proof

/-- A management session 0 to 7, or 8 for the SMBus port. -/
def readerOk (r : Nat) : Bool := decide (r ≤ 8)
/-- A request's payload is at most 8,192 bytes (R330). -/
def Req.wf (q : Req) : Bool := decide (q.payload.length ≤ 8192)
/-- An upset of a tier 0 to 2, or of state RAM (3), at a site it has. -/
def Upset.wf (u : Upset) : Bool := decide (u.tier < 4) && decide (u.site < if u.tier = 3 then 2 else 6)
/-- A Kryter link K0 to K6, or none (Ethernet). -/
def viaOk : Option Nat → Bool
  | none => true
  | some k => decide (k < 7)
def streamOk (n : Nat) : Bool := decide (n < 65536)
def nsOk (ns : BitVec 30) : Bool := decide (ns.toNat < 1000000000)

/-- The well-formed commands. -/
def Instr.wf : Instr → Bool
  | .registerWrite r _ _ => readerOk r
  | .sessionOpen q | .sessionClose q | .nop q | .regRead q | .streamOpen q | .submit q | .streamBind q
  | .destWrite q | .destRead q | .coChallenge q | .coAuth q | .coEnrol q | .attest q | .certRead q | .keyAgree q
  | .sakLoad q | .saCtrl q | .markKeyLoad q | .svnCommit q | .keyRevoke q | .fwWrite q | .zeroise q | .selftest q
  | .random q | .signal q | .regWrite ⟨q, _⟩ => q.wf
  | .memRead q ups | .memWrite q ups => q.wf && ups.all Upset.wf
  | .tile via q | .ringAdmit via q | .ringAbort via q | .ringClose via q => viaOk via && q.wf
  | .sessionLeaseExpiry sess => decide (sess < 8)
  | .freezeExpiry r => readerOk r
  | .secZeroise r _ | .ethPtpCfg r _ | .tlCtrl r _ | .tlStatLen r _ | .streamSeedHi r _ | .streamInvT r _
  | .streamStartHi r _ | .streamParkHi r _ | .queueHead r _ | .intEnable r _ | .intDest r _ | .imageLen r _ | .klCtrl r _
  | .klLinkPeer r _ | .klRingMember r _ | .ethDevAddr r _ | .evrecCtrl r _ | .evrecClear r _ | .pwrReset r _
  | .streamLoHalfWrite r _ _ => readerOk r
  | .tlLoad r | .tlPosLo r | .chSubmit r | .chRestart r | .start r | .stop r | .park r | .resume r | .close r | .abort r
  | .profileCmdEnd r | .txnAppend r | .txnClear r | .txnCancel r | .verify r | .activate r | .deactivate r | .discard r
  | .rngTestOutLo r | .evrecData0 r | .evrecData7 r | .standby r | .wake r | .pwrEnergyLo r => readerOk r
  | .txnSubmit r _ _ => readerOk r
  | .tlStep r _ ns => readerOk r && nsOk ns
  | .ptpSync _ ns _ | .tlAutoStep _ ns => nsOk ns
  | .store r p | .delete r p | .prefetch r p => readerOk r && decide (p < 1048576)
  | .profileFetchComplete p ups => decide (p < 1048576) && ups.all Upset.wf
  | .parkComplete n | .closeComplete n | .ringLeaseExpiry n => streamOk n
  | .restoreComplete n ups => streamOk n && ups.all Upset.wf
  | .macsecDrop sc an _ _ _ => decide (sc < 4) && decide (an < 4)
  | .addressResolution entry _ => decide (entry < 4096)
  | .udpOtherPort port => decide (port < 65536)
  | .tileArrival link => decide (link < 65536 + 144)
  | .holdExpiry link => decide (link < 65536)
  | .stepSelect stage _ ups _ => decide (stage < 144) && ups.all Upset.wf
  | .stepStall stage _ link => decide (stage < 144) && decide (link < 65536)
  | .stepComplete stage _ _ => decide (stage < 144)
  | .watchdogAbort die steps _ => decide (die < 4) && steps.all fun e => decide (e.1 < 144)
  | .descriptorCheck ch | .waitLimit ch _ => decide (ch < 256)
  | .bellowsUnitTransfer ch ups => decide (ch < 256) && ups.all Upset.wf
  | .tileFetchStart link head entries ups => decide (link < 65536 + 144) && decide (head.length ≤ 16) && decide (entries.length ≤ 16 * 255) && ups.all Upset.wf
  | .activateComplete ups => ups.all Upset.wf
  | .ddrTrainingComplete dimms => decide (dimms.length = 8)
  | .tierFillComplete tier => decide (tier < 3)
  | .dronePage tier device ups | .pageRepair tier device ups => decide (tier < 3) && decide (device < 16) && ups.all Upset.wf
  | .flitReceive k bytes checks => decide (k < 7) && decide (bytes.length = 256) && decide (checks.length = 16)
  | .flitSend k | .tileMessageSend k | .replayTimeout k | .creditTimeout k _ | .laneLockLoss k
  | .trainingTimeout k | .trainingRetry k => decide (k < 7)
  | .gapSend link position => decide (link < 65536) && decide (position ≤ 8)
  | .sapCmdStart r port | .startExt r port | .sapCmdStop r port | .stopNow r port | .sapCmdCancel r port
  | .sapMask r port _ _ => readerOk r && decide (port < 4)
  | .sapSlotMap r port slot _ => readerOk r && decide (port < 4) && decide (slot < 32)
  | .sapFrameStart port | .slaveFrameStart port _ | .clkLost port => decide (port < 4)
  | .railRegulation rail | .railFault rail _ | .railOutOfTolerance rail => decide (1 ≤ rail) && decide (rail ≤ 6)
  | .thermalSample temps => temps.all fun e => decide (e.1 < 32)
  | .setOffset data _ | .write ⟨data, _⟩ _ => decide (data.length ≤ 255)
  | .stMessageRefused _ _ _ | .authLockoutEnd | .zeroiseWipeComplete | .arp _ _ _ | .neighbourSolicitation _ _
  | .echoRequest _ _ _ _ | .ethLinkUp _ _ | .ethLinkDown | .ptpAnnounce _ | .announceReceiptTimeout | .tlIncrement _ _ _
  | .wclkInEdge _ _ | .wclkLoss _ | .ptpLoss _ | .quantLatch | .verifyComplete | .hbmTrainingComplete _
  | .clearEraseComplete | .slotProgramComplete | .sectorEraseComplete | .minuteTick | .counterPersist | .vinPresent _
  | .vinStable _ | .vinFault _ | .pwrGoodRise | .railsOff | .modRstNAssert | .modRstNRelease _ | .resetEnd _
  | .bootStageComplete _ | .wakeComplete | .telemetryUpdate _ _ _ _ | .read | .read8 | .alertResponse | .wclkOutFall
  | .standbyDomainOff _ | .smbusTimeout | .boundaryScanAccess _ | .igmpMldReport _ _ => true

end Sys2Proof
end

