-- ==== Sys2Proof/Safety.lean ====
section
/-! DEFINITION. The terms claims are stated in: a request that is executed, what its execution counts, the canonical form
of stored data, and what the end of a command may change. -/

namespace Sys2Proof

/-- The TYPE and the request of a command that a session's open is asked for (R332, R401): every host message but
SESSION_OPEN. -/
def Instr.request? : Instr → Option (Byte × Req)
  | .sessionClose q => some (0x02, q)
  | .nop q => some (0x03, q)
  | .regRead q => some (0x10, q)
  | .regWrite ⟨q, _⟩ => some (0x11, q)
  | .memRead q _ => some (0x20, q)
  | .memWrite q _ => some (0x21, q)
  | .streamOpen q => some (0x30, q)
  | .submit q => some (0x31, q)
  | .streamBind q => some (0x32, q)
  | .destWrite q => some (0x38, q)
  | .destRead q => some (0x39, q)
  | .coChallenge q => some (0x60, q)
  | .coAuth q => some (0x61, q)
  | .coEnrol q => some (0x62, q)
  | .attest q => some (0x63, q)
  | .certRead q => some (0x64, q)
  | .keyAgree q => some (0x65, q)
  | .sakLoad q => some (0x66, q)
  | .saCtrl q => some (0x67, q)
  | .markKeyLoad q => some (0x68, q)
  | .svnCommit q => some (0x69, q)
  | .keyRevoke q => some (0x6A, q)
  | .fwWrite q => some (0x6B, q)
  | .zeroise q => some (0x6C, q)
  | .selftest q => some (0x6D, q)
  | .random q => some (0x6E, q)
  | _ => none

/-- A security service: its TYPE, who may use it, whether ZEROISED admits it, and its request (R401, R402). ZEROISE has
its own rule (R406). -/
def Instr.service? : Instr → Option (Byte × Machine.Who × Bool × Req)
  | .coChallenge q => some (0x60, .role1, false, q)
  | .coAuth q => some (0x61, .role1, false, q)
  | .coEnrol q => some (0x62, .any, false, q)
  | .attest q => some (0x63, .any, true, q)
  | .certRead q => some (0x64, .any, true, q)
  | .keyAgree q => some (0x65, .co, false, q)
  | .sakLoad q => some (0x66, .coKek, false, q)
  | .saCtrl q => some (0x67, .co, false, q)
  | .markKeyLoad q => some (0x68, .coKek, false, q)
  | .svnCommit q => some (0x69, .co, false, q)
  | .keyRevoke q => some (0x6A, .co, false, q)
  | .fwWrite q => some (0x6B, .co, false, q)
  | .selftest q => some (0x6D, .any, true, q)
  | .random q => some (0x6E, .any, false, q)
  | _ => none

/-- A register command whose reader must reach its block: the reach asked for and the reader (R4, R441). EVREC_CLEAR and
REGISTER_WRITE have rules of their own. -/
def Instr.access? : Instr → Option (Machine.Reach × Nat)
  | .secZeroise r _ => some (.subset, r)
  | .ethPtpCfg r _ => some (.session, r)
  | .tlLoad r => some (.session, r)
  | .tlStep r _ _ => some (.session, r)
  | .tlCtrl r _ => some (.session, r)
  | .tlStatLen r _ => some (.session, r)
  | .tlPosLo r => some (.subset, r)
  | .chSubmit r => some (.session, r)
  | .chRestart r => some (.session, r)
  | .start r => some (.session, r)
  | .stop r => some (.session, r)
  | .park r => some (.session, r)
  | .resume r => some (.session, r)
  | .close r => some (.session, r)
  | .abort r => some (.session, r)
  | .streamLoHalfWrite r _ _ => some (.session, r)
  | .streamSeedHi r _ => some (.session, r)
  | .streamInvT r _ => some (.session, r)
  | .streamStartHi r _ => some (.session, r)
  | .streamParkHi r _ => some (.session, r)
  | .queueHead r _ => some (.session, r)
  | .store r _ => some (.session, r)
  | .delete r _ => some (.session, r)
  | .prefetch r _ => some (.session, r)
  | .txnAppend r => some (.session, r)
  | .txnSubmit r _ _ => some (.session, r)
  | .txnClear r => some (.session, r)
  | .txnCancel r => some (.session, r)
  | .intEnable r _ => some (.session, r)
  | .intDest r _ => some (.session, r)
  | .imageLen r _ => some (.session, r)
  | .verify r => some (.session, r)
  | .activate r => some (.session, r)
  | .deactivate r => some (.session, r)
  | .discard r => some (.session, r)
  | .klCtrl r _ => some (.session, r)
  | .klLinkPeer r _ => some (.session, r)
  | .klRingMember r _ => some (.session, r)
  | .ethDevAddr r _ => some (.subset, r)
  | .sapCmdStart r _ => some (.session, r)
  | .startExt r _ => some (.session, r)
  | .sapCmdStop r _ => some (.session, r)
  | .stopNow r _ => some (.session, r)
  | .sapCmdCancel r _ => some (.session, r)
  | .sapMask r _ _ _ => some (.session, r)
  | .sapSlotMap r _ _ _ => some (.session, r)
  | .rngTestOutLo r => some (.session, r)
  | .evrecData0 r => some (.always, r)
  | .evrecData7 r => some (.always, r)
  | .evrecCtrl r _ => some (.always, r)
  | .standby r => some (.always, r)
  | .wake r => some (.always, r)
  | .pwrReset r _ => some (.always, r)
  | .pwrEnergyLo r => some (.always, r)
  | _ => none

/-- The state a request meets: the upsets its command carries have fallen. -/
def Instr.before (c : Instr) (s : Machine.State) : Machine.State :=
  match c with
  | .memRead _ ups => Machine.applyUpsets ups s
  | .memWrite _ ups => Machine.applyUpsets ups s
  | _ => s

end Sys2Proof

namespace Sys2Proof.Machine

/-! ## Requests -/

/-- The endpoint receives the request and executes it now: the link is up, the message is for this device, its session is
open, and it repeats no request that waits or was answered (R331, R335). -/
def State.executes (s : State) (q : Req) : Bool :=
  s.receives && forUs q.dstDev s && decide (q.session.toNat < 8) && (s.sess q.session.toNat).isOpen &&
  !(s.kl.waits.any fun w => w.req.session == q.session && w.req.reqId == q.reqId) &&
  ((s.sess q.session.toNat).replies.find? (·.1 = q.reqId)).isNone

/-- The counts of an executed request: SESSION_REQS of its session (R450) and the period's count (R455). -/
def State.counted (s : State) (q : Req) : State :=
  (s.modSess q.session.toNat fun x => { x with int := { x.int with reqs := x.int.reqs + 1 } }).modLive
    fun c => { c with exec := satInc c.exec }


/-! ## Stored data -/

/-- Keys rise strictly and no entry equals the default. -/
def canonical {α : Type} [DecidableEq α] (d : α) : Cells α → Bool
  | [] => true
  | [e] => e.2 ≠ d
  | e :: f :: t => decide (e.2 ≠ d) && decide (e.1 < f.1) && canonical d (f :: t)

/-- The canonical form of one tier: bytes, tags, check-byte and parity differences, upsets of parity and tag words. -/
def Tier.wf (t : Tier) : Bool :=
  canonical 0 t.bytes && canonical 0 t.tags && canonical 0 t.chk && canonical 0 t.par && canonical 0 t.aux

/-- The canonical form of the device's memory. -/
def Mem.wf (m : Mem) : Bool := m.t0.wf && m.t1.wf && m.t2.wf && m.t3.wf

/-- Stored data in its one canonical form: the memories, the open sessions, the readers. -/
def State.Tidy (s : State) : Prop :=
  s.mem.wf = true ∧ canonical {} s.sessions = true ∧ canonical {} s.readers = true

/-- The byte at an address of a tier, as stored. -/
def State.byte (s : State) (tier a : Nat) : Byte := (s.tier tier).byte a

/-! ## The end of a command -/

/-- What the end of a command leaves as it is: everything but the running peak, the interrupt fields of sessions, the
port's transmit side and the event recorder (R416, R451, R455). -/
structure Settled (s t : State) : Prop where
  pending  : t.pending = s.pending
  readers  : t.readers = s.readers
  smbOff   : t.smbOff = s.smbOff
  tl       : t.tl = s.tl
  period   : t.period = s.period
  quant    : t.quant = s.quant
  cells    : t.cells = s.cells
  cleared  : t.cleared = s.cleared
  fed      : t.fed = s.fed
  resident : t.resident = s.resident
  rng      : t.rng = s.rng
  image    : t.image = s.image
  scheds   : t.scheds = s.scheds
  stages   : t.stages = s.stages
  admitted : t.admitted = s.admitted
  orders   : t.orders = s.orders
  bellows  : t.bellows = s.bellows
  streams  : t.streams = s.streams
  queues   : t.queues = s.queues
  profiles : t.profiles = s.profiles
  profCap  : t.profCap = s.profCap
  txn      : t.txn = s.txn
  mem      : t.mem = s.mem
  prot     : t.prot = s.prot
  tag      : t.tag = s.tag
  kl       : t.kl = s.kl
  saps     : t.saps = s.saps
  wclkEn   : t.wclkEn = s.wclkEn
  sec      : t.sec = s.sec
  pwr      : t.pwr = s.pwr
  free     : t.free = s.free
  eth      : { t.eth with txDrop := 0, macsec := {} } = { s.eth with txDrop := 0, macsec := {} }
  live     : { t.stats with livePeak := 0 } = { s.stats with livePeak := 0 }
  sess     : ∀ i, { t.sess i with int := {} } = { s.sess i with int := {} }
  ring     : s.bureau.openRec = none → t.bureau.ring = s.bureau.ring

end Sys2Proof.Machine
end

