-- ==== Sys2Proof/Certificates/Slice0/Obligations.lean ====
section
/-! DEFINITION. What is claimed of the model, to be proved: each statement says what commands of the block do, by the rules
its entry of OBLIGATIONS.json cites. The end of a command, `State.settle`, changes only what EndOfCommandFrame leaves out;
a statement that names the next state in full states the command's frame with it. -/

section

open Sys2Proof Sys2Proof.Machine

/-! ## The block and its commands -/

/-- The block takes the command at the front of its queue and leaves the rest waiting; with none waiting it idles (the
form of the model: notes/assumptions/1.md). -/
def Obligations.StepRunsTheFrontCommand : Prop :=
  (∀ (c : Instr) (rest : List Instr) (s : State),
    step { s with pending := c :: rest } = exec c { s with pending := rest }) ∧
  ∀ s : State, s.pending = [] → step s = .next s

/-- Every command answers a next state, and leaves the commands behind it as they wait (the queue is the model's own:
notes/assumptions/1.md). -/
def Obligations.EveryCommandAnswersAndKeepsTheQueue : Prop :=
  ∀ (c : Instr) (s : State), ∃ t, exec c s = .next t ∧ t.pending = s.pending

/-- Whatever the block does in a step, its memories and its tables of sessions and readers stay in their one canonical
form: keys rise, and nothing listed reads as an unlisted key does. -/
def Obligations.EveryStepKeepsDataCanonical : Prop :=
  ∀ s t : State, s.Tidy → step s = .next t → t.Tidy

/-- The machine after reset: no session open, no stream, no event, the timeline FREE at position 0, every Kryter link
DISABLED, and its stored data in canonical form. -/
def Obligations.ResetLeavesTheBlockQuiet : Prop :=
  State.reset.Tidy ∧ State.reset.pending = [] ∧ State.reset.sessions = [] ∧ State.reset.streams = [] ∧
  State.reset.bureau.queue = [] ∧ State.reset.tl.state = .free ∧ State.reset.tl.pos = 0 ∧
  (∀ k, (State.reset.klink k).state = .disabled) ∧ ∀ n, (State.reset.sap n).state = .stopped

/-- The end of a command: running peak, INTERRUPT messages, events into the recorder. Nothing else changes. -/
def Obligations.EndOfCommandFrame : Prop :=
  ∀ s : State, s.Tidy → Settled s s.settle

/-- Bytes written to a tier read back, and every other byte reads as before, in a tier that holds no upset. -/
def Obligations.WrittenBytesReadBack : Prop :=
  ∀ (s : State) (tier a : Nat) (bs : List Byte), tier < 4 → s.mem.wf = true → (s.tier tier).chk = [] →
    (∀ i, (h : i < bs.length) → (writeMem tier a bs s).byte tier (a + i) = bs[i]) ∧
    ∀ t x, t < 4 → (t ≠ tier ∨ x < a ∨ a + bs.length ≤ x) → (writeMem tier a bs s).byte t x = s.byte t x

/-! ## Registers -/

/-- A write to a register: by a reader that reaches it, the register's own effect, without the flags that an update of its
core cycle sets (`raced`); a misaligned offset, the read-only IDENT block and offsets past the last block are ignored; under
RNG_CTRL.LOCK the seed and the lock stand. A read of RNG_TEST_OUT_LO hashes the session's test key and captures the high
word, and changes nothing else. -/
def Obligations.RegisterAccessesActOrAreIgnored : Prop :=
  (∀ (r : Nat) (off v raced : W32) (s : State), s.actsAs (reachOf off.toNat) r = true → s.pwr.resetReq = false →
    (off.toNat ≠ 0x1100 → exec (.registerWrite r off ⟨v, raced⟩) s =
      .next (resetAfter (writeReg r off.toNat (v &&& ~~~(raced &&& w1cFlags off.toNat)) s)).settle) ∧
    ((off.toNat % 4 ≠ 0 ∨ off.toNat < 0x1000 ∨ 0x120000 ≤ off.toNat) →
      exec (.registerWrite r off ⟨v, raced⟩) s = .next s.settle) ∧
    (s.rng.lock = true → off.toNat = 0x110000 ∨ off.toNat = 0x110004 ∨ off.toNat = 0x110008 →
      exec (.registerWrite r off ⟨v, raced⟩) s = .next s.settle) ∧
    (s.rng.lock = false → off.toNat = 0x110004 →
      exec (.registerWrite r off ⟨v, raced⟩) s =
        .next (State.settle { s with rng := { s.rng with seed := join (hi32 s.rng.seed) v } }))) ∧
  ∀ (r : Nat) (s : State), s.actsAs .session r = true →
    let x := (s.sess r).rng
    let h := keyHash x.seed x.stream x.tensor x.step x.elem
    exec (.rngTestOutLo r) s =
      .next (State.settle (s.modSess r fun y => { y with rng := { y.rng with outHi := hi32 h } }))

/-- The SMBus port reaches the subset of R441, or the smaller one of R431; any other register it writes keeps its value and
DENIED is set, and EVREC_CLEAR sets EVREC_STATUS.CMD_ERR too (R422). A session that is not open, or that no message can reach,
does nothing. -/
def Obligations.SmbusStaysInItsSubset : Prop :=
  (∀ (c : Instr) (w : Reach) (s : State), c.access? = some (w, 8) → s.pwr.standbyOn = true → s.smbReach w = false →
    exec c s = .next (State.settle { s with pwr := { s.pwr with denied := true } })) ∧
  (∀ (off v raced : W32) (s : State), s.pwr.standbyOn = true → s.smbReach (reachOf off.toNat) = false → off ≠ 0xE003C →
    exec (.registerWrite 8 off ⟨v, raced⟩) s = .next (State.settle { s with pwr := { s.pwr with denied := true } })) ∧
  (∀ (v raced : W32) (s : State), s.pwr.standbyOn = true →
    let t := { s with pwr := { s.pwr with denied := true }, bureau := { s.bureau with cmdErr := true } }
    exec (.evrecClear 8 v) s = .next (State.settle t) ∧ exec (.registerWrite 8 0xE003C ⟨v, raced⟩) s = .next (State.settle t)) ∧
  ∀ (c : Instr) (w : Reach) (r : Nat) (s : State), c.access? = some (w, r) → r ≠ 8 →
    (8 < r ∨ (s.sess r).isOpen = false ∨ s.receives = false) →
    exec c s = .next s

/-- Each session has its own capture of TL [63:32]: a read of TL_POS_LO captures for its reader alone, whatever the others
hold, and TL_POS_HI gives a session its own capture. -/
def Obligations.PositionCapturesAreKeptApart : Prop :=
  ∀ (r i : Nat) (s : State), s.Tidy → r < 8 → (s.sess r).isOpen = true → s.receives = true → i < 8 →
    ∃ t, exec (.tlPosLo r) s = .next t ∧ (t.reader r).tlHi = hi32 s.tl.pos ∧
      (i ≠ r → t.reader i = s.reader i) ∧ (readReg i 0x10010 t).1 = (t.reader i).tlHi

/-! ## Requests and sessions -/

/-- A request the endpoint receives for this device but that names no open session is refused with BAD_SESSION and counted,
and does nothing; a message for another device is discarded and counted, and does nothing. -/
def Obligations.RequestNeedsAnOpenSessionHere : Prop :=
  (∀ (c : Instr) (typ : Byte) (q : Req) (s : State), c.request? = some (typ, q) → s.pwr.resetReq = false →
    (c.before s).receives = true → forUs q.dstDev (c.before s) = true →
    (7 < q.session.toNat ∨ ((c.before s).sess q.session.toNat).isOpen = false) →
    exec c s = .next (State.settle (sendOut (.st (replyMsg typ q q.session (.err 4 0 0))) (rxBad (c.before s))))) ∧
  ∀ (c : Instr) (typ : Byte) (q : Req) (s : State), c.request? = some (typ, q) → s.pwr.resetReq = false →
    (c.before s).receives = true → q.dstDev ≠ (c.before s).eth.devAddr → q.dstDev ≠ 0xFFFF →
    exec c s = .next (State.settle (rxDrop (c.before s)))

/-- A request that repeats one of the session's last 16 REQ_IDs is answered with the kept reply and not executed again. The
reply to an executed request is the first of the session's kept replies, of which there are at most 16; it leaves by the
port when the link is up and MACsec is off, and is counted as dropped when the link is down. Nothing else changes. -/
def Obligations.RepliesAreKeptAndSentAgain : Prop :=
  (∀ (c : Instr) (typ : Byte) (q : Req) (m : Msg) (s : State), c.request? = some (typ, q) → s.pwr.resetReq = false →
    (c.before s).receives = true → forUs q.dstDev (c.before s) = true → q.session.toNat < 8 →
    ((c.before s).sess q.session.toNat).isOpen = true → (c.before s).kl.waits = [] →
    ((c.before s).sess q.session.toNat).replies.find? (·.1 = q.reqId) = some (q.reqId, m) →
    exec c s = .next (State.settle (sendOut (.st m) (c.before s)))) ∧
  ∀ (typ : Byte) (q : Req) (y : Reply) (s : State), q.session.toNat < 8 → s.Tidy → (s.sess q.session.toNat).isOpen = true →
    let m := replyMsg typ q q.session y
    let t := s.modSess q.session.toNat fun x => { x with replies := ((q.reqId, m) :: x.replies).take 16 }
    (s.eth.up = true → s.eth.macsec.en = false → answer typ q y s = { t with outbox := s.outbox ++ [.st m] }) ∧
    (s.eth.up = false → answer typ q y s = { t with eth := { s.eth with txDrop := satInc s.eth.txDrop } }) ∧
    (t.sess q.session.toNat).replies = ((q.reqId, m) :: (s.sess q.session.toNat).replies).take 16 ∧
    ∀ i, i ≠ q.session.toNat → t.sess i = s.sess i

/-- NOP is answered with an empty reply, and refused with a payload or an ARG other than 0. SESSION_OPEN gives the free session it names, or the
lowest free one, with its role and every copy of a per-session register at its reset value; without a free session it is
refused, and so is one that is malformed; a repeated one is answered again. SESSION_CLOSE and a lease that passes, with event
0x0606, take the session and its copies away. No other session is touched. -/
def Obligations.SessionsOpenAndClose : Prop :=
  (∀ (q : Req) (s : State), s.executes q = true →
    exec (.nop q) s = .next (State.settle
      (answer 0x03 q (if q.payload.isEmpty && q.arg == 0 then .ok [] else .err 5 0 0) (s.counted q)))) ∧
  (∀ (q : Req) (want role : Nat) (s : State), s.receives = true → forUs q.dstDev s = true →
    (s.eth.opens.find? fun o => o.1 == q.reqId && o.2.1 == q.ip && o.2.2.1 == q.port && decide (o.2.2.2.1 < 8)) = none →
    q.payload = [] → q.arg.toNat = want + 256 * role → role < 2 →
    let t := s.modLive fun c => { c with exec := satInc c.exec }
    let refused := fun st =>
      let m := replyMsg 0x01 q q.session (.err st 0 0)
      State.settle (sendOut (.st m) (t.modEth fun e => { e with opens := ((q.reqId, q.ip, q.port, 0xFF, m) :: e.opens).take 16 }))
    (∀ i, (want = i ∧ i < 8 ∨ want = 0xFF ∧ i < 8 ∧ ∀ j, j < i → (s.sess j).isOpen = true) → (s.sess i).isOpen = false →
      let u := (t.setSess i { isOpen := true, role := decide (role = 1) }).modReader i fun _ => {}
      let m := replyMsg 0x01 q (BitVec.ofNat 8 i) (.ok [])
      exec (.sessionOpen q) s = .next (State.settle (sendOut (.st m)
        (u.modEth fun e => { e with opens := ((q.reqId, q.ip, q.port, i, m) :: e.opens).take 16 })))) ∧
    ((want < 8 ∧ (s.sess want).isOpen = true ∨ want = 0xFF ∧ ∀ j, j < 8 → (s.sess j).isOpen = true) →
      exec (.sessionOpen q) s = .next (refused 4)) ∧
    (7 < want → want < 0xFF → exec (.sessionOpen q) s = .next (refused 5))) ∧
  (∀ (q : Req) (o : W32 × BitVec 128 × W16 × Nat × Msg) (s : State), s.receives = true → forUs q.dstDev s = true →
    (s.eth.opens.find? fun o => o.1 == q.reqId && o.2.1 == q.ip && o.2.2.1 == q.port && decide (o.2.2.2.1 < 8)) = some o →
    exec (.sessionOpen q) s = .next (State.settle (sendOut (.st o.2.2.2.2) s))) ∧
  (∀ (q : Req) (s : State), s.executes q = true → q.payload = [] → q.arg = 0 →
    exec (.sessionClose q) s = .next (State.settle (answer 0x02 q (.ok []) (closeSess q.session.toNat (s.counted q))))) ∧
  (∀ (q : Req) (s : State), s.executes q = true → (q.payload ≠ [] ∨ q.arg ≠ 0) →
    exec (.sessionClose q) s = .next (State.settle (answer 0x02 q (.err 5 0 0) (s.counted q)))) ∧
  (∀ (i : Nat) (s : State), i < 8 → (s.sess i).isOpen = true →
    exec (.sessionLeaseExpiry i) s = .next (State.settle
      (fire 5 (record 0x0606 (BitVec.ofNat 32 i) (lo32 s.tl.pos) 0 0 (closeSess i s))))) ∧
  ∀ (i : Nat) (s : State), s.Tidy →
    (closeSess i s).sess i = {} ∧ (closeSess i s).reader i = {} ∧
    ∀ j, j ≠ i → (closeSess i s).sess j = s.sess j ∧ (closeSess i s).reader j = s.reader j

/-- The first check of R331 that a datagram fails: too short, it is only counted; a length that is wrong, BAD_MSG; a CRC
that is wrong, the echoed header with BAD_CRC; for another device, it is discarded. -/
def Obligations.MessageThatFailsACheckIsRefused : Prop :=
  ∀ (ip : BitVec 128) (port : W16) (raw : List Byte) (s : State), s.receives = true →
    let n := raw.length
    let len := field raw 12 2
    let q := rawReq ip port raw
    let typ := BitVec.ofNat 8 (field raw 1 1)
    let crcOk := (crc32c (raw.take (n - 4))).toNat = field raw (n - 4) 4
    (n < 28 → exec (.stMessageRefused ip port raw) s = .next (State.settle (rxBad s))) ∧
    (28 ≤ n → (n ≠ 24 + len + 4 ∨ 8192 < len) → exec (.stMessageRefused ip port raw) s =
      .next (State.settle (sendOut (.st (replyMsg typ q q.session (.err 2 0 0))) (rxBad s)))) ∧
    (28 ≤ n → n = 24 + len + 4 → len ≤ 8192 → ¬ crcOk → exec (.stMessageRefused ip port raw) s =
      .next (State.settle (sendOut (.stRaw (rawEcho raw) ip port) (ingressBad (rxBad s))))) ∧
    (28 ≤ n → n = 24 + len + 4 → len ≤ 8192 → crcOk → field raw 0 1 = 1 → field raw 2 1 / 4 = 0 → field raw 14 2 = 0 →
      forUs q.dstDev s = false → exec (.stMessageRefused ip port raw) s = .next (State.settle (rxDrop s)))

/-- REG_READ reads consecutive registers, each as an access of its own; REG_WRITE makes every write of its list in order,
or none where an offset is misaligned. -/
def Obligations.RegisterMessagesReadAndWrite : Prop :=
  (∀ (q : Req) (s : State), s.executes q = true → q.payload.length = 4 → 1 ≤ field q.payload 0 4 →
    field q.payload 0 4 ≤ 256 → q.arg.toNat < 2 ^ 32 → q.arg.toNat % 4 = 0 →
    let u := readRegs q.session.toNat (field q.payload 0 4) q.arg.toNat (s.counted q)
    exec (.regRead q) s = .next (State.settle (answer 0x10 q (.ok u.1) u.2))) ∧
  (∀ (q : Req) (raced : W32) (s : State), s.executes q = true → q.payload.length % 8 = 0 → 8 ≤ q.payload.length →
    q.payload.length ≤ 2048 → q.arg = 0 → (∀ p ∈ regPairs q.payload, p.1 % 4 = 0) →
    let u := (s.counted q).each (regPairs q.payload) fun s p => writeRaced q.session.toNat p.1 p.2 raced s
    exec (.regWrite ⟨q, raced⟩) s = .next (State.settle (resetAfter (answer 0x11 q (.ok []) u)))) ∧
  ∀ (q : Req) (raced : W32) (s : State) (i : Nat), s.executes q = true → s.pwr.resetReq = false → q.payload.length % 8 = 0 →
    8 ≤ q.payload.length → q.payload.length ≤ 2048 → q.arg = 0 →
    (regPairs q.payload).findIdx? (fun p => p.1 % 4 != 0) = some i →
    exec (.regWrite ⟨q, raced⟩) s = .next (State.settle
      (answer 0x11 q (.err 5 i (((regPairs q.payload)[i]?.map (·.1)).getD 0)) (s.counted q)))

/-- MEM_READ answers the bytes of its units where every unit may be read and can be, and otherwise the refusal of the first
unit that may not or cannot be read. MEM_WRITE stores its bytes, tags them and answers, or answers the refusal of the first
unit that is refused, or UNCORR where bytes that it leaves of a granule cannot be read; SPACE 3 is the session's own staging
buffer. Before memory is READY both answer NOT_READY. -/
def Obligations.MemoryMessagesReadAndWrite : Prop :=
  (∀ (q : Req) (ups : List Upset) (s : State), (applyUpsets ups s).executes q = true →
    let u := (applyUpsets ups s).counted q
    let n := field q.payload 0 4
    q.payload.length = 4 → 64 ≤ n → n ≤ 8192 → n % 64 = 0 → memArgOk q = true →
    (u.mem.ready = false → exec (.memRead q ups) s = .next (State.settle (answer 0x20 q (.err 6 0 0) u))) ∧
    (u.mem.ready = true → memSpace q = 3 →
      exec (.memRead q ups) s = .next (State.settle (answer 0x20 q (.err 8 0 (memAddr q % 2 ^ 32)) u))) ∧
    (u.mem.ready = true → memSpace q < 3 →
      (∀ y, firstRefused false (memSpace q) (memAddr q) (n / 64) u = some y →
        exec (.memRead q ups) s = .next (State.settle (answer 0x20 q y u))) ∧
      (firstRefused false (memSpace q) (memAddr q) (n / 64) u = none →
        (∀ (b : List Byte) (t : State), readUnits (memSpace q) (n / 64) 0 (memAddr q) u = (.inl b, t) →
          exec (.memRead q ups) s = .next (State.settle (answer 0x20 q (.ok b) t))) ∧
        ∀ (y : Reply) (t : State), readUnits (memSpace q) (n / 64) 0 (memAddr q) u = (.inr y, t) →
          exec (.memRead q ups) s = .next (State.settle (answer 0x20 q y t))))) ∧
  ∀ (q : Req) (ups : List Upset) (s : State), (applyUpsets ups s).executes q = true →
    let u := (applyUpsets ups s).counted q
    let n := q.payload.length
    let a := memAddr q
    let i := q.session.toNat
    64 ≤ n → n ≤ 8192 → n % 64 = 0 → memArgOk q = true →
    (u.mem.ready = false → exec (.memWrite q ups) s = .next (State.settle (answer 0x21 q (.err 6 0 0) u))) ∧
    (u.mem.ready = true → memSpace q = 3 → (a < 0x01000000 + i * 0x40000 ∨ 0x01000000 + i * 0x40000 + 0x40000 < a + n) →
      exec (.memWrite q ups) s = .next (State.settle (answer 0x21 q (.err 7 0 (a % 2 ^ 32)) u))) ∧
    (u.mem.ready = true → memSpace q = 3 → 0x01000000 + i * 0x40000 ≤ a → a + n ≤ 0x01000000 + i * 0x40000 + 0x40000 →
      exec (.memWrite q ups) s = .next (State.settle (answer 0x21 q (.ok []) (u.modSess i fun x =>
        { x with prof := { x.prof with staging := cputs 0 (a - (0x01000000 + i * 0x40000)) q.payload x.prof.staging } })))) ∧
    (u.mem.ready = true → memSpace q < 3 →
      (∀ y, firstRefused true (memSpace q) a (n / 64) u = some y →
        exec (.memWrite q ups) s = .next (State.settle (answer 0x21 q y u))) ∧
      ∀ t, firstRefused true (memSpace q) a (n / 64) u = none →
        (ingressRest (memSpace q) [(a, n)] u = (true, t) → exec (.memWrite q ups) s = .next (State.settle
          (answer 0x21 q (.ok []) (writeTagged (memSpace q) a q.payload 0xFFFF true (fun g => g) t)))) ∧
        (ingressRest (memSpace q) [(a, n)] u = (false, t) →
          exec (.memWrite q ups) s = .next (State.settle (answer 0x21 q (.err 9 0 0) (ingressBad t)))))

/-- STREAM_OPEN is decided and answered. A refusal is counted and answered with its code, DETAIL and POS (a refused restore
records its event too), and an open that restores nothing changes nothing else. An accepted open in a plan of one device is
counted, admits its stream, starts it where it gives a start, and answers its ID. In a ring plan it is refused with code 2
where this device is no member or cannot reach the next one, and otherwise admits its stream and passes the ADMIT on: its
answer waits for the ring. -/
def Obligations.StreamOpenIsDecidedAndAnswered : Prop :=
  ∀ (q : Req) (s : State), s.executes q = true → q.payload.length = 48 → q.arg = 0 →
    let b := q.payload
    let pos := if openStarts b then field b 16 8 else 0
    let reply := fun (id code detail pos : Nat) =>
      Reply.ok (leBytes 2 id ++ [BitVec.ofNat 8 code, BitVec.ofNat 8 detail, 0, 0, 0, 0] ++ leBytes 8 pos)
    (∀ (x : Refused) (t : State), decideOpen b (s.counted q) = (.inl x, t) →
      (openRestores b = false → t = s.counted q) ∧
      let u := t.modLive fun c => { c with refused := satInc c.refused }
      (x.code ≠ 0x15 → exec (.streamOpen q) s = .next (State.settle
        (answer 0x30 q (reply (field b 0 2) x.code x.detail x.pos) u))) ∧
      (x.code = 0x15 → exec (.streamOpen q) s = .next (State.settle
        (answer 0x30 q (reply (field b 0 2) x.code x.detail x.pos) (restoreRefused x.id x.detail (openCtx b) u))))) ∧
    ∀ (o : Opened) (t : State), decideOpen b (s.counted q) = (.inr o, t) →
      (o.plan.seqGroup ≤ 1 →
        exec (.streamOpen q) s = .next (State.settle (answer 0x30 q (reply o.id 0 0 pos)
          (startOpened b o.id o.plan (admitStream b o (t.modLive fun c => { c with opens := satInc c.opens })))))) ∧
      (1 < o.plan.seqGroup → (t.ringSelf o.plan.plan o.plan.seqGroup = none ∨ ringReach o.plan t = false) →
        exec (.streamOpen q) s = .next (State.settle (answer 0x30 q (reply (field b 0 2) 2 0 0)
          (t.modLive fun c => { c with refused := satInc c.refused })))) ∧
      ∀ i, 1 < o.plan.seqGroup → t.ringSelf o.plan.plan o.plan.seqGroup = some i → ringReach o.plan t = true →
        let u := admitStream b o t
        exec (.streamOpen q) s = .next (State.settle (passAdmit o.plan.plan o.plan.seqGroup 0 (BitVec.ofNat 16 o.id)
          u.eth.devAddr 0 u.img.id { u with kl := { u.kl with waits := u.kl.waits ++ [⟨o.id, q⟩] } }))

/-- SUBMIT to a command queue that takes entries and has room pushes them in order, STREAM_BIND sets both destinations of
an open stream; a queue that takes none answers BAD_QUEUE, one without room (beside the entries that a restore brings)
QUEUE_FULL, one whose neighbouring bytes cannot be read UNCORR, and nothing is pushed. -/
def Obligations.SubmissionsAndBindingsTakeEffect : Prop :=
  (∀ (q : Req) (s t : State), s.executes q = true →
    let u := s.counted q
    let k := q.arg.toNat
    let n := q.payload.length / 64
    k < 2 ^ 21 → q.payload.length % 64 = 0 → 0 < n → n ≤ 128 →
    ((k % 32 ≠ 0 ∨ (u.queue k).present = false ∨ takesEntries (u.stream (k / 32)) = false) →
      exec (.submit q) s = .next (State.settle (answer 0x31 q (.err 10 0 0) u))) ∧
    (k % 32 = 0 → (u.queue k).present = true → takesEntries (u.stream (k / 32)) = true →
      let room := (u.queue k).held + n + (u.stream (k / 32)).restoring
      ((u.queue k).depth < room → exec (.submit q) s = .next (State.settle (answer 0x31 q (.err 11 0 0) u))) ∧
      (room ≤ (u.queue k).depth → ingressRest 1 (entryRuns (u.queue k) n) u = (true, t) →
        let p := pushEntries (k / 32) ((List.range n).map fun i => slice (64 * i) 64 q.payload) t
        exec (.submit q) s = .next (State.settle
          (answer 0x31 q (.ok []) (progress (k / 32) (settleHead (k / 32) (p.queue k).held p))))) ∧
      (room ≤ (u.queue k).depth → ingressRest 1 (entryRuns (u.queue k) n) u = (false, t) →
        exec (.submit q) s = .next (State.settle (answer 0x31 q (.err 9 0 0) (ingressBad t)))))) ∧
  ∀ (q : Req) (s : State), s.executes q = true → q.arg.toNat < 65536 → q.payload.length = 4 →
    let u := s.counted q
    let a := field q.payload 0 2
    let b := field q.payload 2 2
    (a = 0xFFFF ∨ a < 4096 ∧ destKind (u.dest a) = 2) → (b = 0xFFFF ∨ b < 4096 ∧ destKind (u.dest b) = 2) →
    (u.stream q.arg.toNat).isOpen = true →
    let v := u.modStream q.arg.toNat fun x => { x with
      cplDest := if a = 0xFFFF then none else some a, audioDest := if b = 0xFFFF then none else some b }
    exec (.streamBind q) s = .next (State.settle (answer 0x32 q (.ok [])
      (progress q.arg.toNat (sendUnpaced q.arg.toNat (v.queue (qid q.arg.toNat 2)).held v))))

/-- DEST_WRITE puts a well-formed entry that nothing names into the table and asks for its address; one in use answers
BUSY. DEST_READ answers the entry's 64 bytes and changes nothing. -/
def Obligations.DestinationsAreWrittenAndRead : Prop :=
  (∀ (q : Req) (s : State), s.executes q = true → q.arg.toNat < 4096 → q.payload.length = 64 →
    let u := s.counted q
    let e := BitVec.ofNat 512 (leNat q.payload)
    (destInUse q.arg.toNat u = true → exec (.destWrite q) s = .next (State.settle (answer 0x38 q (.err 12 0 0) u))) ∧
    (destInUse q.arg.toNat u = false → destOk e = false →
      exec (.destWrite q) s = .next (State.settle (answer 0x38 q (.err 5 0 0) u))) ∧
    (destInUse q.arg.toNat u = false → destOk e = true →
      let v := u.modEth fun x => { x with
        dest := cput 0 q.arg.toNat e x.dest, resolved := x.resolved.filter (·.1 != q.arg.toNat) }
      exec (.destWrite q) s = .next (State.settle (answer 0x38 q (.ok [])
        (if destKind e ≠ 0 && v.unresolved q.arg.toNat then sendOut (.resolve q.arg.toNat) v else v))))) ∧
  ∀ (q : Req) (s : State), s.executes q = true → q.arg.toNat < 4096 → q.payload = [] →
    exec (.destRead q) s = .next (State.settle
      (answer 0x39 q (.ok (leBytes 64 ((s.counted q).dest q.arg.toNat).toNat)) (s.counted q)))

/-! ## Security services -/

/-- A service is refused before it is looked at: MODE, LIFECYCLE, the role, the key-encryption key, in that order; nothing
but the reply follows. -/
def Obligations.BarredServiceChangesNothing : Prop :=
  ∀ (c : Instr) (typ : Byte) (who : Who) (zeroised : Bool) (q : Req) (y : Reply) (s : State),
    c.service? = some (typ, who, zeroised, q) → s.executes q = true →
    serviceBarred who false zeroised q (s.counted q) = some y →
    exec c s = .next (State.settle (answer typ q y (s.counted q)))

/-- The Crypto Officer: a challenge is a fresh DRBG nonce held by the session; the signature over it gives the session its
rights and ends the run of failures; a wrong one is counted; the lockout refuses and later ends; a first enrolment makes
the module SECURE and draws its profile key, and the last credential is never removed. The self-tests of a use, `useTest`, run
with each draw and each key-store write. -/
def Obligations.OfficerServicesTakeEffect : Prop :=
  (∀ (q : Req) (s : State), s.executes q = true → q.payload = [] → q.arg = 0 →
    serviceBarred .role1 false false q (s.counted q) = none →
    let u := s.counted q
    let nonce := Config.drbgNonce u.sec.drbg
    exec (.coChallenge q) s = .next (State.settle (answer 0x60 q (.ok (leBytes 48 nonce.toNat))
      ((takeDraw u).2.modSess q.session.toNat fun x => { x with nonce := some nonce })))) ∧
  (∀ (q : Req) (s : State), s.executes q = true → q.payload.length = 104 → q.arg = 0 → field q.payload 0 1 ≤ 3 →
    serviceBarred .role1 false false q (s.counted q) = none →
    let u := s.counted q
    let i := q.session.toNat
    let v := u.modSess i fun x => { x with nonce := none }
    (u.sec.lockout = true → exec (.coAuth q) s = .next (State.settle (answer 0x61 q (.err 8 3 0) u))) ∧
    (u.sec.lockout = false →
      let w := v.modSess i fun x => { x with co := true }
      exec (.coAuth q) s = .next (State.settle (
        if authOk q u then answer 0x61 q (.ok [])
          (record 0x0904 (BitVec.ofNat 32 i) (BitVec.ofNat 32 (field q.payload 0 1)) (lo32 s.tl.pos) 0
            { w with sec := { w.sec with failRun := 0 } })
        else answer 0x61 q (.err 8 2 0)
          (fire 8 (record 0x0903 (BitVec.ofNat 32 i) (BitVec.ofNat 32 (field q.payload 0 1))
            ((satInc v.sec.failRun).setWidth 32) (lo32 s.tl.pos)
            { v with sec := { v.sec with
                failTotal := satInc v.sec.failTotal, failRun := satInc v.sec.failRun, authFail := true
                lockout := decide (7 ≤ v.sec.failRun.toNat) } })))))) ∧
  (∀ s : State, exec .authLockoutEnd s = .next (State.settle { s with sec := { s.sec with lockout := false } })) ∧
  (∀ (q : Req) (s : State), s.executes q = true → q.payload.length = 104 → q.arg = 0 → field q.payload 0 1 ≤ 3 →
    serviceBarred .any false false q (s.counted q) = none →
    let u := s.counted q
    let key := pairAt q.payload 8
    let cred := field q.payload 0 1
    (u.sec.lifecycle = .secure → (u.sess q.session.toNat).co = false →
      exec (.coEnrol q) s = .next (State.settle (answer 0x62 q (.err 8 1 0) u))) ∧
    (u.sec.lifecycle = .provisioning → key ≠ 0 →
      let v := (takeDraw u).2
      exec (.coEnrol q) s = .next (State.settle (answer 0x62 q (.ok [])
        (record 0x0908 (BitVec.ofNat 32 cred) 1 1 0 (useTest storeTests { v with sec := { v.sec with
          creds := cput 0 cred key v.sec.creds, lifecycle := .secure
          profileKey := some (Config.profileKey u.sec.drbg) } }))))) ∧
    (u.sec.lifecycle = .secure → (u.sess q.session.toNat).co = true → key ≠ 0 →
      exec (.coEnrol q) s = .next (State.settle (answer 0x62 q (.ok [])
        (record 0x0908 (BitVec.ofNat 32 cred) 1 1 0
          (useTest storeTests { u with sec := { u.sec with creds := cput 0 cred key u.sec.creds } }))))) ∧
    (u.sec.lifecycle = .secure → (u.sess q.session.toNat).co = true → key = 0 →
      let left := cput 0 cred 0 u.sec.creds
      (left = u.sec.creds → exec (.coEnrol q) s = .next (State.settle (answer 0x62 q (.ok []) u))) ∧
      (left ≠ u.sec.creds → left = [] → exec (.coEnrol q) s = .next (State.settle (answer 0x62 q (.err 8 8 0) u))) ∧
      (left ≠ u.sec.creds → left ≠ [] →
        exec (.coEnrol q) s = .next (State.settle (answer 0x62 q (.ok [])
          (record 0x0908 (BitVec.ofNat 32 cred) 2 1 0 (useTest storeTests { u with sec := { u.sec with creds := left } })))))))

/-- ATTEST signs a report of the module's state, CERT_READ reads the certificate chain, RANDOM draws bytes, SELFTEST runs
the tests: in every LIFECYCLE the rules allow. -/
def Obligations.ReportsAndDrawsAreAnswered : Prop :=
  (∀ (q : Req) (s : State), s.executes q = true → q.payload.length = 48 → q.arg = 0 →
    serviceBarred .any false true q (s.counted q) = none →
    let u := s.counted q
    let b := u.report q.payload
    exec (.attest q) s = .next (State.settle
      (answer 0x63 q (.ok (b ++ pairBytes (Config.dikSign (Config.sha384 b) u.sec.drbg)))
        (useTest drawTests { u with sec := { u.sec with drbg := u.sec.drbg + 1 } })))) ∧
  (∀ (q : Req) (s : State), s.executes q = true → q.payload.length = 4 → 1 ≤ field q.payload 0 4 →
    field q.payload 0 4 ≤ 8192 → serviceBarred .any false true q (s.counted q) = none →
    exec (.certRead q) s = .next (State.settle
      (answer 0x64 q (.ok ((Config.certChain.drop q.arg.toNat).take (field q.payload 0 4))) (s.counted q)))) ∧
  (∀ (q : Req) (s : State), s.executes q = true → q.payload = [] → q.arg = 0 →
    serviceBarred .any false true q (s.counted q) = none →
    exec (.selftest q) s = .next (State.settle (answer 0x6D q (.ok []) (runTests bootTests (s.counted q))))) ∧
  ∀ (q : Req) (s : State), s.executes q = true → q.payload = [] → 1 ≤ q.arg.toNat → q.arg.toNat ≤ 256 →
    serviceBarred .any false false q (s.counted q) = none →
    let u := s.counted q
    exec (.random q) s = .next (State.settle
      (answer 0x6E q (.ok ((List.range q.arg.toNat).map fun i => Config.drbgByte (256 * u.sec.drbg + i)))
        (useTest drawTests { u with sec := { u.sec with drbg := u.sec.drbg + 1 } })))

/-- The key services: a key agreement leaves the session its key-encryption key; a wrapped SAK or mark key that unwraps
takes its place, one that does not changes nothing; SA_CTRL selects among associations that hold a key. -/
def Obligations.KeyServicesTakeEffect : Prop :=
  (∀ (q : Req) (s : State), s.executes q = true → q.payload.length = 96 → q.arg = 0 →
    serviceBarred .co false false q (s.counted q) = none →
    let u := s.counted q
    let v := (takeDraw u).2
    let dev := pairBytes (Config.ephemeralPub u.sec.drbg)
    exec (.keyAgree q) s = .next (State.settle
      (answer 0x65 q (.ok (dev ++ pairBytes (Config.dikSign (Config.sha384 (q.payload ++ dev)) v.sec.drbg)))
        (useTest pairTests ((takeDraw v).2.modSess q.session.toNat
          fun x => { x with kek := some (Config.kek u.sec.drbg (pairAt q.payload 0) q.session.toNat) }))))) ∧
  (∀ (q : Req) (s : State), s.executes q = true → sakForm q = true →
    serviceBarred .coKek false false q (s.counted q) = none →
    let u := s.counted q
    let f := field q.payload
    (saInUse (f 0 1) (f 1 1) (f 2 1) u.eth.macsec = true →
      exec (.sakLoad q) s = .next (State.settle (answer 0x66 q (.err 5 0 0) u))) ∧
    (saInUse (f 0 1) (f 1 1) (f 2 1) u.eth.macsec = false →
      exec (.sakLoad q) s = .next (State.settle
        (match Config.aesKwUnwrap ((u.sess q.session.toNat).kek.getD 0) (slice 40 40 q.payload) with
        | none => answer 0x66 q (.err 8 5 0) u
        | some key =>
          let a : Assoc := { key := key, xpn := f 3 1 = 1, ssci := BitVec.ofNat 32 (f 4 4), pn := f 8 8
                             salt := BitVec.ofNat 96 (f 16 12), sci := BitVec.ofNat 64 (leNat (slice 28 8 q.payload).reverse) }
          answer 0x66 q (.ok []) (u.modMacsec fun m =>
            if f 0 1 = 0 then { m with tx := cput {} (f 2 1) a m.tx }
            else { m with rx := cput {} (f 1 1 * 4 + f 2 1) a m.rx }))))) ∧
  (∀ (q : Req) (s : State), s.executes q = true → q.payload.length = 8 → q.arg = 0 → field q.payload 0 1 ≤ 3 →
    serviceBarred .co false false q (s.counted q) = none →
    let u := s.counted q
    (2 ^ 30 ≤ field q.payload 4 4 → exec (.saCtrl q) s = .next (State.settle (answer 0x67 q (.err 5 0 0) u))) ∧
    (field q.payload 4 4 < 2 ^ 30 → u.eth.macsec.tx.any (·.1 == field q.payload 0 1) = true →
      exec (.saCtrl q) s = .next (State.settle (answer 0x67 q (.ok []) (u.modMacsec fun m => { m with
        txAn := BitVec.ofNat 2 (field q.payload 0 1), rxEnable := BitVec.ofNat 4 (field q.payload 1 1)
        window := BitVec.ofNat 32 (field q.payload 4 4) })))) ∧
    (u.eth.macsec.tx.any (·.1 == field q.payload 0 1) = false →
      exec (.saCtrl q) s = .next (State.settle (answer 0x67 q (.err 5 0 0) u)))) ∧
  ∀ (q : Req) (s : State), s.executes q = true → q.payload.length = 40 → q.arg = 0 →
    serviceBarred .coKek false false q (s.counted q) = none →
    let u := s.counted q
    exec (.markKeyLoad q) s = .next (State.settle
      (match Config.aesKwUnwrap ((u.sess q.session.toNat).kek.getD 0) q.payload with
      | none => answer 0x68 q (.err 8 5 0) u
      | some key => answer 0x68 q (.ok []) (useTest storeTests { u with sec := { u.sec with markKey := some key } })))

/-- SVN_COMMIT raises a floor to the version that runs, and is refused where that is no higher; KEY_REVOKE revokes a firmware
or image key slot, but never the last one; FW_WRITE goes to the copy that does not run. -/
def Obligations.FloorsRevocationAndFirmware : Prop :=
  (∀ (q : Req) (s : State), s.executes q = true → q.payload = [] → q.arg = 0 →
    serviceBarred .co false false q (s.counted q) = none →
    let u := s.counted q
    (u.sec.fwSvn.toNat ≤ u.sec.fwFloor.toNat →
      exec (.svnCommit q) s = .next (State.settle (answer 0x69 q (.err 8 9 0) u))) ∧
    (u.sec.fwFloor.toNat < u.sec.fwSvn.toNat →
      exec (.svnCommit q) s = .next (State.settle (answer 0x69 q (.ok [])
        (record 0x0906 0 u.sec.fwFloor u.sec.fwSvn 0 (useTest storeTests { u with sec := { u.sec with fwFloor := u.sec.fwSvn } })))))) ∧
  (∀ (q : Req) (s : State), s.executes q = true → q.payload = [] → q.arg = 1 →
    serviceBarred .co false false q (s.counted q) = none →
    let u := s.counted q
    let new : W32 := if u.image.active.isSome then u.img.svn else 0
    (new.toNat ≤ u.sec.imgFloor.toNat → exec (.svnCommit q) s = .next (State.settle (answer 0x69 q (.err 8 9 0) u))) ∧
    (u.sec.imgFloor.toNat < new.toNat →
      exec (.svnCommit q) s = .next (State.settle (answer 0x69 q (.ok [])
        (record 0x0906 1 u.sec.imgFloor new 0 (useTest storeTests { u with sec := { u.sec with imgFloor := new } })))))) ∧
  (∀ (q : Req) (fw : Bool) (slot : Nat) (s : State), s.executes q = true → q.payload = [] → slot < 8 →
    q.arg.toNat = 256 * slot + fw.toNat → serviceBarred .co false false q (s.counted q) = none →
    let u := s.counted q
    let old := if fw then u.sec.fwRevoked else u.sec.imgRevoked
    let new := old ||| (1 <<< slot : BitVec 8)
    (new = old → exec (.keyRevoke q) s = .next (State.settle (answer 0x6A q (.ok []) u))) ∧
    (new ≠ old → new = BitVec.allOnes 8 → exec (.keyRevoke q) s = .next (State.settle (answer 0x6A q (.err 8 8 0) u))) ∧
    (new ≠ old → new ≠ BitVec.allOnes 8 →
      exec (.keyRevoke q) s = .next (State.settle (answer 0x6A q (.ok []) (record 0x0907 (BitVec.ofNat 32 fw.toNat)
        (BitVec.ofNat 32 slot) 0 0 { u with sec :=
          if fw then { u.sec with fwRevoked := new } else { u.sec with imgRevoked := new } }))))) ∧
  ∀ (q : Req) (s : State), s.executes q = true → 64 ≤ q.payload.length → q.payload.length ≤ 8192 → q.arg.toNat % 64 = 0 →
    serviceBarred .co false false q (s.counted q) = none →
    let u := s.counted q
    exec (.fwWrite q) s = .next (State.settle (answer 0x6B q (.ok []) { u with sec :=
      if u.sec.fwCopy then { u.sec with fwA := cputs none q.arg.toNat (q.payload.map some) u.sec.fwA }
      else { u.sec with fwB := cputs none q.arg.toNat (q.payload.map some) u.sec.fwB } }))

/-- Zeroisation, by message or by register: a Crypto Officer's is answered before it begins and leaves no key, no
credential and LIFECYCLE ZEROISED; a register write without the code or the rights only sets CMD_ERR; its wipe empties the
profile store, the cache and the staging buffers. -/
def Obligations.ZeroiseTakesEveryKey : Prop :=
  (∀ (q : Req) (s : State), s.executes q = true → q.payload = [] → q.arg = 0 →
    ((s.counted q).sess q.session.toNat).co = true →
    exec (.zeroise q) s = .next (State.settle (zeroise q.session.toNat (answer 0x6C q (.ok []) (s.counted q))))) ∧
  (∀ (r : Nat) (v : W32) (s : State), s.actsAs .subset r = true →
    ((v = 0x5A45524F ∧ (r = 8 ∨ (s.sess r).co = true)) →
      exec (.secZeroise r v) s = .next (State.settle (zeroise (if r = 8 then 0xFF else r) s))) ∧
    (¬ (v = 0x5A45524F ∧ (r = 8 ∨ (s.sess r).co = true)) →
      exec (.secZeroise r v) s = .next (State.settle { s with sec := { s.sec with cmdErr := true } }))) ∧
  (∀ (source : Nat) (s : State),
    (zeroise source s).sec.profileKey = none ∧ (zeroise source s).sec.markKey = none ∧ (zeroise source s).sec.creds = [] ∧
    (zeroise source s).sec.lifecycle = .zeroised ∧ (zeroise source s).sec.wiping = true ∧
    (zeroise source s).sec.marks = [] ∧ (zeroise source s).eth.macsec.tx = [] ∧ (zeroise source s).eth.macsec.rx = []) ∧
  (∀ (source i : Nat) (s : State), s.Tidy → ((zeroise source s).sess i).kek = none) ∧
  ∀ s : State, s.sec.wiping = true →
    let u := (s.setTier 2 ((s.tier 2).zeroed 0x10000000 (0x10000000 + s.storeLen)))
    let v := u.setTier 1 ((u.tier 1).zeroed (cacheSlot 0) (cacheSlot 65536))
    exec .zeroiseWipeComplete s = .next (State.settle { v with
      profiles := []
      sessions := cmap {} (fun _ x => { x with prof := { x.prof with staging := [] } }) v.sessions
      sec := { v.sec with wiping := false } })

/-! ## Device links, neighbours and the port -/

/-- A device-link message from an UP Kryter link is taken at once: a TILE into its link's buffers, a RING message by its OP.
Over Ethernet one from a member of a ring of this device is taken, and moves the count of its sender and link on; one out of
its sequence is taken after what a gap does (`mseqGap`). From any other sender it is refused with BAD_SESSION and counted. A
device without an address takes none. A ring stream whose lease passes is freed. -/
def Obligations.DeviceLinkMessagesAreTaken : Prop :=
  (∀ (k : Nat) (q : Req) (s : State), k < 7 → (s.klink k).state = .up → s.eth.devAddr.toNat < 0xFFFE →
    exec (.tile (some k) q) s = .next (State.settle (takeTile (.kryter k) q.payload s)) ∧
    (field q.payload 0 1 = 1 → exec (.ringAdmit (some k) q) s = .next (State.settle (ringMessage q.payload s))) ∧
    (field q.payload 0 1 = 2 → exec (.ringAbort (some k) q) s = .next (State.settle (ringMessage q.payload s))) ∧
    (field q.payload 0 1 = 3 → exec (.ringClose (some k) q) s = .next (State.settle (ringMessage q.payload s)))) ∧
  (∀ (q : Req) (w : W32) (s : State), s.receives = true → forUs q.dstDev s = true → q.srcDev ≠ 0xFFFE →
    s.eth.devAddr.toNat < 0xFFFE → s.memberWord q.srcDev = some w → q.session = 0xFF →
    let got := BitVec.ofNat 32 (q.arg.toNat / 65536)
    let counted := fun (typ count : Nat) (links : List Nat) =>
      let expected := cget 0 s.kl.mseqRx (mseqKey q.srcDev count)
      let u := { s with kl := { s.kl with mseqRx := cput 0 (mseqKey q.srcDev count) (got + 1) s.kl.mseqRx } }
      if got = expected then u else mseqGap typ q.srcDev links expected got u
    let l := q.arg.toNat % 65536
    let n := q.payload.length / 8
    let rs := recordsIn n q.payload
    (q.arg.toNat < 2 ^ 48 → field q.payload 0 2 = l →
      exec (.tile none q) s = .next (State.settle (takeTile (.dev w) q.payload (counted 0x50 l [l])))) ∧
    (q.payload.length % 8 = 0 → 1 ≤ n → n ≤ 1023 → exec (.signal q) s = .next (State.settle
      ((counted 0x51 65536 ((rs.filter fun r => [1, 2, 3].contains (field r 0 1)).map fun r => field r 2 2).eraseDups).each
        rs fun s r => takeSignal (.dev w) r s))) ∧
    (field q.payload 0 1 = 1 →
      exec (.ringAdmit none q) s = .next (State.settle (ringMessage q.payload (counted 0x52 65536 [])))) ∧
    (field q.payload 0 1 = 2 →
      exec (.ringAbort none q) s = .next (State.settle (ringMessage q.payload (counted 0x52 65536 [])))) ∧
    (field q.payload 0 1 = 3 →
      exec (.ringClose none q) s = .next (State.settle (ringMessage q.payload (counted 0x52 65536 []))))) ∧
  (∀ (c : Instr) (typ : Byte) (q : Req) (s : State),
    (c, typ) ∈ [(Instr.tile none q, 0x50), (.signal q, 0x51), (.ringAdmit none q, 0x52), (.ringAbort none q, 0x52),
      (.ringClose none q, 0x52)] →
    s.receives = true → forUs q.dstDev s = true →
    let refused := fun st => State.settle (sendOut (.st (replyMsg typ q q.session (.err st 0 0))) (rxBad s))
    ((q.srcDev = 0xFFFE ∨ 0xFFFE ≤ s.eth.devAddr.toNat) → exec c s = .next (refused 3)) ∧
    (q.srcDev ≠ 0xFFFE → s.eth.devAddr.toNat < 0xFFFE → (s.memberWord q.srcDev = none ∨ q.session ≠ 0xFF) →
      exec c s = .next (refused 4))) ∧
  ∀ (id : Nat) (s : State), (s.stream id).isOpen = true → (s.stream id).ring.isSome = true →
    exec (.ringLeaseExpiry id) s = .next (State.settle (freeStream id s))

/-- ARP requests, neighbour solicitations and echo requests for the device's addresses are answered; a datagram to a foreign
port, and under MACsec a frame that is unprotected, fails its check or arrives on a channel that is off, are discarded and
counted, and one that passes moves its association's packet number on; an on-link destination takes the address resolution
finds, or is asked for again; the PTP groups joined are reported. -/
def Obligations.NeighbourFramesAreAnswered : Prop :=
  (∀ (mac : BitVec 48) (ip target : W32) (s : State), s.receives = true → target ≠ 0 →
    (target = s.eth.ip4 → exec (.arp mac ip target) s = .next (State.settle (sendOut (.arpReply mac ip) s))) ∧
    (target ≠ s.eth.ip4 → exec (.arp mac ip target) s = .next s)) ∧
  (∀ (source target : BitVec 128) (s : State), s.receives = true → s.ownsV6 target = true →
    exec (.neighbourSolicitation source target) s = .next (State.settle (sendOut (.advertisement source target) s))) ∧
  (∀ (source dest : BitVec 128) (v6 : Bool) (data : List Byte) (s : State), s.receives = true →
    (if v6 then s.ownsV6 dest else s.eth.ip4 != 0 && dest == s.eth.ip4.setWidth 128) = true →
    exec (.echoRequest source dest v6 data) s = .next (State.settle (sendOut (.echoReply dest source v6 data) s))) ∧
  (∀ (port : W16) (s : State), s.receives = true → port ≠ s.eth.stPort → port ≠ 319 → port ≠ 320 →
    exec (.udpOtherPort port) s = .next (State.settle { s with eth := { s.eth with rxDrop := satInc s.eth.rxDrop } })) ∧
  (∀ (sc an : Nat) (isProtected icvOk : Bool) (pn : Nat) (s : State), s.receives = true → s.eth.macsec.en = true →
    (isProtected = false ∨ icvOk = false ∨ s.eth.macsec.rxEnable.getLsbD sc = false) →
    exec (.macsecDrop sc an isProtected icvOk pn) s =
      .next (State.settle (s.modMacsec fun m => { m with drop := satInc m.drop }))) ∧
  (∀ (sc an k pn : Nat) (a : Assoc) (s : State), s.receives = true → s.eth.macsec.en = true → s.sec.mode ≠ .error →
    s.eth.macsec.rxEnable.getLsbD sc = true → s.eth.macsec.rx.find? (·.1 = sc * 4 + an) = some (k, a) →
    a.pn ≤ pn + s.eth.macsec.window.toNat →
    exec (.macsecDrop sc an true true pn) s =
      .next (State.settle (s.modMacsec fun m => { m with rx := cput {} k { a with pn := max a.pn (pn + 1) } m.rx }))) ∧
  (∀ (entry : Nat) (mac : BitVec 48) (s : State), destKind (s.dest entry) ≠ 0 → destField (s.dest entry) 40 6 = 0 →
    destMulticast (s.dest entry) = false →
    exec (.addressResolution entry (some mac)) s =
      .next (State.settle { s with eth := { s.eth with resolved := cput 0 entry mac s.eth.resolved } }) ∧
    exec (.addressResolution entry none) s = .next (State.settle (sendOut (.resolve entry) s))) ∧
  ∀ (v6 query : Bool) (s : State), v6 = (s.eth.ptpV6 && s.eth.ptpProf != 1) →
    (if query then s.receives = true
      else s.pwr.inReset = false ∧ s.pwr.state ≠ .shutdown ∧ s.eth.ptpState ≠ .faulty) →
    exec (.igmpMldReport v6 query) s = .next (State.settle (sendOut (.groupReport v6) s))

/-- The link comes up with event 0x0601 at the speed ETH_CTRL fixes, or, left to itself, at the one it trained to: 800 Gb/s
with event 0x0603 after three trainings that failed. It goes down with event 0x0602. A new device address goes to every UP
Kryter peer, and 0xFFFE is ignored. The PTP engine: a first or better master is selected with event 0x0604, the present one
refreshed, a worse one ignored; three intervals without an Announce lose it; a write of ETH_PTP_CFG restarts the engine in
LISTENING. -/
def Obligations.PortLinkAndMasterComeAndGo : Prop :=
  (∀ (at16 : Bool) (fails : Nat) (s : State), s.eth.up = false → s.eth.linkEn = true → s.pwr.inReset = false →
    s.pwr.state ≠ .shutdown → 2 ≤ s.pwr.stage.toNat →
    let up := fun (rate800 : Bool) =>
      fire 5 (record 0x0601 (if rate800 then 1 else 0) (lo32 s.tl.pos) (hi32 s.tl.pos) 0
        { s with eth := { s.eth with
          up := true, rate800 := rate800
          ptpState := if s.eth.ptpState == .initializing then .listening else s.eth.ptpState } })
    (s.eth.speed = 1 → at16 = true → exec (.ethLinkUp at16 fails) s = .next (State.settle (up false))) ∧
    (s.eth.speed = 1 → at16 = false → exec (.ethLinkUp at16 fails) s = .next s) ∧
    (s.eth.speed = 2 → exec (.ethLinkUp at16 fails) s = .next (State.settle (up true))) ∧
    ((s.eth.speed = 0 ∨ s.eth.speed = 3) →
      (fails < 3 → exec (.ethLinkUp at16 fails) s = .next (State.settle (up (!at16)))) ∧
      (3 ≤ fails → exec (.ethLinkUp at16 fails) s = .next (State.settle
        (fire 5 (record 0x0603 (BitVec.ofNat 32 fails) 0 0 0 (up true))))))) ∧
  (∀ s : State,
    (s.eth.up = false → exec .ethLinkDown s = .next s.settle) ∧
    (s.eth.up = true → exec .ethLinkDown s = .next (State.settle
      (fire 5 (record 0x0602 (lo32 s.tl.pos) (hi32 s.tl.pos) 0 0
        { s with eth := { s.eth with up := false, rate800 := false, lost := true } }))))) ∧
  (∀ (r : Nat) (v : W32) (s : State), s.actsAs .subset r = true →
    (v.setWidth 16 = (0xFFFE : W16) → exec (.ethDevAddr r v) s = .next s.settle) ∧
    (v.setWidth 16 ≠ (0xFFFE : W16) →
      let u := { s with eth := { s.eth with devAddr := v.setWidth 16 } }
      exec (.ethDevAddr r v) s = .next (State.settle (u.each (List.range 7) fun s k =>
        if (s.klink k).state == .up then queueSignals k [signalRecord 4 0 ((v.setWidth 16 : W16).setWidth 32)] s else s)) ∧
      ((∀ k, k < 7 → (s.klink k).state ≠ .up) → exec (.ethDevAddr r v) s = .next (State.settle u)))) ∧
  (∀ (a : Announce) (s : State), s.receives = true → a.domain = s.eth.ptpDomain → s.eth.ptpState ≠ .faulty →
    (match s.eth.master with
      | none => True
      | some m => m.identity ≠ a.identity ∧ keyBefore (announceKey a) (announceKey m) = true) →
    exec (.ptpAnnounce a) s = .next (State.settle
      (fire 5 (record 0x0604 (BitVec.ofNat 32 a.identity.toNat) (BitVec.ofNat 32 (a.identity.toNat / 2 ^ 32))
        (s.eth.ptpDomain.setWidth 32) (a.steps.setWidth 32)
        { s with eth := { s.eth with master := some a, ptpState := .uncalibrated } })))) ∧
  (∀ (a m : Announce) (s : State), s.receives = true → a.domain = s.eth.ptpDomain → s.eth.ptpState ≠ .faulty →
    s.eth.master = some m →
    (m.identity = a.identity → exec (.ptpAnnounce a) s =
      .next (State.settle { s with eth := { s.eth with master := some a } })) ∧
    (m.identity ≠ a.identity → keyBefore (announceKey a) (announceKey m) = false → exec (.ptpAnnounce a) s = .next s)) ∧
  (∀ s : State, s.eth.master.isSome = true → exec .announceReceiptTimeout s =
    .next (State.settle { s with eth := { s.eth with master := none, ptpState := .listening } })) ∧
  ∀ (r : Nat) (v : W32) (s : State), s.actsAs .session r = true →
    exec (.ethPtpCfg r v) s = .next (State.settle { s with
      eth := { s.eth with
        ptpDomain := BitVec.ofNat 8 (bitsOf v.toNat 8 8), ptpV6 := v.getLsbD 2, ptpProf := v.setWidth 2
        ptpState := .listening, master := none }
      tl := { s.tl with ptpKnown := false } })

/-! ## The media timeline -/

/-- An increment that is due moves TL by one and does what the core cycle of that position lays down (reachPosition); one
that is not due changes nothing. A pending LOAD replaces the increment with its position, event 0x0613 and STEPPED, and under
SRC 0 the timebase goes on from that position's edge. -/
def Obligations.IncrementMovesTheTimelineByOne : Prop :=
  ∀ (tau cc : Nat) (pin : Bool) (s : State),
    (incrementDue tau s = false → exec (.tlIncrement tau pin cc) s = .next s) ∧
    (incrementDue tau s = true → s.tl.loadPending = false →
      exec (.tlIncrement tau pin cc) s = .next (State.settle (reachPosition cc pin
        { s with tl := { s.tl with pos := s.tl.pos + 1, tau := tau, wclkDue := false, loadPending := false } }))) ∧
    (incrementDue tau s = true → s.tl.loadPending = true →
      let loaded := fire 0 (record 0x0613 (lo32 s.tl.pos) (lo32 s.tl.loadPos) (hi32 s.tl.loadPos) 2
        { s with
          tl := { s.tl with pos := s.tl.loadPos, stepped := true, tau := tau, wclkDue := false, loadPending := false }
          period := { s.period with liveStepped := true } })
      (s.tl.src ≠ 0 → exec (.tlIncrement tau pin cc) s = .next (State.settle (reachPosition cc pin loaded))) ∧
      (s.tl.src = 0 → exec (.tlIncrement tau pin cc) s = .next (State.settle (reachPosition cc pin
        { loaded with tl := { loaded.tl with tau := edgeOf s.tl.loadPos.toNat } }))))

/-- The period registers latch exactly at positions congruent to ANCHOR modulo the active length; a new length takes effect
there and the position becomes the anchor; a position reached in HOLDOVER counts in the period that then runs. TL_STAT_LEN
takes a length of 48 to 4,800,000 for the next boundary and sets CMD_ERR for another; a read of TL_POS_LO captures the high
word for its reader alone; a quantiser latch takes the counts of the oldest closed period into the shadows with PERIOD, and
with none closed does nothing. -/
def Obligations.PeriodsLatchAtTheirBoundaries : Prop :=
  (∀ (cc : Nat) (s : State),
    (s.period.boundary s.pos = false →
      (s.tl.state ≠ .holdover → reachBoundary cc s = s) ∧
      (s.tl.state = .holdover →
        reachBoundary cc s = { s with period := { s.period with liveHold := satInc s.period.liveHold } })) ∧
    (s.period.boundary s.pos = true →
      let t := reachBoundary cc s
      t.period.seq = s.period.seq + 1 ∧ t.period.start = s.tl.pos ∧ t.period.hold = s.period.liveHold ∧
      t.period.liveHold = (if s.tl.state = .holdover then 1 else 0) ∧ t.period.lenWaits = false ∧
      (s.period.lenWaits = true → t.period.activeLen = s.period.len ∧ t.period.anchor = s.tl.pos) ∧
      (s.period.lenWaits = false → t.period.activeLen = s.period.activeLen ∧ t.period.anchor = s.period.anchor) ∧
      t.stats.shadow = s.stats.live ∧ t.stats.live = {} ∧ t.tl = s.tl ∧ t.mem = s.mem ∧ t.sessions = s.sessions)) ∧
  (∀ (r : Nat) (v : W32) (s : State), s.actsAs .session r = true →
    let n : BitVec 23 := v.setWidth 23
    ((48 ≤ n.toNat ∧ n.toNat ≤ 4800000) →
      exec (.tlStatLen r v) s = .next (State.settle { s with period := { s.period with len := n, lenWaits := true } })) ∧
    (¬ (48 ≤ n.toNat ∧ n.toNat ≤ 4800000) →
      exec (.tlStatLen r v) s = .next (State.settle { s with tl := { s.tl with cmdErr := true } }))) ∧
  (∀ (r : Nat) (s : State), s.actsAs .subset r = true →
    exec (.tlPosLo r) s = .next (State.settle { s with
      readers := cput {} r { s.reader r with tlHi := hi32 s.tl.pos } s.readers })) ∧
  ∀ s : State,
    (s.quant.closing = [] → exec .quantLatch s = .next s) ∧
    ∀ (q : QuantPeriod) (rest : List QuantPeriod), s.quant.closing = q :: rest →
      exec .quantLatch s = .next (State.settle (fire 10 (q.slots.foldl (latchEvents (q.seq + 1))
        { s with quant := { s.quant with closing := rest, shadow := { q with seq := q.seq + 1 } } })))

/-- A servo update stores the offset and the servo's rate; the rate that the timeline runs at under PTP is within the limit of
TL_SLEW whatever the servo gives, and at the limit while FAR stands. Without an update for TL_LOSS.MS ms, or a qualified edge
for 31,250 ns under WCLK, a LOCKED or ACQUIRING timeline is in HOLDOVER, event 0x0610. A qualified edge of WCLK_IN counts: the
48th in a row locks with event 0x0611, and while LOCKED it makes an increment due, after a re-alignment not sooner than a
shortest period after the last increment. -/
def Obligations.ServoUpdatesKeepTheRateLimit : Prop :=
  (∀ (sec : BitVec 48) (ns : BitVec 30) (offset : Int) (s : State),
    (¬ (s.receives = true ∧ (s.eth.ptpState = .uncalibrated ∨ s.eth.ptpState = .slave)) →
      exec (.ptpSync sec ns offset) s = .next s) ∧
    (s.receives = true → (s.eth.ptpState = .uncalibrated ∨ s.eth.ptpState = .slave) →
      (s.tl.src ≠ 1 → exec (.ptpSync sec ns offset) s =
        .next (State.settle { s with eth := { s.eth with ptpState := .slave } })) ∧
      (s.tl.src = 1 → exec (.ptpSync sec ns offset) s =
        .next (State.settle (trackFar (ptpPosition sec ns) (servoState offset { s with
          eth := { s.eth with ptpState := .slave }
          tl := { s.tl with
            offset := BitVec.ofInt 32 (max (-(2 ^ 31 - 1)) (min (2 ^ 31 - 1) offset)), ptpKnown := true
            lead := (ptpTau sec ns : Int) - s.tl.tau, servoCount := s.tl.servoCount + 1
            freq := Config.servoRate s.tl.servoCount } })))))) ∧
  (∀ t : Timeline, t.src = 1 →
    -((min 1000 (max 1 t.slew.toNat) * 1000 : Nat) : Int) ≤ t.rate.toInt ∧
    t.rate.toInt ≤ (min 1000 (max 1 t.slew.toNat) * 1000 : Nat) ∧
    (t.far = true → t.rate.toInt.natAbs = min 1000 (max 1 t.slew.toNat) * 1000)) ∧
  (∀ (ms since : Nat) (s : State),
    let lost := fun (src : W32) => fire 0 (record 0x0610 src (lo32 s.tl.pos) (hi32 s.tl.pos) 0 { s with
      tl := { s.tl with consec := 0, wclkDue := false, realign := false, state := .holdover, lost := true }
      period := { s.period with liveHeld := true, liveUnlocked := true } })
    (s.tl.src = 1 → max 1 s.tl.loss.toNat ≤ ms →
      ((s.tl.state = .locked ∨ s.tl.state = .acquiring) → exec (.ptpLoss ms) s = .next (State.settle (lost 1))) ∧
      ((s.tl.state = .holdover ∨ s.tl.state = .free) → exec (.ptpLoss ms) s = .next s.settle)) ∧
    ((s.tl.src ≠ 1 ∨ ms < max 1 s.tl.loss.toNat) → exec (.ptpLoss ms) s = .next s) ∧
    (s.tl.src = 2 → 31250 < since →
      ((s.tl.state = .locked ∨ s.tl.state = .acquiring) → exec (.wclkLoss since) s = .next (State.settle (lost 2))) ∧
      ((s.tl.state = .holdover ∨ s.tl.state = .free) → exec (.wclkLoss since) s = .next s.settle)) ∧
    ((s.tl.src ≠ 2 ∨ since ≤ 31250) → exec (.wclkLoss since) s = .next s)) ∧
  ∀ (since sinceInc : Nat) (s : State),
    ((s.tl.src ≠ 2 ∨ since < 20812) → exec (.wclkInEdge since sinceInc) s = .next s) ∧
    (s.tl.src = 2 → 20855 < since → exec (.wclkInEdge since sinceInc) s =
      .next (State.settle { s with tl := { s.tl with consec := 0 } })) ∧
    (s.tl.src = 2 → 20812 ≤ since → since ≤ 20855 →
      let t := { s.tl with periods := (since :: s.tl.periods).take 48, consec := s.tl.consec + 1 }
      (s.tl.state = .locked → s.tl.realign = true ∧ sinceInc < 20812 →
        exec (.wclkInEdge since sinceInc) s = .next (State.settle { s with tl := t })) ∧
      (s.tl.state = .locked → ¬ (s.tl.realign = true ∧ sinceInc < 20812) → exec (.wclkInEdge since sinceInc) s =
        .next (State.settle { s with tl := { t with wclkDue := true, realign := false } })) ∧
      (s.tl.state = .acquiring → s.tl.consec < 47 →
        exec (.wclkInEdge since sinceInc) s = .next (State.settle { s with tl := t })) ∧
      (s.tl.state = .acquiring → 47 ≤ s.tl.consec →
        let u := fire 0 (record 0x0611 2 (lo32 s.tl.pos) (hi32 s.tl.pos) 0
          { s with tl := { t with state := .locked, realign := true } })
        exec (.wclkInEdge since sinceInc) s = .next (State.settle
          (if sinceInc < 20812 then u else { u with tl := { u.tl with wclkDue := true, realign := false } }))) ∧
      (s.tl.state = .holdover → exec (.wclkInEdge since sinceInc) s = .next (State.settle { s with
        tl := { t with state := .acquiring, consec := 1 }, period := { s.period with liveUnlocked := true } })))

/-- A STEP takes the converted PTP position and time with event 0x0613 and FAR clear, and only while idle under PTP; AUTO_STEP
makes one by itself when FAR, and otherwise nothing; a LOAD waits for the next increment; a source is taken while idle. What is
not accepted sets CMD_ERR and changes nothing else. (The core cycle of a STEP is not given: notes/assumptions/67.md.) -/
def Obligations.TimelineCommandsTakeEffectOrAreRefused : Prop :=
  (∀ (sec : BitVec 48) (ns : BitVec 30) (s : State),
    let y := (fire 0 (record 0x0613 (lo32 s.tl.pos) (lo32 (ptpPosition sec ns)) (hi32 (ptpPosition sec ns)) 1 { s with
      tl := { s.tl with pos := ptpPosition sec ns, stepped := true }
      period := { s.period with liveStepped := true } })).laterCycle
    let stepped := reachBoundary y.1 { y.2 with tl := { y.2.tl with tau := ptpTau sec ns, lead := 0, far := false } }
    let may := s.tl.src = 1 ∧ s.tl.far = true ∧ s.tl.autoStep = true ∧ s.idle = true ∧ s.tl.ptpKnown = true
    (may → exec (.tlAutoStep sec ns) s = .next (State.settle stepped)) ∧
    (¬ may → exec (.tlAutoStep sec ns) s = .next s) ∧
    ∀ r, s.actsAs .session r = true →
      ((s.idle = true ∧ s.tl.src = 1 ∧ s.tl.ptpKnown = true) → exec (.tlStep r sec ns) s = .next (State.settle stepped)) ∧
      (¬ (s.idle = true ∧ s.tl.src = 1 ∧ s.tl.ptpKnown = true) →
        exec (.tlStep r sec ns) s = .next (State.settle { s with tl := { s.tl with cmdErr := true } }))) ∧
  (∀ (r : Nat) (s : State), s.actsAs .session r = true →
    ((s.idle = true ∧ s.tl.src ≠ 1) →
      exec (.tlLoad r) s = .next (State.settle { s with tl := { s.tl with loadPending := true } })) ∧
    (¬ (s.idle = true ∧ s.tl.src ≠ 1) →
      exec (.tlLoad r) s = .next (State.settle { s with tl := { s.tl with cmdErr := true } }))) ∧
  ∀ (r : Nat) (v : W32) (s : State), s.actsAs .session r = true →
    let u := { s with tl := { s.tl with autoStep := v.getLsbD 2 } }
    let src : BitVec 2 := v.setWidth 2
    (src = s.tl.src → exec (.tlCtrl r v) s = .next (State.settle u)) ∧
    (src ≠ s.tl.src → (src = 3 ∨ s.idle = false) →
      exec (.tlCtrl r v) s = .next (State.settle { u with tl := { u.tl with cmdErr := true } })) ∧
    (src ≠ s.tl.src → src ≠ 3 → s.idle = true → exec (.tlCtrl r v) s = .next (State.settle (changeSrc src u)) ∧
      (changeSrc src u).tl.src = src ∧ (changeSrc src u).tl.ptpKnown = false ∧ (changeSrc src u).tl.far = false ∧
      (changeSrc src u).tl.state = (if src = 0 then .free else if s.tl.state = .free then .acquiring else s.tl.state))

/-! ## Scheduling -/

/-- The oldest tile in flight on a link becomes a full buffer of it; with none in flight nothing arrives. A running step that
waits for a tile that has not come, or for a buffer that is not free, is in WAIT and leaves the stage free, and the tiles it
held of the link are released. Where steps wait only for each other and have done so for LIMIT cc, the stream among theirs that
was opened last aborts with cause 0x01 and event 0x0201, and its steps leave. -/
def Obligations.TilesStallsAndTheWatchdog : Prop :=
  (∀ (link : Nat) (s : State),
    (∀ e h q, s.img.flow? link = some e → (s.linkSt link).flight = h :: q → exec (.tileArrival link) s = .next (State.settle
      (fillBuffer e h (blockArrived link (s.modLink link fun l => { l with flight := q }))).2)) ∧
    ((s.img.flow? link = none ∨ (s.linkSt link).flight = []) → exec (.tileArrival link) s = .next s)) ∧
  (∀ (stage cc link : Nat) (s : State),
    ((s.stage stage).steps.find? (·.state == .run) = none → exec (.stepStall stage cc link) s = .next s) ∧
    ∀ t g e, (s.stage stage).steps.find? (·.state == .run) = some t → s.img.prog? t.prog = some g →
      s.img.stage? stage = some e →
      let x : Sel := { stage := stage, e := e, g := g, t := t }
      let u := s.modStage stage (clockStage s.period.cc cc)
      (link ∈ g.reads → s.tilesFor x link = 0 → exec (.stepStall stage cc link) s =
        .next (State.settle (settleStage t (wakeStage stage (waitFor x link 1 (releaseTiles x link u)))))) ∧
      ((link ∉ g.reads ∨ s.tilesFor x link ≠ 0) → link ∈ g.writes → s.bufferFree link = false →
        exec (.stepStall stage cc link) s = .next (State.settle (settleStage t (waitFor x link 0 u)))) ∧
      ((link ∉ g.reads ∨ s.tilesFor x link ≠ 0) → (link ∉ g.writes ∨ s.bufferFree link = true) →
        exec (.stepStall stage cc link) s = .next s)) ∧
  ∀ (die : Nat) (steps : List (Nat × Nat)) (waited : Nat) (s : State),
    (((s.sched die).wdogEn = false ∨ waited < (s.sched die).limitInForce) →
      exec (.watchdogAbort die steps waited) s = .next s) ∧
    ∀ id : Nat,
      let found := steps.filterMap fun (g, i) => ((s.stage g).steps[i]?).map fun t => (g, t)
      let lowest := steps.foldl (fun m x => min m x.1) 0xFFFF
      let limit : W32 := (s.sched die).limit.setWidth 32
      (s.sched die).wdogEn = true → (s.sched die).limitInForce ≤ waited → found.length = steps.length →
      (∀ y ∈ found, s.waitsWithin found y = true) → (s.img.stage? lowest).map (·.die) = some die →
      (∃ y ∈ found, id ∈ y.2.streams) →
      (∀ y ∈ found, ∀ z ∈ y.2.streams, z ≠ id → (s.stream z).opened < (s.stream id).opened) →
      let u := abortStream id 1 (BitVec.ofNat 32 die) limit
        (record 0x0201 (BitVec.ofNat 32 id) (BitVec.ofNat 32 die) (BitVec.ofNat 32 lowest) limit s)
      exec (.watchdogAbort die steps waited) s = .next (State.settle
        ((dropSteps (fun t => t.dead && t.rows.any (·.stream == id)) u).modSched die fun d =>
          { d with aborts := satInc d.aborts }))

/-- A stage that is not trapped and runs no step runs its first READY one, whose records are taken in order up to `upto`, or to
the first whose tiles have not come; on its first selection its program is fetched, its weights' blocks are queued and its
rows' state is seated, and a read that fails leaves it there. A step that has run all its records completes: its tiles leave
as buffers take them, the step waiting at a link that has none free; then its results are written, the buffers of the tiles
it read are released and it leaves the scoreboard. -/
def Obligations.StepsAreSelectedAndCompleted : Prop :=
  (∀ (stage cc upto : Nat) (ups : List Upset) (rows : List RowInput) (s : State),
    (((s.stage stage).trapped = true ∨ (s.stage stage).steps.any (·.state == .run) = true) →
      exec (.stepSelect stage cc ups ⟨upto, rows⟩) s = .next s) ∧
    ((s.stage stage).next = none → exec (.stepSelect stage cc ups ⟨upto, rows⟩) s = .next s) ∧
    ∀ t g e, (s.stage stage).next = some t → s.img.prog? t.prog = some g → s.img.stage? stage = some e →
      let x : Sel := { stage := stage, e := e, g := g, t := t }
      let v := applyUpsets ups (s.modStage stage (clockStage s.period.cc cc))
      let u := modStep x (fun y =>
        { y with state := .run, await := none, need := 1, period := some (y.period.getD v.period.seq) }) v
      let seats := if (u.img.ramUnits stage).isEmpty then [] else t.rows.zipIdx.filter fun y => !y.1.masked
      let seated := chain (if t.period = none then beginStep x rows u else (some (), u)) fun _ s =>
        gather (fun (y : Row × Nat) s => seatRow x y.2 y.1.stream s) seats s
      (∀ z, seated = (none, z) →
        exec (.stepSelect stage cc ups ⟨upto, rows⟩) s = .next (State.settle (settleStage t z))) ∧
      ∀ l z, seated = (some l, z) → exec (.stepSelect stage cc ups ⟨upto, rows⟩) s = .next (State.settle (settleStage t
        (loadNext x rows upto (runRecords x rows upto (g.recs.length + 1) z))))) ∧
  (∀ (x : Sel) (rows : List RowInput) (upto n : Nat) (t : Step) (s : State), s.now? x = some t →
    ((t.state ≠ .run ∨ upto ≤ t.op) → runRecords x rows upto n s = s) ∧
    ∀ r, t.state = .run → t.op < upto → x.g.recs[t.op]? = some r →
      runRecords x rows upto (n + 1) s = runRecords x rows upto n (runRecord x rows t r s) ∧
      ∀ z, r.cls ≠ 5 → takeTiles x r (inputsOf rows t.live t.op) s = (none, z) → runRecord x rows t r s = z) ∧
  ∀ (stage cc : Nat) (consumed : List (Nat × Nat)) (s : State),
    ((s.stage stage).steps.find? (·.state == .run) = none → exec (.stepComplete stage cc consumed) s = .next s) ∧
    ∀ t g e p, (s.stage stage).steps.find? (·.state == .run) = some t → s.img.prog? t.prog = some g →
      s.img.stage? stage = some e → s.plan? t.plan = some p →
      let x : Sel := { stage := stage, e := e, g := g, t := t }
      let u := s.modStage stage (clockStage s.period.cc cc)
      (t.op < g.recs.length → exec (.stepComplete stage cc consumed) s = .next s) ∧
      (g.recs.length ≤ t.op →
        (∀ l rest z, writeTiles (if t.closed then t.outs else t.tiles u.img g) u = ((some l, rest), z) →
          exec (.stepComplete stage cc consumed) s = .next (State.settle (settleStage t (waitFor x l 0
            (modStep x (fun y => { y with closed := true, outs := rest }) z))))) ∧
        ∀ rest z, writeTiles (if t.closed then t.outs else t.tiles u.img g) u = ((none, rest), z) →
          exec (.stepComplete stage cc consumed) s =
            .next (State.settle (finishStep x ((z.now? x).getD t) p consumed z))) ∧
      (kindLevel t.kind ≠ 0 → ∀ z,
        let a := z.modStage stage fun k => { k with steps := k.steps.filter fun y => !y.same t }
        let b := t.live.foldl (fun s y => commitKv p y.1 y.2.2 (commitRam x y.2.1 y.2.2 s)) a
        let c := t.bufs.foldl (fun s y => match s.img.link? y.1 with
          | some e => (releaseBuffer e y.2 s).2
          | none => s) (t.results.foldl (commitResult x) b)
        let d := t.results.foldl (commitSamples x t p) c
        finishStep x t p consumed z = settleStage t (wakeStage stage
          (t.streams.foldl (fun s id => progress id (sendUnpaced id (s.queue (qid id 2)).held s)) d)))

/-! ## Bellows -/

/-- SUBMIT puts a descriptor at the end of the channel's control queue, or sets CMD_ERR where it is halted or full. RESTART of
a halted channel takes everything off its queues, leaves the chains of its links as they were at the start, counts and
records event 0x0303; of another it sets CMD_ERR. A descriptor at the head of a queue is checked once: where it or its list
stands outside the tiers it ends with status 0x02, where a word of it cannot be read the channel halts, and where a check
fails it ends with that check's status. One that has waited BELLOWS_WAIT.LIMIT cc for a buffer that has not come ends with
status 0x07. -/
def Obligations.ChannelQueuesTakeAndEndDescriptors : Prop :=
  let ended := fun (c : Nat) (st : Byte) (s : State) => State.settle (s.modChannel c fun x => { x with
    control := x.control.drop 1, lastSeq := x.lastSeq + 1, lastStatus := st
    state := if x.state == .halted then .halted else .idle })
  (∀ (r : Nat) (s : State), s.actsAs .session r = true →
    let y := (s.sess r).sel
    let c := y.channel.toNat
    (((s.channel c).state = .halted ∨ 16 ≤ (s.channel c).control.length) →
      exec (.chSubmit r) s = .next (State.settle (s.modChannel c fun x => { x with cmdErr := true }))) ∧
    ((s.channel c).state ≠ .halted → (s.channel c).control.length < 16 →
      exec (.chSubmit r) s = .next (State.settle (s.modChannel c fun x => { x with control := x.control ++
        [{ tier := y.descHi.toNat / 2 ^ 30, addr := y.descHi.toNat % 2 ^ 16 * 2 ^ 32 + y.descLo.toNat }] }))) ∧
    ((s.channel c).state ≠ .halted →
      exec (.chRestart r) s = .next (State.settle (s.modChannel c fun x => { x with cmdErr := true }))) ∧
    ((s.channel c).state = .halted →
      let n := (s.channel c).control.length
      let u := s.modChannel c fun x => { x with
        state := .idle, haltCode := 0, control := [], data := [], restarts := satInc x.restarts
        lastSeq := x.lastSeq + BitVec.ofNat 16 n, lastStatus := if x.control.isEmpty then x.lastStatus else 8 }
      let v := (s.img.linksOf c).foldl (fun s l => match s.img.flow? l with
        | some e => wakeFlow l ((s.modLink l (resetChain e)).modKimg l fun k =>
            { k with branches := k.branches.map fun b => { b with empty := e.buffers } })
        | none => s) u
      exec (.chRestart r) s = .next (State.settle (record 0x0303 (BitVec.ofNat 32 c) (v.channel c).restarts
        (BitVec.ofNat 32 (n + (s.channel c).data.length)) 0 v)))) ∧
  (∀ (c : Nat) (s : State),
    ((s.channel c).control = [] → exec (.descriptorCheck c) s = .next s) ∧
    ∀ d rest, (s.channel c).control = d :: rest →
      ((d.checked = true ∨ (s.channel c).state = .halted) → exec (.descriptorCheck c) s = .next s) ∧
      (d.checked = false → (s.channel c).state ≠ .halted →
        ((d.tier = 3 ∨ s.tierTop d.tier < d.addr + 16) → exec (.descriptorCheck c) s = .next (ended c 2 s)) ∧
        (d.tier ≠ 3 → d.addr + 16 ≤ s.tierTop d.tier →
          (∀ t, readBlock d s = (none, t) →
            let h := readHead ((t.tier d.tier).deliver d.addr 16)
            exec (.descriptorCheck c) s =
              .next (State.settle (endHalted c (tierAddr d.tier d.addr) h.stream h.link t))) ∧
          ∀ b t, readBlock d s = (some b, t) →
            let h := readHead b
            let st := t.blockStatus h (blockPieces b)
            (t.tierTop d.tier < d.addr + 16 + 16 * h.count → exec (.descriptorCheck c) s = .next (ended c 2 t)) ∧
            (d.addr + 16 + 16 * h.count ≤ t.tierTop d.tier → st ≠ 0 →
              exec (.descriptorCheck c) s = .next (ended c (BitVec.ofNat 8 st) t)) ∧
            (d.addr + 16 + 16 * h.count ≤ t.tierTop d.tier → st = 0 →
              exec (.descriptorCheck c) s = .next (State.settle (t.modChannel c fun x => { x with
                control := { d with checked := true, block := b, stream := h.stream, noStream := h.noStream
                                    link := h.link } :: x.control.drop 1 })))))) ∧
  ∀ (c waited : Nat) (s : State),
    (((s.channel c).state ≠ .wait ∨ (s.channel c).control = [] ∨ waited < max 1024 s.bellows.waitLim.toNat) →
      exec (.waitLimit c waited) s = .next s) ∧
    ∀ d rest, (s.channel c).control = d :: rest → (s.channel c).state = .wait →
      max 1024 s.bellows.waitLim.toNat ≤ waited →
      (s.waitOver d = true → exec (.waitLimit c waited) s = .next s) ∧
      (s.waitOver d = false → exec (.waitLimit c waited) s = .next (ended c 7 s))

/-- A channel moves one unit of the checked descriptor at its head, or ends it when nothing is left, unless it is halted or its
data queue has a unit it can start. The fetch of the next tile of a link's block starts where fetch-ahead lets it: a MOVE
block's first tile brings its list, which is checked, a tile of text records or of a weight stream is placed, and a block
whose list is known moves its next tile, in flight in the buffer it took. -/
def Obligations.ChannelsMoveUnitsAndTiles : Prop :=
  (∀ (c : Nat) (ups : List Upset) (s : State),
    let t := applyUpsets ups s
    ((t.channel c).control = [] → exec (.bellowsUnitTransfer c ups) s = .next t) ∧
    ∀ d rest, (t.channel c).control = d :: rest →
      ((d.checked = false ∨ (t.channel c).state = .halted ∨ d.role ≠ 0 ∨ t.dataReady c = true) →
        exec (.bellowsUnitTransfer c ups) s = .next t) ∧
      (d.checked = true → (t.channel c).state ≠ .halted → d.role = 0 → t.dataReady c = false →
        (∀ p, (blockPieces d.block)[d.entry]? = some p → exec (.bellowsUnitTransfer c ups) s =
          .next (State.settle (moveUnit c d (readHead d.block) (blockPieces d.block) p t))) ∧
        ((blockPieces d.block)[d.entry]? = none → exec (.bellowsUnitTransfer c ups) s =
          .next (State.settle (endControl c d.status.toNat t))))) ∧
  (∀ (c : Nat) (d : Desc) (h : Head) (ps : List Piece) (p : Piece) (s : State), s.img.link? h.link = none →
    (∀ tier a t, moveLeg c false h ps p none 0 d s = (.ue tier a, t) →
      moveUnit c d h ps p s = endHalted c (tierAddr tier a) h.stream h.link t) ∧
    (∀ tier g st ns q t, moveLeg c false h ps p none 0 d s = (.bad tier g st ns q, t) →
      moveUnit c d h ps p s = failCheck c h tier g q t) ∧
    ∀ y b t, moveLeg c false h ps p none 0 d s = (.ok y b, t) →
      let z := { y with buf := none, status := if y.status = 0 then 0 else y.status }
      let u := t.modChannel c fun x => { x with state := .idle }
      moveUnit c d h ps p s = if z.entry < ps.length then setHead c z u else endControl c z.status.toNat u) ∧
  ∀ (link : Nat) (head entries : List Byte) (ups : List Upset) (s : State),
    let list := head ++ entries
    ((s.img.flow? link = none ∨ s.img.linkChannel link = none) → exec (.tileFetchStart link head entries ups) s = .next s) ∧
    ∀ e c, s.img.flow? link = some e → s.img.linkChannel link = some c →
      let t := applyUpsets ups s
      (t.block c link = none → exec (.tileFetchStart link head entries ups) s = .next t) ∧
      ∀ d, t.block c link = some d →
        ((t.channel c).state = .halted → exec (.tileFetchStart link head entries ups) s = .next t) ∧
        ((t.channel c).state ≠ .halted →
          (d.role = 1 → d.block = [] →
            let h := readHead list
            ((h.link ≠ e.link ∨ h.bytes ≠ d.bytes ∨ list.length < 16 * (h.count + 1) ∨
                t.blockStatus h (blockPieces list) ≠ 0) →
              exec (.tileFetchStart link head entries ups) s = .next (State.settle (modBlock c e.link (fun _ => none) t))) ∧
            (h.link = e.link → h.bytes = d.bytes → 16 * (h.count + 1) ≤ list.length →
              t.blockStatus h (blockPieces list) = 0 →
              let y := { d with block := list.take (16 * (h.count + 1)), checked := true, stream := h.stream
                                noStream := h.noStream }
              let u := modBlock c e.link (fun _ => some y) t
              exec (.tileFetchStart link head entries ups) s =
                .next (State.settle (if u.fetchReady e y then fetchTile c e h y u else u)))) ∧
          ((d.role ≠ 1 ∨ d.block ≠ []) → t.fetchReady e d = false →
            exec (.tileFetchStart link head entries ups) s = .next t) ∧
          (t.fetchReady e d = true →
            (d.role = 4 → exec (.tileFetchStart link head entries ups) s = .next (State.settle (fetchText c e d t))) ∧
            (d.role = 5 → exec (.tileFetchStart link head entries ups) s = .next (State.settle (fetchWeights c e d t))) ∧
            (d.role ≠ 4 → d.role ≠ 5 → d.block ≠ [] →
              exec (.tileFetchStart link head entries ups) s =
                .next (State.settle (fetchTile c e (readHead d.block) d t)) ∧
              ∀ hb u y b v, ((readHead d.block).dir = 0 ∧ (e.remote = false ∨ e.prod = 0xFFFF)) →
                takeBuffer e t = some (hb, u) →
                moveTile c e (readHead d.block) (blockPieces d.block) hb 1026 d u = (.ok y b, v) →
                fetchTile c e (readHead d.block) d t = (startTileOf c e.link y v).modLink e.link fun l =>
                  { l with flight := l.flight ++ [hb] })))

/-! ## Streams -/

/-- STOP, CLOSE and ABORT act on the stream the session selects in the states that take them; in any other CMD_ERR is set
and nothing else changes. START begins the run at its position where the start rule takes it, leaves the refusal and the
earliest start where it does not, and sets CMD_ERR in a state that takes none. A stopped stream creates no more tokens; a close
that completes, once no round holds the stream's load, frees its queues and what it carried. -/
def Obligations.StreamCommandsActOrAreRefused : Prop :=
  (∀ (r : Nat) (s : State), s.actsAs .session r = true →
    let id := s.selStream r
    let x := s.stream id
    let err := s.modStream id fun x => { x with cmdErr := true }
    let refused := State.settle err
    ((cmdFree x = false ∨ (x.state ≠ .running ∧ x.state ≠ .draining)) → exec (.stop r) s = .next refused) ∧
    (cmdFree x = true → (x.state = .running ∨ x.state = .draining) →
      let u := s.modStream id fun x => { x with run := { x.run with halt := true } }
      exec (.stop r) s = .next (State.settle
        (if x.run.created = 0 then postDrained id s.tl.pos u else checkDrained id x.run.lastEnd u))) ∧
    ((x.isOpen = false ∨ x.state = .closing ∨ x.held.isSome = true ∨ x.ring.isSome = true) →
      exec (.close r) s = .next refused) ∧
    (x.isOpen = true → x.state ≠ .closing → x.held = none → x.ring = none →
      let plan := x.plan.toNat
      let told := if s.groupOf plan ≤ 1 then s else sendRingAll plan (s.groupOf plan)
        (ringBytes 3 0 (BitVec.ofNat 16 id) s.eth.devAddr plan 0 s.img.id 0 0) s
      exec (.close r) s = .next (State.settle (releaseIfSingle id
        ((leaveSpill id (dropDescs id (dropAttach id (maskRows id (unpin id told))))).modStream id fun x =>
          { x with state := .closing, busy := none, run := { x.run with tokens := [], attach := [], halt := true } })))) ∧
    (abortable x.state = false → exec (.abort r) s = .next refused) ∧
    (abortable x.state = true →
      exec (.abort r) s = .next (State.settle (abortStream id 4 (BitVec.ofNat 32 (if r = 8 then 0xFF else r)) 0 s))) ∧
    (let may := cmdFree x = true ∧ (x.state = .admitted ∨ x.state = .stopped)
     (s.plan? x.plan.toNat = none ∨ ¬ may → exec (.start r) s = .next (State.settle (progress id err))) ∧
     ∀ p, s.plan? x.plan.toNat = some p → may →
      (∀ n, startRefusal p x.startPos.toNat s.pos = some n →
        exec (.start r) s = .next (State.settle (progress id (s.modStream id fun x => { x with
          result := BitVec.ofNat 8 n, detail := 0, earliest := BitVec.ofNat 64 (earliestStart p s.pos) })))) ∧
      (startRefusal p x.startPos.toNat s.pos = none →
        let u := beginRun id p x.startPos (s.modStream id fun x => { x with result := 0, detail := 0 })
        ((u.stream id).state ≠ x.state → exec (.start r) s = .next (State.settle (progress id (joinRound id u)))) ∧
        ((u.stream id).state = x.state → exec (.start r) s = .next (State.settle (progress id u)))))) ∧
  ∀ (id : Nat) (s : State),
    (((s.stream id).state ≠ .closing ∨ (s.stream id).holdsLoad = true) → exec (.closeComplete id) s = .next s) ∧
    ((s.stream id).state = .closing → (s.stream id).holdsLoad = false →
      let u := post id 1 8 0 0 s.tl.pos 0 0 (flushRtp id s)
      let v := { u with
        queues := u.queues.filter fun e => e.1 / 32 != id
        cells := u.cells.filter fun e => e.1 / 2 ^ 24 != id
        resident := u.resident.filter fun e => e.2 != id + 1
        cleared := u.cleared.filter fun e => e.1 / 2 ^ 32 != id
        fed := u.fed.filter fun e => e.1 / 2 ^ 32 != id }
      exec (.closeComplete id) s = .next (State.settle (v.modStream id fun x =>
        { cmdErr := x.cmdErr, detail := x.detail, result := x.result })))

/-- PARK and RESUME ask for a spill tile, keep the stream busy and queue firmware's descriptor once it is held; what the rules
refuse sets CMD_ERR, or for a RESUME STREAM_STATUS names the refusal, of a context with event 0x0204. A park that completes
writes the whole context with its tags; a restore that completes loads it and posts RESUMED, one that meets a granule whose
check fails aborts the stream with cause 0x06, and one that meets a word that cannot be read halts its channel. (Which channel
serves firmware: notes/assumptions/69.md.) -/
def Obligations.ContextsAreParkedAndRestored : Prop :=
  (∀ (r : Nat) (s : State), s.actsAs .session r = true → s.plan? (s.stream (s.selStream r)).plan.toNat = none →
    let err := State.settle (s.modStream (s.selStream r) fun x => { x with cmdErr := true })
    exec (.park r) s = .next err ∧ exec (.resume r) s = .next err) ∧
  (∀ (r : Nat) (p : PlanEnt) (s : State), s.actsAs .session r = true →
    let id := s.selStream r
    let x := s.stream id
    s.plan? x.plan.toNat = some p →
    let n := s.ctxSize s.img p id
    let ok := cmdFree x && (x.state == .admitted || x.state == .stopped) && decide (p.seqGroup ≤ 1) &&
      parkAddr x.park % 512 == 0 && s.inHost (parkTier x.park) (parkAddr x.park) n &&
      !s.lockedRegions.any (overlaps (parkTier x.park) (parkAddr x.park) n)
    let err := fun (s : State) => State.settle (s.modStream id fun x => { x with cmdErr := true })
    (ok = true → exec (.park r) s = .next (State.settle (beginMove p 2 id
      (s.modStream id fun x => { x with busy := some .park, ctxAddr := x.park })))) ∧
    (ok = false → exec (.park r) s = .next (err s)) ∧
    ((cmdFree x && x.state == .parked && s.ctxPlace x.park none) = false → exec (.resume r) s = .next (err s)) ∧
    ((cmdFree x && x.state == .parked && s.ctxPlace x.park none) = true →
      ∀ (h : Option (List Byte)) (t : State), readCtxHeader x.park s = (h, t) →
        (t.ctxPlace x.park h = false → exec (.resume r) s = .next (err t)) ∧
        (t.ctxPlace x.park h = true →
          let fail := match h with
            | none => some 1
            | some b => ctxRefusal b p (t.queue (qid id 0)).depth t
          (∀ k, fail = some k → exec (.resume r) s = .next (State.settle (restoreRefused id k x.park
            (t.modStream id fun x => { x with result := 0x15, detail := BitVec.ofNat 8 k })))) ∧
          (fail = none → ∀ k, admitRefusal p none t = some k → exec (.resume r) s = .next (State.settle
            (t.modStream id fun x => { x with result := BitVec.ofNat 8 k, detail := 0 }))) ∧
          ∀ b, h = some b → fail = none → admitRefusal p none t = none →
            let u := takeLoad id p (t.modStream id fun x => { x with result := 0, detail := 0 })
            exec (.resume r) s = .next (State.settle (beginMove p 3 id
              ((moveVoice id (BitVec.ofNat 20 (ctxVoice b)) u).modStream id fun y => { y with
                busy := some .resume, ctxAddr := x.park, ctxHead := b, keyId := BitVec.ofNat 16 (field b 40 2) })))))) ∧
  (∀ (p : PlanEnt) (role id : Nat) (s : State),
    let t := askSpill (s.img.spillDie p) id s
    beginMove p role id s =
      if t.holdsSpill (s.img.spillDie p) id then queueFirmware (t.img.ctxChannel p) role id t else t) ∧
  (∀ (id : Nat) (p : PlanEnt) (s : State), s.plan? (s.stream id).plan.toNat = some p →
    (s.stream id).busy = some .park → s.holdsSpill (s.img.spillDie p) id = true →
    let x := s.stream id
    let c := s.img.ctxChannel p
    let q := queueFirmware c 2 id s
    (q.firmwareRuns c 2 id = false → exec (.parkComplete id) s = .next q) ∧
    (q.firmwareRuns c 2 id = true →
      let n := q.ctxSize q.img p id
      let t := unseat p id q
      ((t.stream id).busy ≠ some .park → exec (.parkComplete id) s = .next (State.settle
        (t.modChannel c fun y => if y.state == .halted then { y with lastStatus := 3 } else y))) ∧
      ((t.stream id).busy = some .park →
      (∀ u, moveSections c id p t = (none, u) → exec (.parkComplete id) s = .next u.settle) ∧
      ∀ b u, moveSections c id p t = (some b, u) →
        let a := parkAddr x.ctxAddr
        let body := u.ctxHeader u.img p id n ++ b ++ padded (u.entries id).flatten
        let v := writeTagged (parkTier x.ctxAddr) a body x.keyId.toNat false (fun g => g - a / 512) u
        exec (.parkComplete id) s = .next (State.settle (becomeParked id n (endControl c 0 (noteContext c n v))))))) ∧
  (∀ (id : Nat) (p : PlanEnt) (s : State), s.plan? (s.stream id).plan.toNat = some p →
    ((s.stream id).busy ≠ some .park ∨ s.holdsSpill (s.img.spillDie p) id = false) →
    exec (.parkComplete id) s = .next s) ∧
  ∀ (id : Nat) (p : PlanEnt) (ups : List Upset) (s : State), s.plan? (s.stream id).plan.toNat = some p →
    let x := s.stream id
    let c := s.img.ctxChannel p
    let q := queueFirmware c 3 id s
    (((x.busy ≠ some .resume ∧ x.busy ≠ some .openRestore) ∨ s.holdsSpill (s.img.spillDie p) id = false) →
      exec (.restoreComplete id ups) s = .next s) ∧
    ((x.busy = some .resume ∨ x.busy = some .openRestore) → s.holdsSpill (s.img.spillDie p) id = true →
      (q.firmwareRuns c 3 id = false → exec (.restoreComplete id ups) s = .next q) ∧
      (q.firmwareRuns c 3 id = true →
        let n := ctxTotalLen x.ctxHead
        let got := readContext (parkTier x.ctxAddr) (parkAddr x.ctxAddr) x.keyId.toNat (n / 512) 0 (applyUpsets ups q)
        (∀ tier g i t, got = (.bad tier g i, t) → exec (.restoreComplete id ups) s =
          .next (State.settle (abortStream id 6 (BitVec.ofNat 32 i) 0
            (tagConsumerFail tier g x.keyId.toNat false i 2 (endControl c 4 t))))) ∧
        (∀ tier a t, got = (.ue tier a, t) → exec (.restoreComplete id ups) s =
          .next (State.settle (endHalted c (tierAddr tier a) id 0xFFFF t))) ∧
        ∀ b t, got = (.ok b, t) →
          let u := (leaveSpill id (loadContext id p x.ctxHead b (endControl c 0 (noteContext c n t)))).modStream id fun y =>
            { y with state := if x.busy = some .resume then .admitted else y.state, busy := none }
          let v := post id 1 7 0 0 u.tl.pos (u.stream id).ctxTokens 0 u
          exec (.restoreComplete id ups) s =
            .next (State.settle (progress id (settleHead id (v.queue (qid id 0)).held v)))))

/-- The stream window's writes: a low half waits for its high half, which commits both in the states that take them, and
sets CMD_ERR in any other; QUEUE_HEAD moves a completion queue's head only within its entries. -/
def Obligations.StreamWindowWritesCommit : Prop :=
  (∀ (r : Nat) (v : W32) (s : State), s.actsAs .session r = true →
    exec (.streamLoHalfWrite r 0x2010 v) s =
      .next (State.settle (s.modSess r fun x => { x with sel := { x.sel with seedLo := v } })) ∧
    exec (.streamLoHalfWrite r 0x201C v) s =
      .next (State.settle (s.modSess r fun x => { x with sel := { x.sel with startLo := v } })) ∧
    exec (.streamLoHalfWrite r 0x202C v) s =
      .next (State.settle (s.modSess r fun x => { x with sel := { x.sel with parkLo := v } })) ∧
    ∀ off : W32, off ≠ 0x2010 → off ≠ 0x201C → off ≠ 0x202C →
      exec (.streamLoHalfWrite r off v) s = .next (State.settle (s.modSess r fun x => x))) ∧
  (∀ (r : Nat) (v : W32) (s : State), s.actsAs .session r = true →
    let id := s.selStream r
    let x := s.stream id
    let refused := State.settle (s.modStream id fun x => { x with cmdErr := true })
    (seedStates x = true → exec (.streamSeedHi r v) s =
      .next (State.settle (s.modStream id fun x => { x with seed := join v (s.sess r).sel.seedLo }))) ∧
    (seedStates x = false → exec (.streamSeedHi r v) s = .next refused ∧ exec (.streamInvT r v) s = .next refused) ∧
    (seedStates x = true → fpFinitePos v = true → exec (.streamInvT r v) s =
      .next (State.settle (s.modStream id fun x => { x with invT := v }))) ∧
    (fpFinitePos v = false → exec (.streamInvT r v) s = .next refused) ∧
    (startStates x = true → exec (.streamStartHi r v) s =
      .next (State.settle (s.modStream id fun x => { x with startPos := join v (s.sess r).sel.startLo })) ∧
      exec (.streamParkHi r v) s = .next (State.settle
        (s.modStream id fun x => { x with park := join (v &&& 0xC000FFFF) (s.sess r).sel.parkLo }))) ∧
    (startStates x = false → exec (.streamStartHi r v) s = .next refused ∧ exec (.streamParkHi r v) s = .next refused)) ∧
  ∀ (r : Nat) (v : W32) (s : State), s.actsAs .session r = true →
    let k := (s.sess r).sel.queue.toNat
    let q := s.queue k
    ((k % 32 = 0 ∨ k % 32 = 2 ∨ q.present = false) → exec (.queueHead r v) s = .next s.settle) ∧
    (k % 32 ≠ 0 → k % 32 ≠ 2 → q.present = true →
      ((v - q.head).toNat ≤ q.held →
        exec (.queueHead r v) s = .next (State.settle (s.modQueue k fun q => { q with head := v }))) ∧
      (q.held < (v - q.head).toNat → exec (.queueHead r v) s =
        .next (State.settle (s.modSess r fun y => { y with sel := { y.sel with queueCmdErr := true } }))))

/-! ## Profiles -/

/-- A profile command runs alone in its session, and never during a zeroisation. STORE refuses a profile that is out of
range, malformed or pinned, and its end stores the staged profile under the next counter value; DELETE refuses one that is out
of range, pinned or not stored, and empties any other with zeros in its slot and its cached copy; PREFETCH refuses one that is
out of range, not stored or not placeable, and starts its fetch. A fetch that ends makes the profile RESIDENT, or fails the
streams that await it. -/
def Obligations.ProfileCommandsTakeEffect : Prop :=
  (∀ (r a : Nat) (s : State), s.actsAs .session r = true →
    let p := a % 2 ^ 20
    (((s.sess r).prof.busy.isSome = true ∨ s.sec.wiping = true) →
      let refused := State.settle (s.modSess r fun x => { x with prof := { x.prof with cmdErr := true } })
      exec (.store r a) s = .next refused ∧ exec (.delete r a) s = .next refused ∧ exec (.prefetch r a) s = .next refused) ∧
    ((s.sess r).prof.busy = none → s.sec.wiping = false →
      let taken := fun (c : Nat) => s.modSess r fun x => { x with prof := { x.prof with busy := some (c, p) } }
      let ended := fun (c n : Nat) => State.settle (endProfileCmd r n (taken c))
      let x := s.profile p
      (storeRefusal r p (taken 1) = none → exec (.store r a) s = .next (State.settle (taken 1))) ∧
      (∀ c, storeRefusal r p (taken 1) = some c → exec (.store r a) s = .next (ended 1 c)) ∧
      (s.profCap.toNat ≤ p → exec (.delete r a) s = .next (ended 2 1) ∧ exec (.prefetch r a) s = .next (ended 3 1)) ∧
      (p < s.profCap.toNat →
        (s.pins p ≠ 0 → exec (.delete r a) s = .next (ended 2 3)) ∧
        (s.pins p = 0 → x.stored = false → exec (.delete r a) s = .next (ended 2 4)) ∧
        (s.pins p = 0 → x.stored = true →
          let zeros := List.replicate 0x40000 (0 : Byte)
          let u := writeMem 2 (storeSlot p) zeros (taken 2)
          let v := match x.slot with | some i => writeMem 1 (cacheSlot i) zeros u | none => u
          exec (.delete r a) s = .next (State.settle (endPrefetches p 4 (v.modProfile p fun _ => {})))) ∧
        (x.stored = false → exec (.prefetch r a) s = .next (ended 3 4)) ∧
        (x.stored = true → s.placeable p = false → exec (.prefetch r a) s = .next (ended 3 6)) ∧
        (x.stored = true → s.placeable p = true →
          exec (.prefetch r a) s = .next (State.settle (startFetch p (taken 3))))))) ∧
  (∀ (r : Nat) (s : State),
    ((s.sess r).prof.busy = none → exec (.profileCmdEnd r) s = .next s.settle) ∧
    ∀ p,
      ((s.sess r).prof.busy = some (1, p) →
        (storeRefusal r p s = none →
          exec (.profileCmdEnd r) s = .next (State.settle (endProfileCmd r 0 (storeProfile r p s)))) ∧
        ∀ c, storeRefusal r p s = some c → exec (.profileCmdEnd r) s = .next (State.settle (endProfileCmd r c s))) ∧
      ((s.sess r).prof.busy = some (2, p) → exec (.profileCmdEnd r) s = .next (State.settle (endProfileCmd r 0 s))) ∧
      ((s.sess r).prof.busy = some (3, p) →
        ((s.profile p).fetching = none → exec (.profileCmdEnd r) s = .next (State.settle (endProfileCmd r 0 s))) ∧
        ((s.profile p).fetching ≠ none → exec (.profileCmdEnd r) s = .next s.settle))) ∧
  ∀ (p : Nat) (ups : List Upset) (s : State),
    ((s.profile p).fetching = none → exec (.profileFetchComplete p ups) s = .next s) ∧
    ∀ i, (s.profile p).fetching = some i →
      (∀ t, openProfile p (applyUpsets ups s) = (none, t) →
        exec (.profileFetchComplete p ups) s = .next (State.settle (fetchFailed p t))) ∧
      ∀ b t, openProfile p (applyUpsets ups s) = (some b, t) →
        let u := writeTagged 1 (cacheSlot i) b 0xFFFF true (fun g => 512 * i + (g - cacheSlot i / 512)) t
        let v := endPrefetches p 0 (released p (u.modProfile p fun x => { x with fetching := none, slot := some i }))
        exec (.profileFetchComplete p ups) s = .next (State.settle
          (v.each (v.streams.map (·.1)) fun s id => if s.awaitsProfile p id then progress id s else s))

/-! ## Transactions -/

/-- The build buffer takes at most 64 actions and is the session's own; CANCEL takes a PENDING transaction out of the set;
SUBMIT gives the next ID and empties the buffer whatever it decides, refuses with the first failure of its checks, or adds the
transaction to a set of at most 256, where an immediate one acts at once; no ID is 0. -/
def Obligations.TransactionsAreBuiltAndSubmitted : Prop :=
  (∀ (r : Nat) (s : State), s.actsAs .session r = true →
    let build := (s.sess r).txn.build
    (build.length < 64 → exec (.txnAppend r) s = .next (State.settle
      (s.modSess r fun x => { x with txn := { x.txn with build := x.txn.build ++ [x.txn.action] } }))) ∧
    (64 ≤ build.length → exec (.txnAppend r) s = .next (State.settle
      (s.modSess r fun x => { x with txn := { x.txn with cmdErr := true } }))) ∧
    exec (.txnClear r) s = .next (State.settle (s.modSess r fun x => { x with txn := { x.txn with build := [] } })) ∧
    (∀ t, s.txn.set.find? (fun t => t.id == (s.sess r).txn.cancelId && !t.armed) = some t →
      exec (.txnCancel r) s = .next (State.settle (finishTxn t .cancelled 0x0B 0 s))) ∧
    (s.txn.set.find? (fun t => t.id == (s.sess r).txn.cancelId && !t.armed) = none →
      exec (.txnCancel r) s = .next (State.settle (s.modSess r fun x => { x with txn := { x.txn with cmdErr := true } })))) ∧
  (∀ (r : Nat) (imm rtp : Bool) (s : State), s.actsAs .session r = true →
    let y := (s.sess r).txn
    let id := s.txn.nextId
    let u := ({ s with txn := { s.txn with nextId := nextTxnId id } } : State).modSess r fun x =>
      { x with txn := { x.txn with id := id, build := [] } }
    let end_ := fun (c i : Nat) (s : State) => s.modSess r fun x =>
      { x with txn := { x.txn with code := BitVec.ofNat 8 c, index := BitVec.ofNat 6 i } }
    let refused := fun (c i : Nat) =>
      State.settle (end_ c i (newOutcome ⟨id, .refused, BitVec.ofNat 8 c, BitVec.ofNat 6 i⟩ u))
    (commitPos rtp imm y u = none → exec (.txnSubmit r imm rtp) s = .next (refused 0x0D 0)) ∧
    ∀ n, commitPos rtp imm y u = some n →
      (y.build = [] → exec (.txnSubmit r imm rtp) s = .next (refused 1 0)) ∧
      (y.build ≠ [] →
        let at_ := if imm then none else some n
        (∀ c i, checkActions at_ false y.build 0 [] (u.takenBy none) [] u = .inr (c, i) →
          exec (.txnSubmit r imm rtp) s = .next (refused c i)) ∧
        ∀ ds, checkActions at_ false y.build 0 [] (u.takenBy none) [] u = .inl ds →
          (256 ≤ u.txn.set.length → exec (.txnSubmit r imm rtp) s = .next (refused 7 0)) ∧
          (u.txn.set.length < 256 →
            let t : Txn := { id := id, actions := y.build, pos := at_.map (BitVec.ofNat 64)
                             deadlines := ds.map (BitVec.ofNat 64), applied := y.build.map fun _ => false }
            let v := newOutcome ⟨id, .pending, 0, 0⟩ (end_ 0 0 { u with txn := { u.txn with set := u.txn.set ++ [t] } })
            exec (.txnSubmit r imm rtp) s = .next (State.settle (if imm then runImmediate t v else v))))) ∧
  ∀ id : W32, nextTxnId id ≠ 0

/-- Enabling bits that are pending sends the session's INTERRUPT; a destination is taken with VALID only where the entry is
an ST one, and CMD_ERR is set otherwise. -/
def Obligations.InterruptRegistersAreWritten : Prop :=
  ∀ (r : Nat) (v : W32) (s : State), s.actsAs .session r = true →
    exec (.intEnable r v) s = .next (State.settle (flushInt (s.modSess r fun x => { x with int := { x.int with
      enable := v.setWidth 11, fresh := x.int.fresh ||| (x.int.pend &&& v.setWidth 11 &&& ~~~x.int.enable) } }) r)) ∧
    ((v.getLsbD 31 = true ∧ destKind (s.dest (v.setWidth 12 : BitVec 12).toNat) ≠ 2) →
      exec (.intDest r v) s = .next (State.settle (s.modSess r fun x => { x with int := { x.int with cmdErr := true } }))) ∧
    (¬ (v.getLsbD 31 = true ∧ destKind (s.dest (v.setWidth 12 : BitVec 12).toNat) ≠ 2) →
      exec (.intDest r v) s = .next (State.settle (s.modSess r fun x => { x with int := { x.int with
        destValid := v.getLsbD 31, destEntry := v.setWidth 12 } })))

/-! ## Images and memory -/

/-- IMAGE_LEN, VERIFY, ACTIVATE, DEACTIVATE and DISCARD move the image block between its states while memory is READY and
the block is not locked; in any other state CMD_ERR is set and nothing else changes. -/
def Obligations.ImageCommandsMoveBetweenStates : Prop :=
  ∀ (r : Nat) (v : W32) (s : State), s.actsAs .session r = true →
    let x := s.image
    let refused := State.settle { s with image := { s.image with cmdErr := true } }
    (s.imageTakes = true →
      ((x.state = .empty ∨ x.state = .staged ∨ x.state = .rejected) →
        exec (.imageLen r v) s = .next (State.settle { s with image := { x with len := v, state := .staged } })) ∧
      (x.state = .staged →
        exec (.verify r) s = .next (State.settle { s with image := { x with state := .verifying, held := true } })) ∧
      (x.state = .verified → exec (.activate r) s = .next (State.settle { s with image := { x with state := .activating } })) ∧
      ((x.state = .staged ∨ x.state = .verified ∨ x.state = .rejected) →
        exec (.discard r) s = .next (State.settle { s with image := { x with
          state := .empty, held := false, staged := none, section_ := 0, code := 0, entry := 0, op := 0xFFFF } })) ∧
      (x.state = .active → s.openStreams ≠ 0 → exec (.deactivate r) s = .next (State.settle { s with image := { x with
        section_ := 0, code := 0x90, entry := 0, op := 0xFFFF } })) ∧
      (x.state = .active → s.openStreams = 0 → exec (.deactivate r) s = .next (State.settle
        (record 0x0B03 (lo32 s.img.id) (hi32 s.img.id) 0 0 { s with
          image := { x with state := .verified, active := none, digest := 0, section_ := 0, code := 0, entry := 0, op := 0xFFFF }
          stages := [], admitted := [], cells := [], resident := [], cleared := [], fed := []
          bellows := { s.bellows with links := [], spill := [] }
          kl := { s.kl with imgs := [] }
          quant := { s.quant with numSlots := 0 } })))) ∧
    ((s.imageTakes = false ∨ (x.state ≠ .empty ∧ x.state ≠ .staged ∧ x.state ≠ .rejected)) →
      exec (.imageLen r v) s = .next refused) ∧
    ((s.imageTakes = false ∨ x.state ≠ .staged) → exec (.verify r) s = .next refused) ∧
    ((s.imageTakes = false ∨ x.state ≠ .verified) → exec (.activate r) s = .next refused) ∧
    ((s.imageTakes = false ∨ x.state ≠ .active) → exec (.deactivate r) s = .next refused) ∧
    ((s.imageTakes = false ∨ (x.state ≠ .staged ∧ x.state ≠ .verified ∧ x.state ≠ .rejected)) →
      exec (.discard r) s = .next refused)

/-- VERIFY, which reads the header whatever IMAGE_LEN says, ends in VERIFIED with the image kept, or in REJECTED with event
0x0B01 and its result registers. ACTIVATE zero-fills the carved regions, reads the sections, copies the rescale tables, checks
the digests, fills the caches, and ends in ACTIVE with event 0x0B02; the first that cannot be read or fails leaves it VERIFIED
with event 0x0B01. -/
def Obligations.VerifyAndActivateEnd : Prop :=
  let failed := fun (f : ImgFail) (x : ImageBlk) (s : State) =>
    record 0x0B01 (BitVec.ofNat 32 f.code) (BitVec.ofNat 32 f.sec) (BitVec.ofNat 32 f.entry) (BitVec.ofNat 32 f.op)
      { s with image := { x with
        section_ := BitVec.ofNat 8 f.sec, code := BitVec.ofNat 16 f.code
        entry := BitVec.ofNat 32 f.entry, op := BitVec.ofNat 16 f.op } }
  (∀ s : State,
    (s.image.state ≠ .verifying → exec .verifyComplete s = .next s) ∧
    (s.image.state = .verifying → ∀ b t, verifyRead (min (max 128 s.image.len.toNat) s.stageSize) s = (b, t) →
      (verifyImage b t.image.len.toNat t = none → exec .verifyComplete s = .next (State.settle { t with image := { t.image with
        state := .verified, staged := some (readImage b), section_ := 0, code := 0, entry := 0, op := 0xFFFF } })) ∧
      ∀ f, verifyImage b t.image.len.toNat t = some f → exec .verifyComplete s = .next (State.settle
        (failed f { t.image with state := .rejected, staged := none } t)))) ∧
  ∀ (ups : List Upset) (s : State),
    ((s.image.state ≠ .activating ∨ s.image.staged = none) → exec (.activateComplete ups) s = .next s) ∧
    ∀ m, s.image.state = .activating → s.image.staged = some m →
      let left := fun (f : ImgFail) (t : State) =>
        State.settle (failed f { t.image with state := .verified, active := none } t)
      let z := applyUpsets ups s
      let zeroed := z.setTier 0 (zeroRegions m z.mem.t0)
      (∀ f t, readSections m [3, 6] zeroed = (some f, t) → exec (.activateComplete ups) s = .next (left f t)) ∧
      ∀ t, readSections m [3, 6] zeroed = (none, t) →
        (∀ f u, checkDigests m.tensorsByTid (copyTables m t) = (some f, u) →
          exec (.activateComplete ups) s = .next (left f u)) ∧
        ∀ u, checkDigests m.tensorsByTid (copyTables m t) = (none, u) →
          (∀ f v, fillCaches m m.tensorsByTid u = (some f, v) → exec (.activateComplete ups) s = .next (left f v)) ∧
          ∀ v, fillCaches m m.tensorsByTid u = (none, v) →
            (∀ f w, readSections m [2, 4, 7, 8, 9, 10] v = (some f, w) →
              exec (.activateComplete ups) s = .next (left f w)) ∧
            ∀ w, readSections m [2, 4, 7, 8, 9, 10] v = (none, w) →
              exec (.activateComplete ups) s = .next (State.settle
                (record 0x0B02 (lo32 m.id) (hi32 m.id) m.svn (BitVec.ofNat 32 m.numSlots)
                  (setUp m { w with image := { w.image with
                    state := .active, active := some m
                    digest := Config.sha384 (w.mem.t2.deliver 0 (w.image.len.toNat - 128))
                    section_ := 0, code := 0, entry := 0, op := 0xFFFF } })))

/-- Training and fill. HBM training ends once in stage TRAINING, and a failed stack sets FAULT with event 0x0402. DDR5
training ends once: the DIMMs in use are all eight sockets or the even four, usable and of one part, or none; events 0x0401
and 0x0403 tell of those left out, and with none in use DDR5 counts as filled. A tier that fills reads zeros with zero tags
once its fill is done, and READY is set with the last of them unless a stack failed. -/
def Obligations.TrainingAndFillMakeMemoryReady : Prop :=
  (∀ (fail : W16) (s : State),
    ((s.pwr.stage ≠ 3 ∨ s.mem.hbmTrained = true) → exec (.hbmTrainingComplete fail) s = .next s) ∧
    (s.pwr.stage = 3 → s.mem.hbmTrained = false →
      let u := { s with mem := { s.mem with hbmTrained := true } }
      (fail = 0 → exec (.hbmTrainingComplete fail) s = .next u.settle) ∧
      (fail ≠ 0 → exec (.hbmTrainingComplete fail) s = .next (State.settle
        (record 0x0402 (fail.setWidth 32) 0 0 0 { u with mem := { u.mem with hbmFail := fail, fault := true } }))))) ∧
  (∀ (ds : List Dimm) (s : State),
    ((s.pwr.stage ≠ 3 ∨ s.mem.ddrTrained = true) → exec (.ddrTrainingComplete ds) s = .next s) ∧
    (s.pwr.stage = 3 → s.mem.ddrTrained = false →
      let ms := ds.map readDimm
      let used := chooseDimms ms
      let sockets := (ms.zipIdx.filter (·.1.present)).map (·.2)
      let u : State := { s with mem := { s.mem with
        dimms := ms, used := used, ddrTrained := true, ddrDone := used.isEmpty
        ready := s.mem.sramDone && s.mem.hbmDone && used.isEmpty && !s.mem.fault } }
      let v : State := { u with
        profCap := BitVec.ofNat 21 (u.storeLen / 2 ^ 18)
        pwr := { u.pwr with fitted := BitVec.ofNat 8 ((sockets.map (2 ^ ·)).sum) } }
      let w := (List.range ms.length).foldl (fun s i => match ms[i]? with
        | none => s
        | some d =>
          if d.present && !used.contains i then
            record 0x0401 (BitVec.ofNat 32 i) (BitVec.ofNat 32 (dimmReason false d))
              (if d.qualified then d.part.setWidth 32 else 0xFF) (d.size.setWidth 32) s
          else s) v
      exec (.ddrTrainingComplete ds) s = .next (State.settle (if used.length < sockets.length then
        record 0x0403 (BitVec.ofNat 32 sockets.length) (BitVec.ofNat 32 used.length) 0 0 w else w)))) ∧
  (∀ ds : List Dimm,
    (chooseDimms ds = [0, 1, 2, 3, 4, 5, 6, 7] ∨ chooseDimms ds = [0, 2, 4, 6] ∨ chooseDimms ds = []) ∧
    (∀ i ∈ chooseDimms ds, usable ds i = true ∧ ∀ j ∈ chooseDimms ds, (ds[i]?).map (·.part) = (ds[j]?).map (·.part)) ∧
    ((∀ i, i < 8 → usable ds i = true ∧ (ds[i]?).map (·.part) = (ds[0]?).map (·.part)) →
      chooseDimms ds = [0, 1, 2, 3, 4, 5, 6, 7])) ∧
  ∀ (tier : Nat) (s : State),
    ((s.pwr.stage.toNat < 3 ∨ s.pwr.state ≠ .boot ∨ 2 < tier ∨ s.filling tier = false) →
      exec (.tierFillComplete tier) s = .next s) ∧
    (3 ≤ s.pwr.stage.toNat → s.pwr.state = .boot →
      (s.mem.sramDone = false → exec (.tierFillComplete 0) s = .next (State.settle { s with mem := { s.mem with
        t0 := {}, sramDone := true, ready := s.mem.hbmDone && s.mem.ddrDone && !s.mem.fault } })) ∧
      (s.mem.hbmTrained = true → s.mem.hbmDone = false →
        exec (.tierFillComplete 1) s = .next (State.settle { s with mem := { s.mem with
          t1 := {}, hbmDone := true, ready := s.mem.sramDone && s.mem.ddrDone && !s.mem.fault } })) ∧
      (s.mem.ddrTrained = true → s.mem.ddrDone = false →
        exec (.tierFillComplete 2) s = .next (State.settle { s with mem := { s.mem with
          t2 := {}, ddrDone := true, ready := s.mem.sramDone && s.mem.hbmDone && !s.mem.fault } })))

/-- Drone reads the next page of its device, repairs one that is not clean, reports the first word that stays unreadable, and
counts a whole pass when every device of the tier has walked once more; it does nothing while its tier is not filled, its bit
of PROT_CTRL is clear, repairs are queued or the module is in STANDBY. The page at the head of a repair queue is repaired and
leaves the queue. -/
def Obligations.DroneWalksAndRepairs : Prop :=
  (∀ (tier device : Nat) (ups : List Upset) (s : State),
    let t := applyUpsets ups s
    let k := devKey tier device
    let may := tier < 3 ∧ (t.devices tier).contains device = true ∧ t.fillDone tier = true ∧
      t.prot.ctrl.getLsbD tier = true ∧ (t.dev k).queue = [] ∧ t.pwr.state ≠ .standby ∧ t.pwr.state ≠ .shutdown
    (¬ may → exec (.dronePage tier device ups) s = .next t) ∧
    (may →
      let d := t.dev k
      let page := t.devicePage tier device d.walk / 4096
      let bad := (pageWords page).filter fun w => !((t.tier tier).outcome w).ok
      let u := if pageUnclean (t.tier tier) page then repairPage tier page t else t
      let v := match bad.find? fun w => !((u.tier tier).outcome w).ok with
        | some w => reportUe tier w true 3 0 0xFFFF (countPoison tier [w] u)
        | none => u
      (d.walk + 1 < v.devicePages tier → exec (.dronePage tier device ups) s =
        .next (State.settle (v.modDev k fun d => { d with walk := d.walk + 1 }))) ∧
      (v.devicePages tier ≤ d.walk + 1 → exec (.dronePage tier device ups) s =
        .next (State.settle (passDone tier d.walks (v.modDev k fun d => { d with walk := 0, walks := d.walks + 1 })))))) ∧
  ∀ (tier device : Nat) (ups : List Upset) (s : State),
    let t := applyUpsets ups s
    ((t.dev (devKey tier device)).queue = [] → exec (.pageRepair tier device ups) s = .next t) ∧
    ∀ page q, (t.dev (devKey tier device)).queue = page :: q → exec (.pageRepair tier device ups) s =
      .next (State.settle (repairPage tier page (t.modDev (devKey tier device) fun d => { d with queue := q })))

/-- The code over a word (R298, R299): the check byte is linear in the data, so a flip shows by its place alone; every single
flipped bit of the 72 stored ones is corrected, and no two flipped bits are delivered. -/
def Obligations.WordCodeCorrectsOneBitAndFindsTwo : Prop :=
  let flip := fun i : Nat => if i < 64 then checkByte (2 ^ i) else 2 ^ (i - 64)
  (∀ d i : Nat, d < 2 ^ 64 → i < 64 → checkByte (d ^^^ 2 ^ i) = checkByte d ^^^ checkByte (2 ^ i)) ∧
  (∀ i, i < 72 → outcomeOf (flip i) = .corrected (if i < 64 then some i else none)) ∧
  ∀ i j, i < 72 → j < i → (outcomeOf (flip i ^^^ flip j)).ok = false

/-! ## Kryter -/

/-- A flit that fails, `flitOf`: a lane frame that cannot be corrected, or its CRC or TYPE, is counted and answered by a stale
ACK. In TRAINING an INIT flit that passes brings the link
UP with event 0x0701, or DOWN with event 0x0703 where its peer may not be linked; any other flit is ignored there. In UP every
flit but an INIT that passes gives its ACK, an IDLE one its credits, a numbered one out of order only a stale ACK of its own, and one in
order its credits and its body, for which one credit is owed. In DISABLED and DOWN nothing is received. -/
def Obligations.FlitsAreCheckedAndTaken : Prop :=
  ∀ (k : Nat) (raw checks : List Byte) (s : State), k < 7 →
    (((s.klink k).state = .disabled ∨ (s.klink k).state = .down) → exec (.flitReceive k raw checks) s = .next s) ∧
    (((s.klink k).state = .training ∨ (s.klink k).state = .up) → flitOf raw checks = none →
      exec (.flitReceive k raw checks) s =
        .next (State.settle (s.modKlink k fun x => { x with crcErr := satInc x.crcErr, ackDirty := true }))) ∧
    (∀ b, (s.klink k).state = .training → flitOf raw checks = some b →
      let body := slice 6 246 b
      let peer : W16 := BitVec.ofNat 16 (field body 2 2)
      (field b 0 1 % 16 ≠ flitInit → exec (.flitReceive k raw checks) s = .next s.settle) ∧
      (field b 0 1 % 16 = flitInit → initFails k body s = none → exec (.flitReceive k raw checks) s = .next (State.settle
        (fire 6 (record 0x0701 (BitVec.ofNat 32 k) (BitVec.ofNat 32 (field body 0 1)) (peer.setWidth 32) (lo32 s.tl.pos)
          (s.modKlink k fun x => { x with
            state := .up, valid := true, peerAddr := peer, peerPos := BitVec.ofNat 3 (field body 0 1)
            fseq := 0, acked := 0xFFF, ack := 0xFFF, ackDirty := false, retry := [], oldest := 0, resend := 0
            credD := field body 8 2, credC := field body 10 1, retD := 0, retC := 0, ctrlQ := [], sendQ := [], asm := []
            ringAsm := [], ringLeft := 0 }))))) ∧
      (field b 0 1 % 16 = flitInit → ∀ n, initFails k body s = some n →
        exec (.flitReceive k raw checks) s = .next (State.settle
          (fire 6 (record 0x0703 (BitVec.ofNat 32 k) (BitVec.ofNat 32 n) (BitVec.ofNat 32 (field body 0 1))
            (peer.setWidth 32) (s.modKlink k fun x => { x with state := .down, reason := BitVec.ofNat 4 n })))))) ∧
    (∀ b, (s.klink k).state = .up → flitOf raw checks = some b →
      let h := field b 0 6
      let u := s.modKlink k (takeAck (BitVec.ofNat 12 (bitsOf h 20 12)))
      let credit := fun (s : State) => s.modKlink k fun x => { x with
        credD := x.credD + bitsOf h 32 10, credC := x.credC + bitsOf h 42 6 }
      let inOrder := BitVec.ofNat 12 (bitsOf h 8 12) = (u.klink k).ack + 1
      let v := credit (u.modKlink k fun x => { x with ack := BitVec.ofNat 12 (bitsOf h 8 12), ackDirty := false })
      (h % 16 = flitIdle → exec (.flitReceive k raw checks) s = .next (State.settle (credit u))) ∧
      (h % 16 = flitInit → exec (.flitReceive k raw checks) s = .next s.settle) ∧
      ((h % 16 = flitData ∨ h % 16 = flitCtrl) → ¬ inOrder →
        exec (.flitReceive k raw checks) s = .next (State.settle (u.modKlink k fun x => { x with ackDirty := true }))) ∧
      (h % 16 = flitData → inOrder → exec (.flitReceive k raw checks) s = .next (State.settle
        (takeData k (h.testBit 4) (slice 6 246 b) (v.modKlink k fun x => { x with retD := x.retD + 1 })))) ∧
      (h % 16 = flitCtrl → inOrder → exec (.flitReceive k raw checks) s = .next (State.settle
        (takeCtrl k (slice 6 246 b) (v.modKlink k fun x => { x with retC := x.retC + 1 })))))

/-- A TRAINING link sends INIT. An UP link sends the next flit of a replay, else a CTRL flit of at most 30 records, else a DATA
flit, where the retry buffer has room and the class a credit, else IDLE with its ACK and the credits it owes. The next tile
message starts on an idle link. Replay, credit and lock limits take a link out of UP by their reasons, and one that leaves UP
halts the channels of the links over it, drops the branches over it and records event 0x0702. -/
def Obligations.LinksSendAndMeetTheirLimits : Prop :=
  (∀ (k : Nat) (s : State), k < 7 → let x := s.klink k
    let room := x.retry.length < 1024
    let d := min x.retD 1023
    let c := min x.retC 63
    let sent := fun (t : State) (typ : Nat) (first : Bool) (body : List Byte) =>
      let b := flitBytes typ first x.fseq x.ack d c body
      let u := t.modKlink k fun x => { x with
        fseq := x.fseq + 1, retry := x.retry ++ [(x.fseq, b)], retD := x.retD - d, retC := x.retC - c
        credD := if typ = flitData then x.credD - 1 else x.credD, credC := if typ = flitCtrl then x.credC - 1 else x.credC
        dataLive := if typ = flitData then satInc x.dataLive else x.dataLive }
      { u with outbox := u.outbox ++ [.flit k b (laneChecks b)] }
    ((x.state = .disabled ∨ x.state = .down) → exec (.flitSend k) s = .next s.settle) ∧
    (x.state = .training →
      let b := flitBytes flitInit false 0 0 0 0 s.initBody
      exec (.flitSend k) s = .next (State.settle { s with outbox := s.outbox ++ [.flit k b (laneChecks b)] })) ∧
    (x.state = .up →
      let replay := if x.resend = 0 then none else x.retry[x.retry.length - x.resend]?
      (∀ q b, replay = some (q, b) →
        let u := s.modKlink k fun x => { x with
          resend := x.resend - 1, dataLive := if field b 0 1 % 16 = flitData then satInc x.dataLive else x.dataLive }
        let c := withAck b x.ack
        exec (.flitSend k) s = .next (State.settle { u with outbox := u.outbox ++ [.flit k c (laneChecks c)] })) ∧
      (replay = none → room → x.ctrlQ ≠ [] → x.credC ≠ 0 → exec (.flitSend k) s = .next (State.settle
        (sent (s.modKlink k fun x => { x with
            ctrlQ := x.ctrlQ.drop 30, ringLeft := (placeRings 0 x.ringLeft (x.ctrlQ.take 30)).2 })
          flitCtrl false (placeRings 0 x.ringLeft (x.ctrlQ.take 30)).1.flatten))) ∧
      (∀ b t, replay = none → room → (x.ctrlQ = [] ∨ x.credC = 0) → x.sendQ = b :: t → x.credD ≠ 0 →
        exec (.flitSend k) s = .next (State.settle
          (sent (s.modKlink k fun x => { x with sendQ := t }) flitData ((b.head?.getD 0) != 0) (b.drop 1)))) ∧
      (replay = none → (¬ room ∨ ((x.ctrlQ = [] ∨ x.credC = 0) ∧ (x.sendQ = [] ∨ x.credD = 0))) →
        let u := s.modKlink k fun x => { x with retD := x.retD - d, retC := x.retC - c }
        let b := flitBytes flitIdle false 0 x.ack d c []
        exec (.flitSend k) s = .next (State.settle { u with outbox := u.outbox ++ [.flit k b (laneChecks b)] })))) ∧
  (∀ (k : Nat) (s : State), k < 7 → let x := s.klink k
    (x.state = .up → x.sendQ = [] → exec (.tileMessageSend k) s = .next (State.settle (startTileMessage k s))) ∧
    (x.state = .up → x.retry ≠ [] → x.oldest < 2 → exec (.replayTimeout k) s = .next (State.settle
      (s.modKlink k fun x => { x with replays := satInc x.replays, oldest := x.oldest + 1, resend := x.retry.length }))) ∧
    (x.state = .up → x.retry ≠ [] → 2 ≤ x.oldest → exec (.replayTimeout k) s = .next (State.settle (leaveUp k 1 s))) ∧
    (x.state = .up → x.sendQ ≠ [] → x.credD = 0 → exec (.creditTimeout k true) s = .next (State.settle (leaveUp k 2 s))) ∧
    (x.state = .up → x.ctrlQ ≠ [] → x.credC = 0 → exec (.creditTimeout k false) s = .next (State.settle (leaveUp k 2 s))) ∧
    (x.state = .up → exec (.laneLockLoss k) s = .next (State.settle (leaveUp k 3 s))) ∧
    (x.state = .training →
      exec (.trainingTimeout k) s = .next (State.settle (s.modKlink k fun x => { x with state := .down }))) ∧
    (x.state = .down →
      exec (.trainingRetry k) s = .next (State.settle (s.modKlink k fun x => { x with state := .training }))) ∧
    ((x.state ≠ .up ∨ x.sendQ ≠ []) → exec (.tileMessageSend k) s = .next s) ∧
    ((x.state ≠ .up ∨ x.retry = []) → exec (.replayTimeout k) s = .next s) ∧
    ((x.state ≠ .up ∨ x.sendQ = [] ∨ x.credD ≠ 0) → exec (.creditTimeout k true) s = .next s) ∧
    ((x.state ≠ .up ∨ x.ctrlQ = [] ∨ x.credC ≠ 0) → exec (.creditTimeout k false) s = .next s) ∧
    (x.state ≠ .up → exec (.laneLockLoss k) s = .next s) ∧
    (x.state ≠ .training → exec (.trainingTimeout k) s = .next s) ∧
    (x.state ≠ .down → exec (.trainingRetry k) s = .next s)) ∧
  ∀ (k reason : Nat) (s : State), (s.klink k).state = .up →
    let u := s.modKlink k fun x => { x with
      state := if reason = 4 then .disabled else .training, reason := BitVec.ofNat 4 reason, leftUp := true
      retrains := satInc x.retrains, retry := [], oldest := 0, resend := 0, ctrlQ := [], sendQ := [], asm := []
      ringAsm := [], retD := 0, retC := 0, credD := 0, credC := 0, ringLeft := 0 }
    let v := { u with kl := { u.kl with imgs := cmap {} (fun _ x => { x with
      msgs := (x.msgs.map fun m => { m with ports := m.ports.filter (· != k) }).filter fun m => !m.ports.isEmpty }) u.kl.imgs } }
    let w := (s.branchesOver k).foldl (fun s x => fillAll x.1.link (dropBranch x.1 x.2 s))
      ((s.linksOver k).foldl (fun s l => haltChain l s) v)
    leaveUp k reason s = fire 6 (record 0x0702 (BitVec.ofNat 32 k) (BitVec.ofNat 32 reason)
      (BitVec.ofNat 32 (w.haltedCount - s.haltedCount)) (lo32 w.tl.pos) w)

/-- KL_CTRL enables and disables links, an UP one by leaving UP for reason 4. A ring member is written while no stream of its
plan is open, a link's peer while none of a plan that uses it is, in a mode and with a MASK that its multicast allows; CMD_ERR
is set otherwise. A hold that passes drops the branches that kept the buffer and fills it; a queued GAP is sent on an UP link
and counted, for one of the branch's buffers. -/
def Obligations.KryterRegistersHoldsAndGaps : Prop :=
  (∀ (r : Nat) (v : W32) (s : State), s.actsAs .session r = true →
    (let u := (List.range 7).foldl (fun s k =>
        if v.getLsbD k then
          (if (s.klink k).state == .disabled then s.modKlink k fun x => { x with state := .training } else s)
        else (leaveUp k 4 s).modKlink k fun x => { x with state := .disabled }) s;
      exec (.klCtrl r v) s = .next (State.settle { u with kl := { u.kl with en := v.setWidth 7 } })) ∧
    (let x := (s.sess r).sel;
      (s.planOpen x.ringPlan.toNat = true →
        exec (.klRingMember r v) s = .next (State.settle { s with kl := { s.kl with cmdErr := true } })) ∧
      (s.planOpen x.ringPlan.toNat = false → exec (.klRingMember r v) s = .next (State.settle { s with kl := { s.kl with
        ring := cput 0 (x.ringPlan.toNat * 64 + x.ringMember.toNat) (v &&& 0x9FFFFFFF) s.kl.ring } }))) ∧
    (let l := (s.sess r).sel.klLink.toNat;
      let err := State.settle { s with kl := { s.kl with cmdErr := true } }
      (s.devLink? l = none → exec (.klLinkPeer r v) s = .next err) ∧
      ∀ e, s.devLink? l = some e →
        let mode := v.toNat / 2 ^ 30
        let mask := (List.range 8).filter fun q => v.getLsbD q
        let may := mode ≠ 3 ∧ (s.img.plans.any fun p => s.img.planUses p l && s.planOpen p.plan) = false ∧
          (mode = 2 → s.kl.pos.toNat ∉ mask ∧ mask.length = max 1 e.mcast)
        (¬ may → exec (.klLinkPeer r v) s = .next err) ∧
        (may → exec (.klLinkPeer r v) s = .next (State.settle (s.modKimg l fun k => { k with
          mode := BitVec.ofNat 2 mode, mask := v.setWidth 8
          branches := if mode = 2 ∧ e.mcast ≠ 0 then mask.map fun p => { pos := p, empty := e.buffers }
            else [{ pos := 8, empty := e.buffers }] }))))) ∧
  (∀ (link : Nat) (s : State),
    ((s.img.link? link = none ∨ (s.kimg link).holding = false) → exec (.holdExpiry link) s = .next s) ∧
    ∀ e, s.img.link? link = some e → (s.kimg link).holding = true →
      let slow := ((s.kimg link).branches.filter fun b => b.live && b.empty == 0).map (·.pos)
      let u := slow.foldl (fun s p => dropBranch e p s) s
      exec (.holdExpiry link) s = .next (State.settle
        (fillAll link (u.modKimg link fun k => { k with holding := false })))) ∧
  ∀ (link position : Nat) (s : State),
    ((s.kimg link).branches.find? (·.pos = position) = none → exec (.gapSend link position) s = .next s) ∧
    ∀ b, (s.kimg link).branches.find? (·.pos = position) = some b →
      ((b.gapQ = [] ∨ ∀ k, s.branchWay link b ≠ some (.kryter k)) → exec (.gapSend link position) s = .next s) ∧
      ∀ lap buffer t k, b.gapQ = (lap, buffer) :: t → s.branchWay link b = some (.kryter k) →
        ((b.empty = 0 ∨ (s.klink k).state ≠ .up) → exec (.gapSend link position) s = .next s) ∧
        (b.empty ≠ 0 → (s.klink k).state = .up → exec (.gapSend link position) s = .next (State.settle
          (queueSignals k [signalRecord 3 link (BitVec.ofNat 32 (lap * 65536 + buffer))] (s.modKimg link fun x => { x with
            gaps := satInc x.gaps
            branches := x.branches.map fun c =>
              if c.pos = position then { c with gapQ := t, empty := c.empty - 1 } else c }))))

/-! ## Serial audio -/

/-- The commands of a serial port in the states that take them; in any other CMD_ERR is set and nothing else changes. A mask
written in the last two bit clocks before a frame waits for the next; a transaction's mask bars host writes with CMD_ERR. -/
def Obligations.SerialPortCommandsAndMasks : Prop :=
  (∀ (r n : Nat) (s : State), s.actsAs .session r = true → n < 4 →
    let x := s.sap n
    let refused := State.settle (s.modSap n fun x => { x with cmdErr := true })
    let inTime := x.pos.toNat % x.ratio = 0 ∧ s.pos + x.runin.toNat * x.ratio < x.pos.toNat
    let stops := x.pos.toNat % x.ratio = 0 ∧ s.pos < x.pos.toNat
    let arm := fun (p : W64) (ext : Bool) => State.settle (s.modSap n fun x => { x with
      state := .armed, p0 := p, p1 := none, next := p - BitVec.ofNat 64 (x.runin.toNat * x.ratio), ext := ext
      lastPin := true, underrun := 0, overrun := 0, inUnder := false, txnMask := none })
    (x.state = .stopped → x.startable = true → inTime → exec (.sapCmdStart r n) s = .next (arm x.pos false)) ∧
    (¬ (x.state = .stopped ∧ x.startable = true ∧ inTime) → exec (.sapCmdStart r n) s = .next refused) ∧
    (x.state = .stopped → x.startable = true → exec (.startExt r n) s = .next (arm 0 true)) ∧
    (¬ (x.state = .stopped ∧ x.startable = true) → exec (.startExt r n) s = .next refused) ∧
    ((x.state = .runin ∨ x.state = .running) → stops →
      exec (.sapCmdStop r n) s = .next (State.settle (s.modSap n fun x => { x with p1 := some x.pos }))) ∧
    (¬ ((x.state = .runin ∨ x.state = .running) ∧ stops) → exec (.sapCmdStop r n) s = .next refused) ∧
    ((x.state = .runin ∨ x.state = .running) →
      exec (.stopNow r n) s = .next (State.settle (s.modSap n fun x => { x with p1 := some x.next }))) ∧
    (¬ (x.state = .runin ∨ x.state = .running) → exec (.stopNow r n) s = .next refused) ∧
    (x.state = .armed → exec (.sapCmdCancel r n) s =
      .next (State.settle (s.modSap n fun x => { x with state := .stopped, ext := false }))) ∧
    (x.state ≠ .armed → exec (.sapCmdCancel r n) s = .next refused)) ∧
  ∀ (r n : Nat) (v : W32) (lastTwo : Bool) (s : State), s.actsAs .session r = true → n < 4 →
    let x := s.sap n
    (x.txnMask.isSome = true → x.running = true → exec (.sapMask r n v lastTwo) s =
      .next (State.settle (s.modSap n fun x => { x with cmdErr := true }))) ∧
    (x.txnMask = none → x.running = true →
      exec (.sapMask r n v true) s = .next (State.settle (s.modSap n fun x => { x with late := some v }))) ∧
    ((x.running = false ∨ (x.txnMask = none ∧ lastTwo = false)) → exec (.sapMask r n v lastTwo) s =
      .next (State.settle (s.modSap n fun x => { x with mask := v, late := none, wrote := true })))

/-- A master port starts its next frame once its position has come, or ends after its run-out with event 0x0802. A slave port
that detects a frame start reports a wrong number of bit clocks with event 0x0805, skips the frames that overrun takes, ends
after its run-out, takes the frame whose position has come, and otherwise sends zeros, from its start position on as an
underrun that is counted and reported once a run with event 0x0803. A lost clock is reported with event 0x0805; WCLK_OUT
falls. -/
def Obligations.SerialPortFrames : Prop :=
  let ended := fun (n : Nat) (s : State) =>
    let x := s.sap n
    State.settle ((record 0x0802 (BitVec.ofNat 32 n) (lo32 (x.p1.getD 0)) x.underrun x.overrun s).modSap n fun x => { x with
      state := .stopped, txnMask := none, mask := x.late.getD x.mask, late := none })
  (∀ (n : Nat) (s : State), n < 4 →
    let x := s.sap n
    let may := x.master = true ∧ x.state ≠ .stopped ∧ x.ext = false ∧ x.next.toNat + 1 ≤ s.pos
    (may → sapEnded x = false → exec (.sapFrameStart n) s = .next (State.settle (takeFrame n s))) ∧
    (may → sapEnded x = true → exec (.sapFrameStart n) s = .next (ended n s)) ∧
    (¬ may → exec (.sapFrameStart n) s = .next s)) ∧
  (∀ (n clocks : Nat) (s : State), n < 4 →
    let x := s.sap n
    let may := x.master = false ∧ x.state ≠ .stopped ∧ x.ext = false
    let u := if x.running = true ∧ clocks ≠ x.slots.toNat * sapBits x.slotBits then
        fire 7 (record 0x0805 (BitVec.ofNat 32 n) 2 (lo32 s.tl.pos) 0 (s.modSap n fun x => { x with frameErr := true }))
      else s
    (¬ may → exec (.slaveFrameStart n clocks) s = .next s) ∧
    (may → sapEnded x = true → exec (.slaveFrameStart n clocks) s = .next (ended n u)) ∧
    (may → sapEnded x = false →
      let v := skipFrames n (overrunCount x u.pos) u
      let y := v.sap n
      (sapEnded y = true → exec (.slaveFrameStart n clocks) s = .next (ended n v)) ∧
      (sapEnded y = false → y.next.toNat ≤ v.pos →
        exec (.slaveFrameStart n clocks) s = .next (State.settle (takeFrame n v))) ∧
      (sapEnded y = false → v.pos < y.next.toNat →
        (y.state = .armed → exec (.slaveFrameStart n clocks) s = .next v.settle) ∧
        (y.state ≠ .armed → y.next.toNat < y.p0.toNat → exec (.slaveFrameStart n clocks) s =
          .next (State.settle (sendFrame n true y.next (v.modSap n (takeMask y.next))))) ∧
        (y.state ≠ .armed → y.p0.toNat ≤ y.next.toNat →
          let w := if y.inUnder then v
            else fire 7 (record 0x0803 (BitVec.ofNat 32 n) (lo32 y.next) (lo32 v.tl.pos) 0 v)
          exec (.slaveFrameStart n clocks) s = .next (State.settle (sendFrame n true y.next
            (w.modSap n fun x => { takeMask y.next x with underrun := satInc x.underrun, inUnder := true }))))))) ∧
  (∀ (n : Nat) (s : State), n < 4 →
    ((s.sap n).master = false → (s.sap n).state ≠ .stopped → (s.sap n).ext = false →
      exec (.clkLost n) s = .next (State.settle (fire 7 (record 0x0805 (BitVec.ofNat 32 n) 1 (lo32 s.tl.pos) 0
        (s.modSap n fun x => { x with clkLost := true }))))) ∧
    (((s.sap n).master = true ∨ (s.sap n).state = .stopped ∨ (s.sap n).ext = true) → exec (.clkLost n) s = .next s)) ∧
  ∀ s : State, exec .wclkOutFall s = .next { s with tl := { s.tl with wclkOut := false } }

/-- R379: a write to SAP_SLOT_MAPs is accepted while the port is STOPPED or ARMED, or while bit s is 0 in both the active and
the shadow mask; any other write sets CMD_ERR and changes nothing else. The shadow is the last mask written. -/
def Obligations.SlotMapIsWrittenWhereNoFrameReadsIt : Prop :=
  ∀ (r n slot : Nat) (v : W32) (s : State), s.actsAs .session r = true → n < 4 → slot < 32 →
    let x := s.sap n
    let shadow := x.late.getD x.mask
    ((x.state = .stopped ∨ x.state = .armed ∨ (x.active.getLsbD slot = false ∧ shadow.getLsbD slot = false)) →
      exec (.sapSlotMap r n slot v) s =
        .next (State.settle (s.modSap n fun x => { x with map := cput 0 slot (v &&& 0x8000FFFF) x.map }))) ∧
    (¬ (x.state = .stopped ∨ x.state = .armed ∨ (x.active.getLsbD slot = false ∧ shadow.getLsbD slot = false)) →
      exec (.sapSlotMap r n slot v) s = .next (State.settle (s.modSap n fun x => { x with cmdErr := true })))

/-! ## The event recorder -/

/-- EVREC_DATA0 captures the slot at the reader's cursor, with the live count where that is the open record's slot, and all
ones during a CLEAR; EVREC_DATA7 advances the cursor; FREEZE is set and ends, and what waits starts. CLEAR needs its code, a
session with Crypto Officer rights and no CLEAR running: it closes the record and ends every freeze. Any other write, and any
over SMBus, sets CMD_ERR. -/
def Obligations.EventRecorderRegisters : Prop :=
  ∀ (r : Nat) (v : W32) (s : State),
    (s.actsAs .always r = true →
      let slot := (s.reader r).cursor
      let stored := cget erased s.bureau.ring slot.toNat
      let shows := fun (c : BitVec 256) => exec (.evrecData0 r) s = .next (State.settle { s with
        readers := cput {} r { s.reader r with capture := c } s.readers })
      (s.bureau.clearing.isSome = true → shows erased) ∧
      (s.bureau.clearing = none → s.bureau.openRec = none → shows stored) ∧
      (∀ o code p0 n per, s.bureau.clearing = none → s.bureau.openRec = some (o, code, p0, n, per) →
        (o = slot → shows (withRepeat stored n)) ∧ (o ≠ slot → shows stored)) ∧
      exec (.evrecData7 r) s = .next (State.settle { s with
        readers := cput {} r { s.reader r with cursor := slot + 1 } s.readers }) ∧
      exec (.evrecCtrl r v) s = .next (State.settle (pumpAll { s with
        readers := cput {} r { s.reader r with freeze := v.getLsbD 0 } s.readers }))) ∧
    exec (.freezeExpiry r) s = .next (State.settle (pumpAll { s with
      readers := cput {} r { s.reader r with freeze := false } s.readers })) ∧
    (s.actsAs .session r = true →
      (¬ (v = 0x434C4541 ∧ (s.sess r).co = true ∧ s.bureau.clearing = none) →
        exec (.evrecClear r v) s = .next (State.settle { s with bureau := { s.bureau with cmdErr := true } })) ∧
      (v = 0x434C4541 → (s.sess r).co = true → s.bureau.clearing = none →
        exec (.evrecClear r v) s = .next (State.settle { s with
          bureau := { closeRec (endProgram s.bureau) with clearing := some r, erasing := none, eraseDue := none }
          readers := cmap {} (fun _ x => { x with freeze := false }) s.readers }))) ∧
    (r = 8 → s.pwr.standbyOn = true → exec (.evrecClear r v) s = .next (State.settle { s with
      bureau := { s.bureau with cmdErr := true }, pwr := { s.pwr with denied := true } }))

/-- The recorder's queue never holds more than 256 events, and an event that finds it full and is no recurrence is counted as
lost. A program in progress ends with its record in the next slot; an erase ends with its sector all ones; a CLEAR ends with
event 0x0909 in slot 0; each then starts what waits, and does nothing where none is in progress. The minute counter rises by
one a minute and is persisted while the standby domain runs. -/
def Obligations.EventsWaitAndTheFlashCompletes : Prop :=
  (∀ (frozen : Bool) (b : Bureau) (e : Event), b.queue.length ≤ 256 →
    (arrive frozen b e).queue.length ≤ 256 ∧
    (b.queue.length = 256 → recurs e b = false →
      arrive frozen b e = { closeRec b with lost := satInc b.lost, lostFlag := true })) ∧
  (∀ s : State,
    (s.bureau.programming = none → exec .slotProgramComplete s = .next s) ∧
    (∀ e, s.bureau.programming = some e → exec .slotProgramComplete s = .next (State.settle (pumpAll { s with
      bureau := putRecord e { s.bureau with programming := none } }))) ∧
    (s.bureau.erasing = none → exec .sectorEraseComplete s = .next s) ∧
    (∀ sec, s.bureau.erasing = some sec → exec .sectorEraseComplete s = .next (State.settle (pumpAll { s with
      bureau := { s.bureau with erasing := none, ring := s.bureau.ring.filter fun e => e.1 / 128 != sec } }))) ∧
    (s.bureau.clearing = none → exec .clearEraseComplete s = .next s) ∧
    ∀ r, s.bureau.clearing = some r →
      let e : Event := ⟨0x0909, BitVec.ofNat 32 r, (s.bureau.head.getD 0).setWidth 32, s.bureau.lost, lo32 s.tl.pos, s.period.seq⟩
      let b := { s.bureau with ring := [], next := 0, clearing := none, openRec := none }
      exec .clearEraseComplete s = .next (State.settle (pumpAll { s with bureau := putRecord e b }))) ∧
  ∀ s : State,
    (s.pwr.standbyOn = true →
      exec .minuteTick s = .next (State.settle { s with bureau := { s.bureau with minutes := s.bureau.minutes + 1 } }) ∧
      exec .counterPersist s = .next (State.settle { s with bureau := { s.bureau with keptMin := s.bureau.minutes } })) ∧
    (s.pwr.standbyOn = false → exec .minuteTick s = .next s ∧ exec .counterPersist s = .next s)

/-! ## Power, reset and boot -/

/-- The supply: the standby domain starts at 40 V and below it stops, and of Bureau, the security block and the main domain only
what flash and fuses hold is left. The main rails start once VIN is stable where nothing bars them. VIN out of range shuts down
with event 0x0A01. -/
def Obligations.SupplyStartsAndStopsTheDomains : Prop :=
  ∀ (mv : Nat) (s : State),
    (s.pwr.standbyOn = false → 40000 ≤ mv → exec (.vinPresent mv) s = .next (State.settle { s with
      pwr := { s.pwr with standbyOn := true }, bureau := findRing { s.bureau with minutes := s.bureau.keptMin } })) ∧
    ((s.pwr.standbyOn = true ∨ mv < 40000) → exec (.vinPresent mv) s = .next s) ∧
    (let off := s.pwr.standbyOn = true ∧ s.pwr.state = .shutdown ∧ s.pwr.down.isSome = true ∧ s.pwr.rails = 0;
      (off → 47000 ≤ mv → (s.pwr.down = some .vin ∨ s.pwr.cleared = true) →
        exec (.vinStable mv) s = .next (State.settle { s with pwr := { s.pwr with down := none, cleared := false } })) ∧
      ((¬ off ∨ mv < 47000 ∨ (s.pwr.down ≠ some .vin ∧ s.pwr.cleared = false)) → exec (.vinStable mv) s = .next s)) ∧
    (s.pwr.standbyOn = true → s.powered = true → (mv < 45000 ∨ 60000 < mv) →
      exec (.vinFault mv) s = .next (State.settle (fire 9 (recordNow 0x0A01 (BitVec.ofNat 32 mv) (if mv < 45000 then 1 else 2)
        (BitVec.ofNat 32 (pwrCode s.pwr.state)) 0 { s with pwr := { s.pwr with
          vinFlag := true, pwrGood := false, down := if s.pwr.down.isSome then s.pwr.down else some .vin
          cleared := s.pwr.down.isSome && s.pwr.cleared } })))) ∧
    ((s.pwr.standbyOn = false ∨ s.powered = false ∨ (45000 ≤ mv ∧ mv ≤ 60000)) → exec (.vinFault mv) s = .next s) ∧
    (s.pwr.standbyOn = true → mv < 40000 → exec (.standbyDomainOff mv) s = .next (State.settle {
      pending := s.pending, outbox := s.outbox, free := s.free + 4, sec := keptSec s.sec, kl := { pos := s.kl.pos }
      bureau := { ring := (cutRecord s.freeBits.1 s.bureau).ring, minutes := s.bureau.minutes, pwrcyc := s.bureau.pwrcyc, keptMin := s.bureau.keptMin }
      pwr := { state := .shutdown, down := some .vin, rails := 0, pwrGood := false, rstLow := s.pwr.rstLow
               standbyOn := false, bootMs := s.pwr.bootMs, fitted := s.pwr.fitted } })) ∧
    ((s.pwr.standbyOn = false ∨ 40000 ≤ mv) → exec (.standbyDomainOff mv) s = .next s)

/-- The rails come up in order; PWR_GOOD follows the last, counts a power cycle and starts a module reset; a rail out of
tolerance takes it away; a rail fault shuts down with event 0x0A02; 1 ms after its cause the main domain's state is gone. An
event that its conditions do not admit changes nothing. -/
def Obligations.RailsComeUpInOrderAndFail : Prop :=
  ∀ (rail mv : Nat) (s : State),
    (let next := s.pwr.state = .shutdown ∧ s.pwr.down = none ∧ rail = s.pwr.rails + 1 ∧ rail ≤ 6;
      (next → exec (.railRegulation rail) s = .next (State.settle { s with pwr := { s.pwr with rails := rail } })) ∧
      (¬ next → exec (.railRegulation rail) s = .next s)) ∧
    (let all := s.pwr.rails = 6 ∧ s.pwr.pwrGood = false ∧ s.pwr.down = none;
      (all → exec .pwrGoodRise s = .next (State.settle (beginReset 1
        { s with bureau := { s.bureau with pwrcyc := satInc s.bureau.pwrcyc }, pwr := { s.pwr with pwrGood := true } }))) ∧
      (¬ all → exec .pwrGoodRise s = .next s)) ∧
    (let up := (s.pwr.state ≠ .shutdown ∨ s.pwr.down = none) ∧ 1 ≤ rail ∧ rail ≤ s.pwr.rails;
      (up →
        exec (.railOutOfTolerance rail) s = .next (State.settle { s with pwr := { s.pwr with pwrGood := false } }) ∧
        exec (.railFault rail mv) s = .next (State.settle (fire 9 (recordNow 0x0A02 (BitVec.ofNat 32 rail) (BitVec.ofNat 32 mv) 0 0
          { s with pwr := { s.pwr with railf := true, pwrGood := false, down := some .rail, cleared := false } })))) ∧
      (¬ up → exec (.railOutOfTolerance rail) s = .next s ∧ exec (.railFault rail mv) s = .next s)) ∧
    (let fall := s.pwr.down.isSome = true ∧ (s.pwr.state ≠ .shutdown ∨ 0 < s.pwr.rails);
      (fall → exec .railsOff s = .next (State.settle { mainOff s with pwr := { s.pwr with state := .shutdown, rails := 0 } })) ∧
      (¬ fall → exec .railsOff s = .next s))

/-- A module reset by MOD_RST_N, by RESET with its key, and its end, where the straps are sampled and event 0x0A03 is recorded;
in reset, in SHUTDOWN and while the rails fall MOD_RST_N starts none, and it clears there what it may. A reset puts every block
to its reset state but what it keeps: flash and fuses with the ring and its counters, PWRCYC, the DIMMs, the rails, and the
queue of waiting commands; ZEROISED becomes PROVISIONING. -/
def Obligations.ModuleResetBeginsAndEnds : Prop :=
  (∀ s : State,
    let low : State := { s with pwr := { s.pwr with rstLow := true } }
    let busy := s.pwr.inReset = true ∨ s.pwr.state = .shutdown ∨ s.pwr.down.isSome = true
    (s.pwr.standbyOn = true → ¬ busy → exec .modRstNAssert s = .next (State.settle (beginReset 2 low))) ∧
    (s.pwr.standbyOn = true → busy → exec .modRstNAssert s = .next (State.settle (clearDown low))) ∧
    (s.pwr.standbyOn = false → exec .modRstNAssert s = .next s) ∧
    clearDown low =
      (if s.pwr.state ≠ .shutdown then low
       else if s.pwr.down = some .rail then { low with pwr := { low.pwr with cleared := true, railf := false } }
       else if s.pwr.down = some .thermal ∧ s.allCool = true then
         { low with pwr := { low.pwr with cleared := true, railf := false, ttrip := false, thermTrip := false } }
       else low)) ∧
  (∀ (r : Nat) (v : W32) (s : State), s.actsAs .always r = true →
    (mayReset v s = true → exec (.pwrReset r v) s = .next (State.settle (beginReset 4 s))) ∧
    (mayReset v s = false → exec (.pwrReset r v) s = .next (State.settle { s with pwr := { s.pwr with cmdErr := true } }))) ∧
  (∀ (brd : BitVec 3) (s : State),
    let ended := fun (p : Pwr) => State.settle (fire 9 (record 0x0A03 (s.pwr.cause.setWidth 32) (s.pwr.lastMs.setWidth 32) 0 0
      { s with kl := { s.kl with pos := brd }, pwr := { p with inReset := false, resetDue := false } }))
    ((s.pwr.inReset = false ∨ s.pwr.cause = 2) → exec (.resetEnd brd) s = .next s) ∧
    (s.pwr.inReset = true → s.pwr.cause ≠ 2 →
      (s.pwr.rstLow = false → exec (.resetEnd brd) s = .next (ended s.pwr)) ∧
      (s.pwr.rstLow = true →
        exec (.resetEnd brd) s = .next (State.settle { s with pwr := { s.pwr with resetDue := true } }))) ∧
    (s.pwr.standbyOn = false → exec (.modRstNRelease brd) s = .next s) ∧
    (s.pwr.standbyOn = true →
      let due := s.pwr.inReset = true ∧ (s.pwr.cause = 2 ∨ s.pwr.resetDue = true)
      (due → exec (.modRstNRelease brd) s = .next (ended { s.pwr with rstLow := false })) ∧
      (¬ due → exec (.modRstNRelease brd) s = .next (State.settle { s with pwr := { s.pwr with rstLow := false } })))) ∧
  ∀ (cause : BitVec 3) (s : State),
    let t := beginReset cause s
    (t.pwr.inReset = true ∧ t.pwr.state = .boot ∧ t.pwr.stage = 0 ∧ t.pwr.cause = cause ∧ t.pwr.lastMs = s.pwr.bootMs ∧
      t.pwr.rails = s.pwr.rails ∧ t.pwr.fitted = s.pwr.fitted) ∧
    (t.sessions = [] ∧ t.streams = [] ∧ t.queues = [] ∧ t.txn = {} ∧ t.image = {} ∧ t.mem = {} ∧ t.tl = {} ∧ t.eth = {} ∧
      t.saps = [] ∧ t.kl = { pos := s.kl.pos }) ∧
    (t.sec.mode = .selftest ∧
      t.sec.lifecycle = (if s.sec.lifecycle = .zeroised then .provisioning else s.sec.lifecycle) ∧
      t.sec.creds = s.sec.creds ∧ t.sec.profileKey = s.sec.profileKey ∧ t.sec.markKey = s.sec.markKey ∧
      t.sec.fwA = s.sec.fwA ∧ t.sec.fwB = s.sec.fwB ∧ t.sec.imgFloor = s.sec.imgFloor ∧ t.sec.fwFloor = s.sec.fwFloor ∧
      t.sec.imgRevoked = s.sec.imgRevoked ∧ t.sec.fwRevoked = s.sec.fwRevoked) ∧
    t.bureau.ring = (endProgram s.bureau).ring ∧ t.bureau.minutes = s.bureau.minutes ∧ t.bureau.pwrcyc = s.bureau.pwrcyc ∧
    t.bureau.queue = [] ∧ t.pending = s.pending

/-- Boot goes through its stages in order: it stops at a failed self-test, at a memory fault or untrained memory, and ends in ON
with its time in BOOT_MS once memory is READY. STANDBY and WAKE act in the states that take them, with event 0x0A06, and are
refused with CMD_ERR elsewhere; waking zero-fills stacked SRAM. -/
def Obligations.BootStagesAndPowerStates : Prop :=
  (∀ (ms : Nat) (s : State),
    ((s.pwr.state ≠ .boot ∨ s.pwr.inReset = true ∨ 5 ≤ s.pwr.stage.toNat) → exec (.bootStageComplete ms) s = .next s) ∧
    (s.pwr.state = .boot → s.pwr.inReset = false →
      (s.pwr.stage = 0 → exec (.bootStageComplete ms) s =
        .next (State.settle (startKryter { s with pwr := { s.pwr with stage := 1 } }))) ∧
      (s.pwr.stage = 1 → s.sec.mode = .error → exec (.bootStageComplete ms) s = .next s) ∧
      (s.pwr.stage = 1 → s.sec.mode ≠ .error → exec (.bootStageComplete ms) s = .next (State.settle (bootSelftest s))) ∧
      (s.pwr.stage = 2 → exec (.bootStageComplete ms) s = .next (State.settle { s with pwr := { s.pwr with stage := 3 } })) ∧
      (s.pwr.stage = 3 →
        let may := s.mem.fault = false ∧ s.mem.hbmTrained = true ∧ s.mem.ddrTrained = true
        (¬ may → exec (.bootStageComplete ms) s = .next s) ∧
        (may → exec (.bootStageComplete ms) s = .next (State.settle { s with pwr := { s.pwr with stage := 4 } }))) ∧
      (s.pwr.stage = 4 → s.mem.ready = false → exec (.bootStageComplete ms) s = .next s) ∧
      (s.pwr.stage = 4 → s.mem.ready = true → exec (.bootStageComplete ms) s = .next (State.settle { s with pwr := { s.pwr with
        stage := 5, state := .on, bootMs := BitVec.ofNat 16 (min ms 65535) } })))) ∧
  (∀ (r : Nat) (s : State), s.actsAs .always r = true →
    (mayStandby s = true → exec (.standby r) s = .next (State.settle (fire 9 (record 0x0A06 1 (lo32 s.tl.pos) 0 0 { s with
      pwr := { s.pwr with state := .standby }, mem := { s.mem with ready := false } })))) ∧
    (mayStandby s = false → exec (.standby r) s = .next (State.settle { s with pwr := { s.pwr with cmdErr := true } })) ∧
    (s.pwr.state = .standby → exec (.wake r) s = .next (State.settle { s with pwr := { s.pwr with waking := true } })) ∧
    (s.pwr.state ≠ .standby → exec (.wake r) s = .next (State.settle { s with pwr := { s.pwr with cmdErr := true } }))) ∧
  ∀ s : State,
    (s.pwr.state = .standby → s.pwr.waking = true →
      exec .wakeComplete s = .next (State.settle (fire 9 (record 0x0A06 2 (lo32 s.tl.pos) 0 0 { s with
        pwr := { s.pwr with state := .on, waking := false }
        mem := { s.mem with t0 := {}, t3 := {}, ready := true } })))) ∧
    ((s.pwr.state ≠ .standby ∨ s.pwr.waking = false) → exec .wakeComplete s = .next s)

/-- A sample of a sensor that the device has is kept, with its peak, and below its warning and trip limits does nothing else but
end its warning 5 degrees below the limit; at the warning limit it sets TWARN and records 0x0A04 once, at the trip limit it
shuts down with 0x0A05 (said of the die sensors, whose limits are 95 and 105). A sample of a sensor it does not have changes
nothing. Telemetry is stored and energy added while the standby domain runs; a read of PWR_ENERGY_LO captures the high word for
its reader alone. -/
def Obligations.SensorsAndTelemetryAreKept : Prop :=
  (∀ (temps : List (Nat × W16)) (s : State),
    (s.pwr.standbyOn = true →
      exec (.thermalSample temps) s = .next (State.settle (clearDown (temps.foldl sampleSensor s)))) ∧
    (s.pwr.standbyOn = false → exec (.thermalSample temps) s = .next s)) ∧
  (∀ (i : Nat) (t : W16) (s : State),
    (s.sensor i = false → sampleSensor s (i, t) = s) ∧
    (i < 5 →
      let peak := match cget none s.pwr.peaks i with
        | some p => if p.toInt < t.toInt then t else p
        | none => t
      let u := { s with pwr := { s.pwr with temps := cput none i (some t) s.pwr.temps, peaks := cput none i (some peak) s.pwr.peaks } }
      let w := if 16 * 95 ≤ t.toInt ∧ i ∉ s.pwr.warned then
          fire 9 (record 0x0A04 (BitVec.ofNat 32 i) (t.setWidth 32) (16 * 95) (lo32 s.tl.pos)
            { u with pwr := { u.pwr with twarn := true, warned := i :: s.pwr.warned } })
        else if t.toInt ≤ 16 * 90 then { u with pwr := { u.pwr with warned := s.pwr.warned.filter (· != i) } } else u
      sampleSensor s (i, t) =
        if 16 * 105 ≤ t.toInt ∧ s.pwr.ttrip = false then
          fire 9 (recordNow 0x0A05 (BitVec.ofNat 32 i) (t.setWidth 32) (16 * 105) (lo32 s.tl.pos) { w with pwr := { w.pwr with
            ttrip := true, thermTrip := true, pwrGood := false, down := some .thermal, cleared := false } })
        else w)) ∧
  (∀ (mv ma mw mj : Nat) (s : State),
    (s.pwr.standbyOn = true →
      exec (.telemetryUpdate mv ma mw mj) s = .next (State.settle { s with pwr := { s.pwr with
        vin := BitVec.ofNat 24 (min mv (2 ^ 24 - 1)), iin := BitVec.ofNat 24 (min ma (2 ^ 24 - 1))
        pin := BitVec.ofNat 24 (min mw (2 ^ 24 - 1)), energy := s.pwr.energy + BitVec.ofNat 64 mj } })) ∧
    (s.pwr.standbyOn = false → exec (.telemetryUpdate mv ma mw mj) s = .next s)) ∧
  ∀ (r : Nat) (s : State), s.actsAs .always r = true → exec (.pwrEnergyLo r) s = .next (State.settle { s with
    readers := cput {} r { s.reader r with energyHi := hi32 s.pwr.energy } s.readers })

/-- The SMBus port while the standby domain runs: a write of 4 bytes with a good PEC sets the offset, or writes the register
there and advances it, where a W1C flag that a hardware update of the same cycle sets stays set; a bad PEC is NACKed and kept,
another length NACKed; a read answers the register there, or 0 with DENIED outside the subset, and advances the offset, READ8
eight of them; the alert address answers the port's own. Below it the port does nothing, nor for an abandoned transaction. The
test port answers IDCODE and BYPASS always, any other instruction in PROVISIONING only. -/
def Obligations.SmbusAndTestPort : Prop :=
  (∀ (data : List Byte) (raced : W32) (s : State), s.pwr.standbyOn = true →
    let off := s.smbOff.toNat
    let u := { s with smbOff := s.smbOff + 4 }
    let v := BitVec.ofNat 32 (leNat data)
    (data.length = 4 →
      exec (.setOffset data true) s = .next (State.settle { s with smbOff := v }) ∧
      (s.smbReach (reachOf off) = true → exec (.write ⟨data, raced⟩ true) s =
        .next (State.settle (resetAfter (writeReg 8 off (v &&& ~~~(raced &&& w1cFlags off)) u)))) ∧
      (s.smbReach (reachOf off) = false → off ≠ 0xE003C → exec (.write ⟨data, raced⟩ true) s =
        .next (State.settle { u with pwr := { u.pwr with denied := true } })) ∧
      (off = 0xE003C → exec (.write ⟨data, raced⟩ true) s =
        .next (State.settle { u with pwr := { u.pwr with denied := true }, bureau := { u.bureau with cmdErr := true } }))) ∧
    (data.length ≠ 4 →
      let nacked := State.settle { s with outbox := s.outbox ++ [.smbusNack] }
      exec (.setOffset data true) s = .next nacked ∧ exec (.write ⟨data, raced⟩ true) s = .next nacked) ∧
    (let nacked := State.settle { s with pwr := { s.pwr with pecErr := true }, outbox := s.outbox ++ [.smbusNack] };
      exec (.setOffset data false) s = .next nacked ∧ exec (.write ⟨data, raced⟩ false) s = .next nacked) ∧
    (s.smbReach (reachOf off) = true →
      let x := readReg 8 off u;
      smbReads 1 s = (leBytes 4 x.1.toNat, x.2)) ∧
    (s.smbReach (reachOf off) = false →
      smbReads 1 s = ([0, 0, 0, 0], { u with pwr := { u.pwr with denied := true } })) ∧
    (∀ n, smbReads (n + 1) s =
      ((smbReads 1 s).1 ++ (smbReads n (smbReads 1 s).2).1, (smbReads n (smbReads 1 s).2).2)) ∧
    exec .read s = .next (State.settle
      { (smbReads 1 s).2 with outbox := (smbReads 1 s).2.outbox ++ [.smbus (smbReads 1 s).1] }) ∧
    exec .read8 s = .next (State.settle
      { (smbReads 8 s).2 with outbox := (smbReads 8 s).2.outbox ++ [.smbus (smbReads 8 s).1] }) ∧
    exec .alertResponse s = .next (State.settle { s with outbox := s.outbox ++ [.smbus [BitVec.ofNat 8 s.smbAddr]] })) ∧
  (∀ (data : List Byte) (pecOk : Bool) (raced : W32) (s : State),
    exec .smbusTimeout s = .next s ∧
    (s.pwr.standbyOn = false → exec (.setOffset data pecOk) s = .next s ∧ exec (.write ⟨data, raced⟩ pecOk) s = .next s ∧
      exec .read s = .next s ∧ exec .read8 s = .next s ∧ exec .alertResponse s = .next s)) ∧
  ∀ (ir : Nat) (s : State),
    ((ir < 2 ∨ s.sec.lifecycle = .provisioning) →
      exec (.boundaryScanAccess ir) s = .next { s with outbox := s.outbox ++ [.tap ir] }) ∧
    (2 ≤ ir → s.sec.lifecycle ≠ .provisioning → exec (.boundaryScanAccess ir) s = .next s)

end
end

