-- ==== Sys2Proof/Laws/Exec.lean ====
section
/-! SUPPORT. Which meaning each command has: one line of exec each. -/

namespace Sys2Proof.Machine

@[simp] theorem exec_registerWrite (r : Nat) (off : W32) (v : Raced W32) (s : State) : exec (.registerWrite r off v) s = execRegisterWrite r off v s := rfl
@[simp] theorem exec_sessionOpen (q : Req) (s : State) : exec (.sessionOpen q) s = execSessionOpen q s := rfl
@[simp] theorem exec_sessionClose (q : Req) (s : State) : exec (.sessionClose q) s = execSessionClose q s := rfl
@[simp] theorem exec_sessionLeaseExpiry (sess : Nat) (s : State) : exec (.sessionLeaseExpiry sess) s = execSessionLeaseExpiry sess s := rfl
@[simp] theorem exec_nop (q : Req) (s : State) : exec (.nop q) s = execNop q s := rfl
@[simp] theorem exec_stMessageRefused (ip : BitVec 128) (port : W16) (raw : List Byte) (s : State) : exec (.stMessageRefused ip port raw) s = execStMessageRefused ip port raw s := rfl
@[simp] theorem exec_regRead (q : Req) (s : State) : exec (.regRead q) s = execRegRead q s := rfl
@[simp] theorem exec_regWrite (q : Raced Req) (s : State) : exec (.regWrite q) s = execRegWrite q s := rfl
@[simp] theorem exec_memRead (q : Req) (ups : List Upset) (s : State) : exec (.memRead q ups) s = execMemRead q ups s := rfl
@[simp] theorem exec_memWrite (q : Req) (ups : List Upset) (s : State) : exec (.memWrite q ups) s = execMemWrite q ups s := rfl
@[simp] theorem exec_streamOpen (q : Req) (s : State) : exec (.streamOpen q) s = execStreamOpen q s := rfl
@[simp] theorem exec_submit (q : Req) (s : State) : exec (.submit q) s = execSubmit q s := rfl
@[simp] theorem exec_streamBind (q : Req) (s : State) : exec (.streamBind q) s = execStreamBind q s := rfl
@[simp] theorem exec_destWrite (q : Req) (s : State) : exec (.destWrite q) s = execDestWrite q s := rfl
@[simp] theorem exec_destRead (q : Req) (s : State) : exec (.destRead q) s = execDestRead q s := rfl
@[simp] theorem exec_coChallenge (q : Req) (s : State) : exec (.coChallenge q) s = execCoChallenge q s := rfl
@[simp] theorem exec_coAuth (q : Req) (s : State) : exec (.coAuth q) s = execCoAuth q s := rfl
@[simp] theorem exec_authLockoutEnd (s : State) : exec (.authLockoutEnd) s = execAuthLockoutEnd s := rfl
@[simp] theorem exec_coEnrol (q : Req) (s : State) : exec (.coEnrol q) s = execCoEnrol q s := rfl
@[simp] theorem exec_attest (q : Req) (s : State) : exec (.attest q) s = execAttest q s := rfl
@[simp] theorem exec_certRead (q : Req) (s : State) : exec (.certRead q) s = execCertRead q s := rfl
@[simp] theorem exec_keyAgree (q : Req) (s : State) : exec (.keyAgree q) s = execKeyAgree q s := rfl
@[simp] theorem exec_sakLoad (q : Req) (s : State) : exec (.sakLoad q) s = execSakLoad q s := rfl
@[simp] theorem exec_saCtrl (q : Req) (s : State) : exec (.saCtrl q) s = execSaCtrl q s := rfl
@[simp] theorem exec_markKeyLoad (q : Req) (s : State) : exec (.markKeyLoad q) s = execMarkKeyLoad q s := rfl
@[simp] theorem exec_svnCommit (q : Req) (s : State) : exec (.svnCommit q) s = execSvnCommit q s := rfl
@[simp] theorem exec_keyRevoke (q : Req) (s : State) : exec (.keyRevoke q) s = execKeyRevoke q s := rfl
@[simp] theorem exec_fwWrite (q : Req) (s : State) : exec (.fwWrite q) s = execFwWrite q s := rfl
@[simp] theorem exec_zeroise (q : Req) (s : State) : exec (.zeroise q) s = execZeroise q s := rfl
@[simp] theorem exec_secZeroise (r : Nat) (v : W32) (s : State) : exec (.secZeroise r v) s = execSecZeroise r v s := rfl
@[simp] theorem exec_zeroiseWipeComplete (s : State) : exec (.zeroiseWipeComplete) s = execZeroiseWipeComplete s := rfl
@[simp] theorem exec_selftest (q : Req) (s : State) : exec (.selftest q) s = execSelftest q s := rfl
@[simp] theorem exec_random (q : Req) (s : State) : exec (.random q) s = execRandom q s := rfl
@[simp] theorem exec_tile (via : Option Nat) (q : Req) (s : State) : exec (.tile via q) s = execTile via q s := rfl
@[simp] theorem exec_signal (q : Req) (s : State) : exec (.signal q) s = execSignal q s := rfl
@[simp] theorem exec_ringAdmit (via : Option Nat) (q : Req) (s : State) : exec (.ringAdmit via q) s = execRingAdmit via q s := rfl
@[simp] theorem exec_ringAbort (via : Option Nat) (q : Req) (s : State) : exec (.ringAbort via q) s = execRingAbort via q s := rfl
@[simp] theorem exec_ringClose (via : Option Nat) (q : Req) (s : State) : exec (.ringClose via q) s = execRingClose via q s := rfl
@[simp] theorem exec_ringLeaseExpiry (stream : Nat) (s : State) : exec (.ringLeaseExpiry stream) s = execRingLeaseExpiry stream s := rfl
@[simp] theorem exec_arp (senderMac : BitVec 48) (senderIp targetIp : W32) (s : State) : exec (.arp senderMac senderIp targetIp) s = execArp senderMac senderIp targetIp s := rfl
@[simp] theorem exec_neighbourSolicitation (source target : BitVec 128) (s : State) : exec (.neighbourSolicitation source target) s = execNeighbourSolicitation source target s := rfl
@[simp] theorem exec_echoRequest (source dest : BitVec 128) (v6 : Bool) (data : List Byte) (s : State) : exec (.echoRequest source dest v6 data) s = execEchoRequest source dest v6 data s := rfl
@[simp] theorem exec_udpOtherPort (dport : W16) (s : State) : exec (.udpOtherPort dport) s = execUdpOtherPort dport s := rfl
@[simp] theorem exec_macsecDrop (sc : Nat) (an : Nat) (isProtected icvOk : Bool) (pn : Nat) (s : State) : exec (.macsecDrop sc an isProtected icvOk pn) s = execMacsecDrop sc an isProtected icvOk pn s := rfl
@[simp] theorem exec_addressResolution (entry : Nat) (found : Option (BitVec 48)) (s : State) : exec (.addressResolution entry found) s = execAddressResolution entry found s := rfl
@[simp] theorem exec_ethLinkUp (at16 : Bool) (fails : Nat) (s : State) : exec (.ethLinkUp at16 fails) s = execEthLinkUp at16 fails s := rfl
@[simp] theorem exec_ethLinkDown (s : State) : exec (.ethLinkDown) s = execEthLinkDown s := rfl
@[simp] theorem exec_ptpSync (sec : BitVec 48) (ns : BitVec 30) (offset : Int) (s : State) : exec (.ptpSync sec ns offset) s = execPtpSync sec ns offset s := rfl
@[simp] theorem exec_ptpAnnounce (a : Announce) (s : State) : exec (.ptpAnnounce a) s = execPtpAnnounce a s := rfl
@[simp] theorem exec_announceReceiptTimeout (s : State) : exec (.announceReceiptTimeout) s = execAnnounceReceiptTimeout s := rfl
@[simp] theorem exec_ethPtpCfg (r : Nat) (v : W32) (s : State) : exec (.ethPtpCfg r v) s = execEthPtpCfg r v s := rfl
@[simp] theorem exec_tlIncrement (tau : Nat) (sapStart : Bool) (cc : Nat) (s : State) : exec (.tlIncrement tau sapStart cc) s = execTlIncrement tau sapStart cc s := rfl
@[simp] theorem exec_wclkInEdge (since sinceInc : Nat) (s : State) : exec (.wclkInEdge since sinceInc) s = execWclkInEdge since sinceInc s := rfl
@[simp] theorem exec_wclkLoss (since : Nat) (s : State) : exec (.wclkLoss since) s = execWclkLoss since s := rfl
@[simp] theorem exec_ptpLoss (ms : Nat) (s : State) : exec (.ptpLoss ms) s = execPtpLoss ms s := rfl
@[simp] theorem exec_tlAutoStep (sec : BitVec 48) (ns : BitVec 30) (s : State) : exec (.tlAutoStep sec ns) s = execTlAutoStep sec ns s := rfl
@[simp] theorem exec_tlLoad (r : Nat) (s : State) : exec (.tlLoad r) s = execTlLoad r s := rfl
@[simp] theorem exec_tlStep (r : Nat) (sec : BitVec 48) (ns : BitVec 30) (s : State) : exec (.tlStep r sec ns) s = execTlStep r sec ns s := rfl
@[simp] theorem exec_tlCtrl (r : Nat) (v : W32) (s : State) : exec (.tlCtrl r v) s = execTlCtrl r v s := rfl
@[simp] theorem exec_tlStatLen (r : Nat) (v : W32) (s : State) : exec (.tlStatLen r v) s = execTlStatLen r v s := rfl
@[simp] theorem exec_quantLatch (s : State) : exec (.quantLatch) s = execQuantLatch s := rfl
@[simp] theorem exec_tlPosLo (r : Nat) (s : State) : exec (.tlPosLo r) s = execTlPosLo r s := rfl
@[simp] theorem exec_tileArrival (link : Nat) (s : State) : exec (.tileArrival link) s = execTileArrival link s := rfl
@[simp] theorem exec_stepSelect (stage cc : Nat) (ups : List Upset) (seg : Segment) (s : State) : exec (.stepSelect stage cc ups seg) s = execStepSelect stage cc ups seg s := rfl
@[simp] theorem exec_stepStall (stage : Nat) (cc : Nat) (link : Nat) (s : State) : exec (.stepStall stage cc link) s = execStepStall stage cc link s := rfl
@[simp] theorem exec_stepComplete (stage : Nat) (cc : Nat) (consumed : List (Nat × Nat)) (s : State) : exec (.stepComplete stage cc consumed) s = execStepComplete stage cc consumed s := rfl
@[simp] theorem exec_watchdogAbort (die : Nat) (steps : List (Nat × Nat)) (waited : Nat) (s : State) : exec (.watchdogAbort die steps waited) s = execWatchdogAbort die steps waited s := rfl
@[simp] theorem exec_chSubmit (r : Nat) (s : State) : exec (.chSubmit r) s = execChSubmit r s := rfl
@[simp] theorem exec_chRestart (r : Nat) (s : State) : exec (.chRestart r) s = execChRestart r s := rfl
@[simp] theorem exec_descriptorCheck (ch : Nat) (s : State) : exec (.descriptorCheck ch) s = execDescriptorCheck ch s := rfl
@[simp] theorem exec_bellowsUnitTransfer (ch : Nat) (ups : List Upset) (s : State) : exec (.bellowsUnitTransfer ch ups) s = execBellowsUnitTransfer ch ups s := rfl
@[simp] theorem exec_tileFetchStart (link : Nat) (head entries : List Byte) (ups : List Upset) (s : State) : exec (.tileFetchStart link head entries ups) s = execTileFetchStart link head entries ups s := rfl
@[simp] theorem exec_waitLimit (ch : Nat) (waited : Nat) (s : State) : exec (.waitLimit ch waited) s = execWaitLimit ch waited s := rfl
@[simp] theorem exec_start (r : Nat) (s : State) : exec (.start r) s = execStart r s := rfl
@[simp] theorem exec_stop (r : Nat) (s : State) : exec (.stop r) s = execStop r s := rfl
@[simp] theorem exec_park (r : Nat) (s : State) : exec (.park r) s = execPark r s := rfl
@[simp] theorem exec_parkComplete (stream : Nat) (s : State) : exec (.parkComplete stream) s = execParkComplete stream s := rfl
@[simp] theorem exec_resume (r : Nat) (s : State) : exec (.resume r) s = execResume r s := rfl
@[simp] theorem exec_restoreComplete (stream : Nat) (ups : List Upset) (s : State) : exec (.restoreComplete stream ups) s = execRestoreComplete stream ups s := rfl
@[simp] theorem exec_close (r : Nat) (s : State) : exec (.close r) s = execClose r s := rfl
@[simp] theorem exec_closeComplete (stream : Nat) (s : State) : exec (.closeComplete stream) s = execCloseComplete stream s := rfl
@[simp] theorem exec_abort (r : Nat) (s : State) : exec (.abort r) s = execAbort r s := rfl
@[simp] theorem exec_streamLoHalfWrite (r : Nat) (off v : W32) (s : State) : exec (.streamLoHalfWrite r off v) s = execStreamLoHalfWrite r off v s := rfl
@[simp] theorem exec_streamSeedHi (r : Nat) (v : W32) (s : State) : exec (.streamSeedHi r v) s = execStreamSeedHi r v s := rfl
@[simp] theorem exec_streamInvT (r : Nat) (v : W32) (s : State) : exec (.streamInvT r v) s = execStreamInvT r v s := rfl
@[simp] theorem exec_streamStartHi (r : Nat) (v : W32) (s : State) : exec (.streamStartHi r v) s = execStreamStartHi r v s := rfl
@[simp] theorem exec_streamParkHi (r : Nat) (v : W32) (s : State) : exec (.streamParkHi r v) s = execStreamParkHi r v s := rfl
@[simp] theorem exec_queueHead (r : Nat) (v : W32) (s : State) : exec (.queueHead r v) s = execQueueHead r v s := rfl
@[simp] theorem exec_store (r : Nat) (profile : Nat) (s : State) : exec (.store r profile) s = execStore r profile s := rfl
@[simp] theorem exec_delete (r : Nat) (profile : Nat) (s : State) : exec (.delete r profile) s = execDelete r profile s := rfl
@[simp] theorem exec_prefetch (r : Nat) (profile : Nat) (s : State) : exec (.prefetch r profile) s = execPrefetch r profile s := rfl
@[simp] theorem exec_profileCmdEnd (r : Nat) (s : State) : exec (.profileCmdEnd r) s = execProfileCmdEnd r s := rfl
@[simp] theorem exec_profileFetchComplete (profile : Nat) (ups : List Upset) (s : State) : exec (.profileFetchComplete profile ups) s = execProfileFetchComplete profile ups s := rfl
@[simp] theorem exec_txnAppend (r : Nat) (s : State) : exec (.txnAppend r) s = execTxnAppend r s := rfl
@[simp] theorem exec_txnSubmit (r : Nat) (immediate rtppos : Bool) (s : State) : exec (.txnSubmit r immediate rtppos) s = execTxnSubmit r immediate rtppos s := rfl
@[simp] theorem exec_txnClear (r : Nat) (s : State) : exec (.txnClear r) s = execTxnClear r s := rfl
@[simp] theorem exec_txnCancel (r : Nat) (s : State) : exec (.txnCancel r) s = execTxnCancel r s := rfl
@[simp] theorem exec_intEnable (r : Nat) (v : W32) (s : State) : exec (.intEnable r v) s = execIntEnable r v s := rfl
@[simp] theorem exec_intDest (r : Nat) (v : W32) (s : State) : exec (.intDest r v) s = execIntDest r v s := rfl
@[simp] theorem exec_imageLen (r : Nat) (v : W32) (s : State) : exec (.imageLen r v) s = execImageLen r v s := rfl
@[simp] theorem exec_verify (r : Nat) (s : State) : exec (.verify r) s = execVerify r s := rfl
@[simp] theorem exec_verifyComplete (s : State) : exec (.verifyComplete) s = execVerifyComplete s := rfl
@[simp] theorem exec_activate (r : Nat) (s : State) : exec (.activate r) s = execActivate r s := rfl
@[simp] theorem exec_activateComplete (ups : List Upset) (s : State) : exec (.activateComplete ups) s = execActivateComplete ups s := rfl
@[simp] theorem exec_deactivate (r : Nat) (s : State) : exec (.deactivate r) s = execDeactivate r s := rfl
@[simp] theorem exec_discard (r : Nat) (s : State) : exec (.discard r) s = execDiscard r s := rfl
@[simp] theorem exec_hbmTrainingComplete (fail : W16) (s : State) : exec (.hbmTrainingComplete fail) s = execHbmTrainingComplete fail s := rfl
@[simp] theorem exec_ddrTrainingComplete (dimms : List Dimm) (s : State) : exec (.ddrTrainingComplete dimms) s = execDdrTrainingComplete dimms s := rfl
@[simp] theorem exec_tierFillComplete (tier : Nat) (s : State) : exec (.tierFillComplete tier) s = execTierFillComplete tier s := rfl
@[simp] theorem exec_dronePage (tier device : Nat) (ups : List Upset) (s : State) : exec (.dronePage tier device ups) s = execDronePage tier device ups s := rfl
@[simp] theorem exec_pageRepair (tier device : Nat) (ups : List Upset) (s : State) : exec (.pageRepair tier device ups) s = execPageRepair tier device ups s := rfl
@[simp] theorem exec_flitReceive (k : Nat) (bytes checks : List Byte) (s : State) : exec (.flitReceive k bytes checks) s = execFlitReceive k bytes checks s := rfl
@[simp] theorem exec_flitSend (k : Nat) (s : State) : exec (.flitSend k) s = execFlitSend k s := rfl
@[simp] theorem exec_tileMessageSend (k : Nat) (s : State) : exec (.tileMessageSend k) s = execTileMessageSend k s := rfl
@[simp] theorem exec_replayTimeout (k : Nat) (s : State) : exec (.replayTimeout k) s = execReplayTimeout k s := rfl
@[simp] theorem exec_creditTimeout (k : Nat) (data : Bool) (s : State) : exec (.creditTimeout k data) s = execCreditTimeout k data s := rfl
@[simp] theorem exec_laneLockLoss (k : Nat) (s : State) : exec (.laneLockLoss k) s = execLaneLockLoss k s := rfl
@[simp] theorem exec_klCtrl (r : Nat) (v : W32) (s : State) : exec (.klCtrl r v) s = execKlCtrl r v s := rfl
@[simp] theorem exec_trainingTimeout (k : Nat) (s : State) : exec (.trainingTimeout k) s = execTrainingTimeout k s := rfl
@[simp] theorem exec_trainingRetry (k : Nat) (s : State) : exec (.trainingRetry k) s = execTrainingRetry k s := rfl
@[simp] theorem exec_holdExpiry (link : Nat) (s : State) : exec (.holdExpiry link) s = execHoldExpiry link s := rfl
@[simp] theorem exec_gapSend (link position : Nat) (s : State) : exec (.gapSend link position) s = execGapSend link position s := rfl
@[simp] theorem exec_klLinkPeer (r : Nat) (v : W32) (s : State) : exec (.klLinkPeer r v) s = execKlLinkPeer r v s := rfl
@[simp] theorem exec_klRingMember (r : Nat) (v : W32) (s : State) : exec (.klRingMember r v) s = execKlRingMember r v s := rfl
@[simp] theorem exec_ethDevAddr (r : Nat) (v : W32) (s : State) : exec (.ethDevAddr r v) s = execEthDevAddr r v s := rfl
@[simp] theorem exec_sapCmdStart (r port : Nat) (s : State) : exec (.sapCmdStart r port) s = execSapCmdStart r port s := rfl
@[simp] theorem exec_startExt (r port : Nat) (s : State) : exec (.startExt r port) s = execStartExt r port s := rfl
@[simp] theorem exec_sapCmdStop (r port : Nat) (s : State) : exec (.sapCmdStop r port) s = execSapCmdStop r port s := rfl
@[simp] theorem exec_stopNow (r port : Nat) (s : State) : exec (.stopNow r port) s = execStopNow r port s := rfl
@[simp] theorem exec_sapCmdCancel (r port : Nat) (s : State) : exec (.sapCmdCancel r port) s = execSapCmdCancel r port s := rfl
@[simp] theorem exec_sapFrameStart (port : Nat) (s : State) : exec (.sapFrameStart port) s = execSapFrameStart port s := rfl
@[simp] theorem exec_slaveFrameStart (port bitClocks : Nat) (s : State) : exec (.slaveFrameStart port bitClocks) s = execSlaveFrameStart port bitClocks s := rfl
@[simp] theorem exec_clkLost (port : Nat) (s : State) : exec (.clkLost port) s = execClkLost port s := rfl
@[simp] theorem exec_sapMask (r port : Nat) (v : W32) (lastTwoClocks : Bool) (s : State) : exec (.sapMask r port v lastTwoClocks) s = execSapMask r port v lastTwoClocks s := rfl
@[simp] theorem exec_sapSlotMap (r port slot : Nat) (v : W32) (s : State) : exec (.sapSlotMap r port slot v) s = execSapSlotMap r port slot v s := rfl
@[simp] theorem exec_rngTestOutLo (r : Nat) (s : State) : exec (.rngTestOutLo r) s = execRngTestOutLo r s := rfl
@[simp] theorem exec_evrecData0 (r : Nat) (s : State) : exec (.evrecData0 r) s = execEvrecData0 r s := rfl
@[simp] theorem exec_evrecData7 (r : Nat) (s : State) : exec (.evrecData7 r) s = execEvrecData7 r s := rfl
@[simp] theorem exec_evrecCtrl (r : Nat) (v : W32) (s : State) : exec (.evrecCtrl r v) s = execEvrecCtrl r v s := rfl
@[simp] theorem exec_freezeExpiry (r : Nat) (s : State) : exec (.freezeExpiry r) s = execFreezeExpiry r s := rfl
@[simp] theorem exec_evrecClear (r : Nat) (v : W32) (s : State) : exec (.evrecClear r v) s = execEvrecClear r v s := rfl
@[simp] theorem exec_clearEraseComplete (s : State) : exec (.clearEraseComplete) s = execClearEraseComplete s := rfl
@[simp] theorem exec_slotProgramComplete (s : State) : exec (.slotProgramComplete) s = execSlotProgramComplete s := rfl
@[simp] theorem exec_sectorEraseComplete (s : State) : exec (.sectorEraseComplete) s = execSectorEraseComplete s := rfl
@[simp] theorem exec_minuteTick (s : State) : exec (.minuteTick) s = execMinuteTick s := rfl
@[simp] theorem exec_counterPersist (s : State) : exec (.counterPersist) s = execCounterPersist s := rfl
@[simp] theorem exec_vinPresent (mv : Nat) (s : State) : exec (.vinPresent mv) s = execVinPresent mv s := rfl
@[simp] theorem exec_vinStable (mv : Nat) (s : State) : exec (.vinStable mv) s = execVinStable mv s := rfl
@[simp] theorem exec_vinFault (mv : Nat) (s : State) : exec (.vinFault mv) s = execVinFault mv s := rfl
@[simp] theorem exec_railRegulation (rail : Nat) (s : State) : exec (.railRegulation rail) s = execRailRegulation rail s := rfl
@[simp] theorem exec_pwrGoodRise (s : State) : exec (.pwrGoodRise) s = execPwrGoodRise s := rfl
@[simp] theorem exec_railFault (rail mv : Nat) (s : State) : exec (.railFault rail mv) s = execRailFault rail mv s := rfl
@[simp] theorem exec_railsOff (s : State) : exec (.railsOff) s = execRailsOff s := rfl
@[simp] theorem exec_modRstNAssert (s : State) : exec (.modRstNAssert) s = execModRstNAssert s := rfl
@[simp] theorem exec_modRstNRelease (brdPos : BitVec 3) (s : State) : exec (.modRstNRelease brdPos) s = execModRstNRelease brdPos s := rfl
@[simp] theorem exec_resetEnd (brdPos : BitVec 3) (s : State) : exec (.resetEnd brdPos) s = execResetEnd brdPos s := rfl
@[simp] theorem exec_bootStageComplete (ms : Nat) (s : State) : exec (.bootStageComplete ms) s = execBootStageComplete ms s := rfl
@[simp] theorem exec_standby (r : Nat) (s : State) : exec (.standby r) s = execStandby r s := rfl
@[simp] theorem exec_wake (r : Nat) (s : State) : exec (.wake r) s = execWake r s := rfl
@[simp] theorem exec_wakeComplete (s : State) : exec (.wakeComplete) s = execWakeComplete s := rfl
@[simp] theorem exec_pwrReset (r : Nat) (v : W32) (s : State) : exec (.pwrReset r v) s = execPwrReset r v s := rfl
@[simp] theorem exec_thermalSample (temps : List (Nat × W16)) (s : State) : exec (.thermalSample temps) s = execThermalSample temps s := rfl
@[simp] theorem exec_telemetryUpdate (mv ma mw mj : Nat) (s : State) : exec (.telemetryUpdate mv ma mw mj) s = execTelemetryUpdate mv ma mw mj s := rfl
@[simp] theorem exec_pwrEnergyLo (r : Nat) (s : State) : exec (.pwrEnergyLo r) s = execPwrEnergyLo r s := rfl
@[simp] theorem exec_setOffset (data : List Byte) (pecOk : Bool) (s : State) : exec (.setOffset data pecOk) s = execSetOffset data pecOk s := rfl
@[simp] theorem exec_read (s : State) : exec (.read) s = execRead s := rfl
@[simp] theorem exec_read8 (s : State) : exec (.read8) s = execRead8 s := rfl
@[simp] theorem exec_write (data : Raced (List Byte)) (pecOk : Bool) (s : State) : exec (.write data pecOk) s = execWrite data pecOk s := rfl
@[simp] theorem exec_alertResponse (s : State) : exec (.alertResponse) s = execAlertResponse s := rfl
@[simp] theorem exec_wclkOutFall (s : State) : exec (.wclkOutFall) s = execWclkOutFall s := rfl
@[simp] theorem exec_standbyDomainOff (mv : Nat) (s : State) : exec (.standbyDomainOff mv) s = execStandbyDomainOff mv s := rfl
@[simp] theorem exec_railOutOfTolerance (rail : Nat) (s : State) : exec (.railOutOfTolerance rail) s = execRailOutOfTolerance rail s := rfl
@[simp] theorem exec_smbusTimeout (s : State) : exec (.smbusTimeout) s = execSmbusTimeout s := rfl
@[simp] theorem exec_boundaryScanAccess (ir : Nat) (s : State) : exec (.boundaryScanAccess ir) s = execBoundaryScanAccess ir s := rfl
@[simp] theorem exec_igmpMldReport (v6 : Bool) (query : Bool) (s : State) : exec (.igmpMldReport v6 query) s = execIgmpMldReport v6 query s := rfl

end Sys2Proof.Machine
end

