-- ==== Sys2Proof/Laws/Tables.lean ====
section
/-! SUPPORT. Sparse tables: what a read gives after a write, and that every table operation keeps the canonical form. -/

namespace Sys2Proof.Machine

variable {α : Type} [DecidableEq α] {d : α}

/-- The canonical form, entry by entry. -/
theorem canonical_iff (m : Cells α) : canonical d m = true ↔ Canon d m := by
  induction m with
  | nil => simp [canonical, Canon]
  | cons e t ih =>
    cases t with
    | nil => simp [canonical, Canon]
    | cons f t =>
      rw [canonical, Bool.and_eq_true, Bool.and_eq_true, ih]
      simp only [Canon, decide_eq_true_eq, List.pairwise_cons, List.mem_cons, forall_eq_or_imp]
      constructor
      · rintro ⟨⟨h1, h2⟩, ⟨h3, h4⟩, h5, h6⟩
        exact ⟨⟨⟨h2, fun a ha => Nat.lt_trans h2 (h3 a ha)⟩, h3, h4⟩, h1, h5, h6⟩
      · rintro ⟨⟨⟨h2, -⟩, h3, h4⟩, h1, h5, h6⟩
        exact ⟨⟨h1, h2⟩, ⟨h3, h4⟩, h5, h6⟩

@[simp] theorem canonical_nil : canonical d ([] : Cells α) = true := rfl

omit [DecidableEq α] in
/-- A key below every listed key reads the default. -/
theorem cget_below (m : Cells α) (k : Nat) (h : ∀ e ∈ m, k < e.1) : cget d m k = d := by
  cases m with
  | nil => rfl
  | cons e t =>
    have := h e (List.mem_cons_self ..)
    simp [cget, Nat.ne_of_gt this, this]

/-- A read gives what was put at that key. -/
theorem cget_cput_self (m : Cells α) (k : Nat) (v : α) (h : canonical d m = true) : cget d (cput d k v m) k = v := by
  rw [canonical_iff] at h
  induction m with
  | nil => by_cases hv : v = d <;> simp [cput, cget, hv]
  | cons e t ih =>
    obtain ⟨a, w⟩ := e
    obtain ⟨hp, hd⟩ := h
    rw [List.pairwise_cons] at hp
    have ht : Canon d t := ⟨hp.2, fun e he => hd e (List.mem_cons_of_mem _ he)⟩
    have hlow : ∀ e ∈ t, a < e.1 := fun e he => hp.1 e he
    unfold cput
    by_cases h1 : k < a
    · by_cases hv : v = d <;> simp [h1, hv, cget, Nat.ne_of_gt h1]
    · by_cases h2 : a = k
      · subst h2
        by_cases hv : v = d
        · simp [hv, cget_below t a hlow]
        · simp [hv, cget]
      · simp [h1, h2, cget, ih ht]

/-- A put at one key leaves every other key as it was. -/
theorem cget_cput_other (m : Cells α) (k j : Nat) (v : α) (h : canonical d m = true) (hj : j ≠ k) :
    cget d (cput d k v m) j = cget d m j := by
  rw [canonical_iff] at h
  induction m with
  | nil =>
    by_cases hv : v = d
    · simp [cput, hv]
    · by_cases hk : j < k <;> simp [cput, hv, cget, hj.symm]
  | cons e t ih =>
    obtain ⟨a, w⟩ := e
    obtain ⟨hp, hd⟩ := h
    rw [List.pairwise_cons] at hp
    have ht : Canon d t := ⟨hp.2, fun e he => hd e (List.mem_cons_of_mem _ he)⟩
    have hlow : ∀ e ∈ t, a < e.1 := fun e he => hp.1 e he
    unfold cput
    by_cases h1 : k < a
    · by_cases hv : v = d
      · simp [h1, hv]
      · by_cases h3 : j < k
        · simp [h1, hv, cget, hj.symm, h3, Nat.lt_trans h3 h1, Nat.ne_of_gt (Nat.lt_trans h3 h1)]
        · simp [h1, hv, cget, hj.symm, h3]
    · by_cases h2 : a = k
      · subst h2
        by_cases hv : v = d
        · simp only [h1, hv, if_true, if_false, cget, if_neg hj.symm]
          by_cases h3 : j < a
          · simp [h3, cget_below t j fun e he => Nat.lt_trans h3 (hlow e he)]
          · simp [h3]
        · simp [h1, hv, cget, hj.symm]
      · simp [h1, h2, cget, ih ht]

/-- A put keeps the canonical form. -/
theorem canonical_cput (m : Cells α) (k : Nat) (v : α) (h : canonical d m = true) : canonical d (cput d k v m) = true := by
  rw [canonical_iff] at h ⊢
  have key : Canon d (cput d k v m) ∧ ∀ e ∈ cput d k v m, e.1 = k ∨ e ∈ m := by
    induction m with
    | nil => by_cases hv : v = d <;> simp [cput, hv, Canon]
    | cons e t ih =>
      obtain ⟨a, w⟩ := e
      have hp := h.1
      rw [List.pairwise_cons] at hp
      have hd := h.2
      have ht : Canon d t := ⟨hp.2, fun e he => hd e (List.mem_cons_of_mem _ he)⟩
      obtain ⟨ihc, ihm⟩ := ih ht
      unfold cput
      by_cases h1 : k < a
      · by_cases hv : v = d
        · simp only [h1, hv, if_true]
          exact ⟨h, fun e he => .inr he⟩
        · simp only [h1, hv, if_true, if_false]
          refine ⟨⟨List.pairwise_cons.2 ⟨?_, h.1⟩, ?_⟩, ?_⟩
          · intro e he
            rcases List.mem_cons.1 he with rfl | he
            · exact h1
            · exact Nat.lt_trans h1 (hp.1 e he)
          · intro e he
            rcases List.mem_cons.1 he with rfl | he
            · exact hv
            · exact hd e he
          · intro e he
            rcases List.mem_cons.1 he with rfl | he
            · exact .inl rfl
            · exact .inr he
      · by_cases h2 : a = k
        · subst h2
          by_cases hv : v = d
          · simp only [h1, hv, if_true, if_false]
            exact ⟨ht, fun e he => .inr (List.mem_cons_of_mem _ he)⟩
          · simp only [h1, hv, if_true, if_false]
            refine ⟨⟨List.pairwise_cons.2 ⟨?_, hp.2⟩, ?_⟩, ?_⟩
            · intro e he
              exact hp.1 e he
            · intro e he
              rcases List.mem_cons.1 he with rfl | he
              · exact hv
              · exact hd e (List.mem_cons_of_mem _ he)
            · intro e he
              rcases List.mem_cons.1 he with rfl | he
              · exact .inl rfl
              · exact .inr (List.mem_cons_of_mem _ he)
        · simp only [h1, h2, if_false]
          refine ⟨⟨List.pairwise_cons.2 ⟨?_, ihc.1⟩, ?_⟩, ?_⟩
          · intro e he
            rcases ihm e he with hk | he
            · have : a < k := Nat.lt_of_le_of_ne (Nat.le_of_not_lt h1) h2
              simpa [hk] using this
            · exact hp.1 e he
          · intro e he
            rcases List.mem_cons.1 he with rfl | he
            · exact hd _ (List.mem_cons_self ..)
            · exact ihc.2 e he
          · intro e he
            rcases List.mem_cons.1 he with rfl | he
            · exact .inr (List.mem_cons_self ..)
            · exact (ihm e he).imp id (List.mem_cons_of_mem _)
  exact key.1

/-- Puts at consecutive keys keep the canonical form. -/
theorem canonical_cputs (vs : List α) (k : Nat) (m : Cells α) (h : canonical d m = true) :
    canonical d (cputs d k vs m) = true := by
  induction vs generalizing k m with
  | nil => exact h
  | cons v t ih => exact ih (k + 1) _ (canonical_cput m k v h)

/-- Removing entries keeps the canonical form. -/
theorem canonical_filter (m : Cells α) (p : Nat × α → Bool) (h : canonical d m = true) : canonical d (m.filter p) = true := by
  rw [canonical_iff] at h ⊢
  exact ⟨h.1.filter p, fun e he => h.2 e (List.mem_filter.1 he).1⟩

/-- Consecutive puts leave the keys outside their range as they were. -/
theorem cget_cputs_other (vs : List α) (k j : Nat) (m : Cells α) (h : canonical d m = true) (hj : j < k ∨ k + vs.length ≤ j) :
    cget d (cputs d k vs m) j = cget d m j := by
  induction vs generalizing k m with
  | nil => rfl
  | cons v t ih =>
    simp only [List.length_cons] at hj
    rw [cputs, ih (k + 1) _ (canonical_cput m k v h) (by omega), cget_cput_other m k j v h (by omega)]

/-- Consecutive puts are read back. -/
theorem cget_cputs (vs : List α) (k i : Nat) (m : Cells α) (h : canonical d m = true) (hi : i < vs.length) :
    cget d (cputs d k vs m) (k + i) = vs[i] := by
  induction vs generalizing k i m with
  | nil => simp at hi
  | cons v t ih =>
    have hc := canonical_cput m k v h
    cases i with
    | zero =>
      rw [cputs, cget_cputs_other t (k + 1) (k + 0) _ hc (by omega)]
      simpa using cget_cput_self m k v h
    | succ i =>
      have := ih (k + 1) i (cput d k v m) hc (by simpa using hi)
      rw [cputs, show k + (i + 1) = k + 1 + i by omega, this]
      rfl

/-- A table mapped entry by entry, read at a key: the function of the old entry, where it leaves the default alone. -/
theorem cget_cmap (f : Nat → α → α) (m : Cells α) (k : Nat) (h : canonical d m = true) (hf : f k d = d) :
    cget d (cmap d f m) k = f k (cget d m k) := by
  rw [canonical_iff] at h
  induction m with
  | nil => simp [cmap, cget, hf]
  | cons e t ih =>
    obtain ⟨a, w⟩ := e
    obtain ⟨hp, hd⟩ := h
    rw [List.pairwise_cons] at hp
    have ht : Canon d t := ⟨hp.2, fun e he => hd e (List.mem_cons_of_mem _ he)⟩
    have low : ∀ j, j ≤ a → cget d (cmap d f t) j = d := by
      intro j hj
      apply cget_below
      intro e he
      simp only [cmap, List.mem_filterMap] at he
      obtain ⟨x, hx, hxe⟩ := he
      by_cases hxd : f x.1 x.2 = d
      · simp [hxd] at hxe
      · simp [hxd] at hxe
        have := hp.1 x hx
        rw [← hxe]
        omega
    have ih := ih ht
    by_cases hv : f a w = d
    · have hc : cmap d f ((a, w) :: t) = cmap d f t := by simp [cmap, hv]
      rw [hc]
      by_cases h1 : a = k
      · subst h1
        simp [low, cget, hv]
      · by_cases h2 : k < a
        · simp [low k (by omega), cget, h1, h2, hf]
        · simp [cget, h1, h2, ih]
    · have hc : cmap d f ((a, w) :: t) = (a, f a w) :: cmap d f t := by simp [cmap, hv]
      rw [hc]
      by_cases h1 : a = k
      · subst h1
        simp [cget]
      · by_cases h2 : k < a
        · simp [cget, h1, h2, hf]
        · simp [cget, h1, h2, ih]

/-- A mapped table keeps the canonical form. -/
theorem canonical_cmap (f : Nat → α → α) (m : Cells α) (h : canonical d m = true) : canonical d (cmap d f m) = true := by
  rw [canonical_iff] at h ⊢
  refine ⟨?_, ?_⟩
  · rw [cmap, List.pairwise_filterMap]
    refine h.1.imp ?_
    intro a b hab x hx y hy
    by_cases h1 : f a.1 a.2 = d <;> by_cases h2 : f b.1 b.2 = d <;> simp_all
    rw [← hx, ← hy]
    exact hab
  · intro e he
    simp only [cmap, List.mem_filterMap] at he
    obtain ⟨x, -, hxe⟩ := he
    by_cases h1 : f x.1 x.2 = d
    · simp [h1] at hxe
    · simp [h1] at hxe
      rw [← hxe]
      exact h1

end Sys2Proof.Machine
end

