-- ==== Sys2Proof/Laws/State.lean ====
section
/-! SUPPORT. Every field of State under every update of it: what an update leaves, and what it writes. -/

namespace Sys2Proof.Machine

/-! ## setSess -/

@[simp] theorem State.setSess_pending (s : State) (i : Nat) (x : Session) : (s.setSess i x).pending = s.pending := rfl
@[simp] theorem State.setSess_readers (s : State) (i : Nat) (x : Session) : (s.setSess i x).readers = s.readers := rfl
@[simp] theorem State.setSess_smbOff (s : State) (i : Nat) (x : Session) : (s.setSess i x).smbOff = s.smbOff := rfl
@[simp] theorem State.setSess_tl (s : State) (i : Nat) (x : Session) : (s.setSess i x).tl = s.tl := rfl
@[simp] theorem State.setSess_period (s : State) (i : Nat) (x : Session) : (s.setSess i x).period = s.period := rfl
@[simp] theorem State.setSess_stats (s : State) (i : Nat) (x : Session) : (s.setSess i x).stats = s.stats := rfl
@[simp] theorem State.setSess_quant (s : State) (i : Nat) (x : Session) : (s.setSess i x).quant = s.quant := rfl
@[simp] theorem State.setSess_cleared (s : State) (i : Nat) (x : Session) : (s.setSess i x).cleared = s.cleared := rfl
@[simp] theorem State.setSess_fed (s : State) (i : Nat) (x : Session) : (s.setSess i x).fed = s.fed := rfl
@[simp] theorem State.setSess_cells (s : State) (i : Nat) (x : Session) : (s.setSess i x).cells = s.cells := rfl
@[simp] theorem State.setSess_resident (s : State) (i : Nat) (x : Session) : (s.setSess i x).resident = s.resident := rfl
@[simp] theorem State.setSess_rng (s : State) (i : Nat) (x : Session) : (s.setSess i x).rng = s.rng := rfl
@[simp] theorem State.setSess_image (s : State) (i : Nat) (x : Session) : (s.setSess i x).image = s.image := rfl
@[simp] theorem State.setSess_scheds (s : State) (i : Nat) (x : Session) : (s.setSess i x).scheds = s.scheds := rfl
@[simp] theorem State.setSess_stages (s : State) (i : Nat) (x : Session) : (s.setSess i x).stages = s.stages := rfl
@[simp] theorem State.setSess_admitted (s : State) (i : Nat) (x : Session) : (s.setSess i x).admitted = s.admitted := rfl
@[simp] theorem State.setSess_orders (s : State) (i : Nat) (x : Session) : (s.setSess i x).orders = s.orders := rfl
@[simp] theorem State.setSess_bellows (s : State) (i : Nat) (x : Session) : (s.setSess i x).bellows = s.bellows := rfl
@[simp] theorem State.setSess_streams (s : State) (i : Nat) (x : Session) : (s.setSess i x).streams = s.streams := rfl
@[simp] theorem State.setSess_queues (s : State) (i : Nat) (x : Session) : (s.setSess i x).queues = s.queues := rfl
@[simp] theorem State.setSess_profiles (s : State) (i : Nat) (x : Session) : (s.setSess i x).profiles = s.profiles := rfl
@[simp] theorem State.setSess_profCap (s : State) (i : Nat) (x : Session) : (s.setSess i x).profCap = s.profCap := rfl
@[simp] theorem State.setSess_txn (s : State) (i : Nat) (x : Session) : (s.setSess i x).txn = s.txn := rfl
@[simp] theorem State.setSess_mem (s : State) (i : Nat) (x : Session) : (s.setSess i x).mem = s.mem := rfl
@[simp] theorem State.setSess_prot (s : State) (i : Nat) (x : Session) : (s.setSess i x).prot = s.prot := rfl
@[simp] theorem State.setSess_tag (s : State) (i : Nat) (x : Session) : (s.setSess i x).tag = s.tag := rfl
@[simp] theorem State.setSess_eth (s : State) (i : Nat) (x : Session) : (s.setSess i x).eth = s.eth := rfl
@[simp] theorem State.setSess_kl (s : State) (i : Nat) (x : Session) : (s.setSess i x).kl = s.kl := rfl
@[simp] theorem State.setSess_saps (s : State) (i : Nat) (x : Session) : (s.setSess i x).saps = s.saps := rfl
@[simp] theorem State.setSess_wclkEn (s : State) (i : Nat) (x : Session) : (s.setSess i x).wclkEn = s.wclkEn := rfl
@[simp] theorem State.setSess_sec (s : State) (i : Nat) (x : Session) : (s.setSess i x).sec = s.sec := rfl
@[simp] theorem State.setSess_bureau (s : State) (i : Nat) (x : Session) : (s.setSess i x).bureau = s.bureau := rfl
@[simp] theorem State.setSess_pwr (s : State) (i : Nat) (x : Session) : (s.setSess i x).pwr = s.pwr := rfl
@[simp] theorem State.setSess_outbox (s : State) (i : Nat) (x : Session) : (s.setSess i x).outbox = s.outbox := rfl
@[simp] theorem State.setSess_free (s : State) (i : Nat) (x : Session) : (s.setSess i x).free = s.free := rfl

/-! ## modReader -/

@[simp] theorem State.modReader_pending (s : State) (i : Nat) (f : Reader → Reader) : (s.modReader i f).pending = s.pending := rfl
@[simp] theorem State.modReader_sessions (s : State) (i : Nat) (f : Reader → Reader) : (s.modReader i f).sessions = s.sessions := rfl
@[simp] theorem State.modReader_smbOff (s : State) (i : Nat) (f : Reader → Reader) : (s.modReader i f).smbOff = s.smbOff := rfl
@[simp] theorem State.modReader_tl (s : State) (i : Nat) (f : Reader → Reader) : (s.modReader i f).tl = s.tl := rfl
@[simp] theorem State.modReader_period (s : State) (i : Nat) (f : Reader → Reader) : (s.modReader i f).period = s.period := rfl
@[simp] theorem State.modReader_stats (s : State) (i : Nat) (f : Reader → Reader) : (s.modReader i f).stats = s.stats := rfl
@[simp] theorem State.modReader_quant (s : State) (i : Nat) (f : Reader → Reader) : (s.modReader i f).quant = s.quant := rfl
@[simp] theorem State.modReader_cleared (s : State) (i : Nat) (f : Reader → Reader) : (s.modReader i f).cleared = s.cleared := rfl
@[simp] theorem State.modReader_fed (s : State) (i : Nat) (f : Reader → Reader) : (s.modReader i f).fed = s.fed := rfl
@[simp] theorem State.modReader_cells (s : State) (i : Nat) (f : Reader → Reader) : (s.modReader i f).cells = s.cells := rfl
@[simp] theorem State.modReader_resident (s : State) (i : Nat) (f : Reader → Reader) : (s.modReader i f).resident = s.resident := rfl
@[simp] theorem State.modReader_rng (s : State) (i : Nat) (f : Reader → Reader) : (s.modReader i f).rng = s.rng := rfl
@[simp] theorem State.modReader_image (s : State) (i : Nat) (f : Reader → Reader) : (s.modReader i f).image = s.image := rfl
@[simp] theorem State.modReader_scheds (s : State) (i : Nat) (f : Reader → Reader) : (s.modReader i f).scheds = s.scheds := rfl
@[simp] theorem State.modReader_stages (s : State) (i : Nat) (f : Reader → Reader) : (s.modReader i f).stages = s.stages := rfl
@[simp] theorem State.modReader_admitted (s : State) (i : Nat) (f : Reader → Reader) : (s.modReader i f).admitted = s.admitted := rfl
@[simp] theorem State.modReader_orders (s : State) (i : Nat) (f : Reader → Reader) : (s.modReader i f).orders = s.orders := rfl
@[simp] theorem State.modReader_bellows (s : State) (i : Nat) (f : Reader → Reader) : (s.modReader i f).bellows = s.bellows := rfl
@[simp] theorem State.modReader_streams (s : State) (i : Nat) (f : Reader → Reader) : (s.modReader i f).streams = s.streams := rfl
@[simp] theorem State.modReader_queues (s : State) (i : Nat) (f : Reader → Reader) : (s.modReader i f).queues = s.queues := rfl
@[simp] theorem State.modReader_profiles (s : State) (i : Nat) (f : Reader → Reader) : (s.modReader i f).profiles = s.profiles := rfl
@[simp] theorem State.modReader_profCap (s : State) (i : Nat) (f : Reader → Reader) : (s.modReader i f).profCap = s.profCap := rfl
@[simp] theorem State.modReader_txn (s : State) (i : Nat) (f : Reader → Reader) : (s.modReader i f).txn = s.txn := rfl
@[simp] theorem State.modReader_mem (s : State) (i : Nat) (f : Reader → Reader) : (s.modReader i f).mem = s.mem := rfl
@[simp] theorem State.modReader_prot (s : State) (i : Nat) (f : Reader → Reader) : (s.modReader i f).prot = s.prot := rfl
@[simp] theorem State.modReader_tag (s : State) (i : Nat) (f : Reader → Reader) : (s.modReader i f).tag = s.tag := rfl
@[simp] theorem State.modReader_eth (s : State) (i : Nat) (f : Reader → Reader) : (s.modReader i f).eth = s.eth := rfl
@[simp] theorem State.modReader_kl (s : State) (i : Nat) (f : Reader → Reader) : (s.modReader i f).kl = s.kl := rfl
@[simp] theorem State.modReader_saps (s : State) (i : Nat) (f : Reader → Reader) : (s.modReader i f).saps = s.saps := rfl
@[simp] theorem State.modReader_wclkEn (s : State) (i : Nat) (f : Reader → Reader) : (s.modReader i f).wclkEn = s.wclkEn := rfl
@[simp] theorem State.modReader_sec (s : State) (i : Nat) (f : Reader → Reader) : (s.modReader i f).sec = s.sec := rfl
@[simp] theorem State.modReader_bureau (s : State) (i : Nat) (f : Reader → Reader) : (s.modReader i f).bureau = s.bureau := rfl
@[simp] theorem State.modReader_pwr (s : State) (i : Nat) (f : Reader → Reader) : (s.modReader i f).pwr = s.pwr := rfl
@[simp] theorem State.modReader_outbox (s : State) (i : Nat) (f : Reader → Reader) : (s.modReader i f).outbox = s.outbox := rfl
@[simp] theorem State.modReader_free (s : State) (i : Nat) (f : Reader → Reader) : (s.modReader i f).free = s.free := rfl

/-! ## modStream -/

@[simp] theorem State.modStream_pending (s : State) (i : Nat) (f : Stream → Stream) : (s.modStream i f).pending = s.pending := rfl
@[simp] theorem State.modStream_sessions (s : State) (i : Nat) (f : Stream → Stream) : (s.modStream i f).sessions = s.sessions := rfl
@[simp] theorem State.modStream_readers (s : State) (i : Nat) (f : Stream → Stream) : (s.modStream i f).readers = s.readers := rfl
@[simp] theorem State.modStream_smbOff (s : State) (i : Nat) (f : Stream → Stream) : (s.modStream i f).smbOff = s.smbOff := rfl
@[simp] theorem State.modStream_tl (s : State) (i : Nat) (f : Stream → Stream) : (s.modStream i f).tl = s.tl := rfl
@[simp] theorem State.modStream_period (s : State) (i : Nat) (f : Stream → Stream) : (s.modStream i f).period = s.period := rfl
@[simp] theorem State.modStream_stats (s : State) (i : Nat) (f : Stream → Stream) : (s.modStream i f).stats = s.stats := rfl
@[simp] theorem State.modStream_quant (s : State) (i : Nat) (f : Stream → Stream) : (s.modStream i f).quant = s.quant := rfl
@[simp] theorem State.modStream_cleared (s : State) (i : Nat) (f : Stream → Stream) : (s.modStream i f).cleared = s.cleared := rfl
@[simp] theorem State.modStream_fed (s : State) (i : Nat) (f : Stream → Stream) : (s.modStream i f).fed = s.fed := rfl
@[simp] theorem State.modStream_cells (s : State) (i : Nat) (f : Stream → Stream) : (s.modStream i f).cells = s.cells := rfl
@[simp] theorem State.modStream_resident (s : State) (i : Nat) (f : Stream → Stream) : (s.modStream i f).resident = s.resident := rfl
@[simp] theorem State.modStream_rng (s : State) (i : Nat) (f : Stream → Stream) : (s.modStream i f).rng = s.rng := rfl
@[simp] theorem State.modStream_image (s : State) (i : Nat) (f : Stream → Stream) : (s.modStream i f).image = s.image := rfl
@[simp] theorem State.modStream_scheds (s : State) (i : Nat) (f : Stream → Stream) : (s.modStream i f).scheds = s.scheds := rfl
@[simp] theorem State.modStream_stages (s : State) (i : Nat) (f : Stream → Stream) : (s.modStream i f).stages = s.stages := rfl
@[simp] theorem State.modStream_admitted (s : State) (i : Nat) (f : Stream → Stream) : (s.modStream i f).admitted = s.admitted := rfl
@[simp] theorem State.modStream_orders (s : State) (i : Nat) (f : Stream → Stream) : (s.modStream i f).orders = s.orders := rfl
@[simp] theorem State.modStream_bellows (s : State) (i : Nat) (f : Stream → Stream) : (s.modStream i f).bellows = s.bellows := rfl
@[simp] theorem State.modStream_queues (s : State) (i : Nat) (f : Stream → Stream) : (s.modStream i f).queues = s.queues := rfl
@[simp] theorem State.modStream_profiles (s : State) (i : Nat) (f : Stream → Stream) : (s.modStream i f).profiles = s.profiles := rfl
@[simp] theorem State.modStream_profCap (s : State) (i : Nat) (f : Stream → Stream) : (s.modStream i f).profCap = s.profCap := rfl
@[simp] theorem State.modStream_txn (s : State) (i : Nat) (f : Stream → Stream) : (s.modStream i f).txn = s.txn := rfl
@[simp] theorem State.modStream_mem (s : State) (i : Nat) (f : Stream → Stream) : (s.modStream i f).mem = s.mem := rfl
@[simp] theorem State.modStream_prot (s : State) (i : Nat) (f : Stream → Stream) : (s.modStream i f).prot = s.prot := rfl
@[simp] theorem State.modStream_tag (s : State) (i : Nat) (f : Stream → Stream) : (s.modStream i f).tag = s.tag := rfl
@[simp] theorem State.modStream_eth (s : State) (i : Nat) (f : Stream → Stream) : (s.modStream i f).eth = s.eth := rfl
@[simp] theorem State.modStream_kl (s : State) (i : Nat) (f : Stream → Stream) : (s.modStream i f).kl = s.kl := rfl
@[simp] theorem State.modStream_saps (s : State) (i : Nat) (f : Stream → Stream) : (s.modStream i f).saps = s.saps := rfl
@[simp] theorem State.modStream_wclkEn (s : State) (i : Nat) (f : Stream → Stream) : (s.modStream i f).wclkEn = s.wclkEn := rfl
@[simp] theorem State.modStream_sec (s : State) (i : Nat) (f : Stream → Stream) : (s.modStream i f).sec = s.sec := rfl
@[simp] theorem State.modStream_bureau (s : State) (i : Nat) (f : Stream → Stream) : (s.modStream i f).bureau = s.bureau := rfl
@[simp] theorem State.modStream_pwr (s : State) (i : Nat) (f : Stream → Stream) : (s.modStream i f).pwr = s.pwr := rfl
@[simp] theorem State.modStream_outbox (s : State) (i : Nat) (f : Stream → Stream) : (s.modStream i f).outbox = s.outbox := rfl
@[simp] theorem State.modStream_free (s : State) (i : Nat) (f : Stream → Stream) : (s.modStream i f).free = s.free := rfl

/-! ## modQueue -/

@[simp] theorem State.modQueue_pending (s : State) (i : Nat) (f : Queue → Queue) : (s.modQueue i f).pending = s.pending := rfl
@[simp] theorem State.modQueue_sessions (s : State) (i : Nat) (f : Queue → Queue) : (s.modQueue i f).sessions = s.sessions := rfl
@[simp] theorem State.modQueue_readers (s : State) (i : Nat) (f : Queue → Queue) : (s.modQueue i f).readers = s.readers := rfl
@[simp] theorem State.modQueue_smbOff (s : State) (i : Nat) (f : Queue → Queue) : (s.modQueue i f).smbOff = s.smbOff := rfl
@[simp] theorem State.modQueue_tl (s : State) (i : Nat) (f : Queue → Queue) : (s.modQueue i f).tl = s.tl := rfl
@[simp] theorem State.modQueue_period (s : State) (i : Nat) (f : Queue → Queue) : (s.modQueue i f).period = s.period := rfl
@[simp] theorem State.modQueue_stats (s : State) (i : Nat) (f : Queue → Queue) : (s.modQueue i f).stats = s.stats := rfl
@[simp] theorem State.modQueue_quant (s : State) (i : Nat) (f : Queue → Queue) : (s.modQueue i f).quant = s.quant := rfl
@[simp] theorem State.modQueue_cleared (s : State) (i : Nat) (f : Queue → Queue) : (s.modQueue i f).cleared = s.cleared := rfl
@[simp] theorem State.modQueue_fed (s : State) (i : Nat) (f : Queue → Queue) : (s.modQueue i f).fed = s.fed := rfl
@[simp] theorem State.modQueue_cells (s : State) (i : Nat) (f : Queue → Queue) : (s.modQueue i f).cells = s.cells := rfl
@[simp] theorem State.modQueue_resident (s : State) (i : Nat) (f : Queue → Queue) : (s.modQueue i f).resident = s.resident := rfl
@[simp] theorem State.modQueue_rng (s : State) (i : Nat) (f : Queue → Queue) : (s.modQueue i f).rng = s.rng := rfl
@[simp] theorem State.modQueue_image (s : State) (i : Nat) (f : Queue → Queue) : (s.modQueue i f).image = s.image := rfl
@[simp] theorem State.modQueue_scheds (s : State) (i : Nat) (f : Queue → Queue) : (s.modQueue i f).scheds = s.scheds := rfl
@[simp] theorem State.modQueue_stages (s : State) (i : Nat) (f : Queue → Queue) : (s.modQueue i f).stages = s.stages := rfl
@[simp] theorem State.modQueue_admitted (s : State) (i : Nat) (f : Queue → Queue) : (s.modQueue i f).admitted = s.admitted := rfl
@[simp] theorem State.modQueue_orders (s : State) (i : Nat) (f : Queue → Queue) : (s.modQueue i f).orders = s.orders := rfl
@[simp] theorem State.modQueue_bellows (s : State) (i : Nat) (f : Queue → Queue) : (s.modQueue i f).bellows = s.bellows := rfl
@[simp] theorem State.modQueue_streams (s : State) (i : Nat) (f : Queue → Queue) : (s.modQueue i f).streams = s.streams := rfl
@[simp] theorem State.modQueue_profiles (s : State) (i : Nat) (f : Queue → Queue) : (s.modQueue i f).profiles = s.profiles := rfl
@[simp] theorem State.modQueue_profCap (s : State) (i : Nat) (f : Queue → Queue) : (s.modQueue i f).profCap = s.profCap := rfl
@[simp] theorem State.modQueue_txn (s : State) (i : Nat) (f : Queue → Queue) : (s.modQueue i f).txn = s.txn := rfl
@[simp] theorem State.modQueue_mem (s : State) (i : Nat) (f : Queue → Queue) : (s.modQueue i f).mem = s.mem := rfl
@[simp] theorem State.modQueue_prot (s : State) (i : Nat) (f : Queue → Queue) : (s.modQueue i f).prot = s.prot := rfl
@[simp] theorem State.modQueue_tag (s : State) (i : Nat) (f : Queue → Queue) : (s.modQueue i f).tag = s.tag := rfl
@[simp] theorem State.modQueue_eth (s : State) (i : Nat) (f : Queue → Queue) : (s.modQueue i f).eth = s.eth := rfl
@[simp] theorem State.modQueue_kl (s : State) (i : Nat) (f : Queue → Queue) : (s.modQueue i f).kl = s.kl := rfl
@[simp] theorem State.modQueue_saps (s : State) (i : Nat) (f : Queue → Queue) : (s.modQueue i f).saps = s.saps := rfl
@[simp] theorem State.modQueue_wclkEn (s : State) (i : Nat) (f : Queue → Queue) : (s.modQueue i f).wclkEn = s.wclkEn := rfl
@[simp] theorem State.modQueue_sec (s : State) (i : Nat) (f : Queue → Queue) : (s.modQueue i f).sec = s.sec := rfl
@[simp] theorem State.modQueue_bureau (s : State) (i : Nat) (f : Queue → Queue) : (s.modQueue i f).bureau = s.bureau := rfl
@[simp] theorem State.modQueue_pwr (s : State) (i : Nat) (f : Queue → Queue) : (s.modQueue i f).pwr = s.pwr := rfl
@[simp] theorem State.modQueue_outbox (s : State) (i : Nat) (f : Queue → Queue) : (s.modQueue i f).outbox = s.outbox := rfl
@[simp] theorem State.modQueue_free (s : State) (i : Nat) (f : Queue → Queue) : (s.modQueue i f).free = s.free := rfl

/-! ## modProfile -/

@[simp] theorem State.modProfile_pending (s : State) (i : Nat) (f : Profile → Profile) : (s.modProfile i f).pending = s.pending := rfl
@[simp] theorem State.modProfile_sessions (s : State) (i : Nat) (f : Profile → Profile) : (s.modProfile i f).sessions = s.sessions := rfl
@[simp] theorem State.modProfile_readers (s : State) (i : Nat) (f : Profile → Profile) : (s.modProfile i f).readers = s.readers := rfl
@[simp] theorem State.modProfile_smbOff (s : State) (i : Nat) (f : Profile → Profile) : (s.modProfile i f).smbOff = s.smbOff := rfl
@[simp] theorem State.modProfile_tl (s : State) (i : Nat) (f : Profile → Profile) : (s.modProfile i f).tl = s.tl := rfl
@[simp] theorem State.modProfile_period (s : State) (i : Nat) (f : Profile → Profile) : (s.modProfile i f).period = s.period := rfl
@[simp] theorem State.modProfile_stats (s : State) (i : Nat) (f : Profile → Profile) : (s.modProfile i f).stats = s.stats := rfl
@[simp] theorem State.modProfile_quant (s : State) (i : Nat) (f : Profile → Profile) : (s.modProfile i f).quant = s.quant := rfl
@[simp] theorem State.modProfile_cleared (s : State) (i : Nat) (f : Profile → Profile) : (s.modProfile i f).cleared = s.cleared := rfl
@[simp] theorem State.modProfile_fed (s : State) (i : Nat) (f : Profile → Profile) : (s.modProfile i f).fed = s.fed := rfl
@[simp] theorem State.modProfile_cells (s : State) (i : Nat) (f : Profile → Profile) : (s.modProfile i f).cells = s.cells := rfl
@[simp] theorem State.modProfile_resident (s : State) (i : Nat) (f : Profile → Profile) : (s.modProfile i f).resident = s.resident := rfl
@[simp] theorem State.modProfile_rng (s : State) (i : Nat) (f : Profile → Profile) : (s.modProfile i f).rng = s.rng := rfl
@[simp] theorem State.modProfile_image (s : State) (i : Nat) (f : Profile → Profile) : (s.modProfile i f).image = s.image := rfl
@[simp] theorem State.modProfile_scheds (s : State) (i : Nat) (f : Profile → Profile) : (s.modProfile i f).scheds = s.scheds := rfl
@[simp] theorem State.modProfile_stages (s : State) (i : Nat) (f : Profile → Profile) : (s.modProfile i f).stages = s.stages := rfl
@[simp] theorem State.modProfile_admitted (s : State) (i : Nat) (f : Profile → Profile) : (s.modProfile i f).admitted = s.admitted := rfl
@[simp] theorem State.modProfile_orders (s : State) (i : Nat) (f : Profile → Profile) : (s.modProfile i f).orders = s.orders := rfl
@[simp] theorem State.modProfile_bellows (s : State) (i : Nat) (f : Profile → Profile) : (s.modProfile i f).bellows = s.bellows := rfl
@[simp] theorem State.modProfile_streams (s : State) (i : Nat) (f : Profile → Profile) : (s.modProfile i f).streams = s.streams := rfl
@[simp] theorem State.modProfile_queues (s : State) (i : Nat) (f : Profile → Profile) : (s.modProfile i f).queues = s.queues := rfl
@[simp] theorem State.modProfile_profCap (s : State) (i : Nat) (f : Profile → Profile) : (s.modProfile i f).profCap = s.profCap := rfl
@[simp] theorem State.modProfile_txn (s : State) (i : Nat) (f : Profile → Profile) : (s.modProfile i f).txn = s.txn := rfl
@[simp] theorem State.modProfile_mem (s : State) (i : Nat) (f : Profile → Profile) : (s.modProfile i f).mem = s.mem := rfl
@[simp] theorem State.modProfile_prot (s : State) (i : Nat) (f : Profile → Profile) : (s.modProfile i f).prot = s.prot := rfl
@[simp] theorem State.modProfile_tag (s : State) (i : Nat) (f : Profile → Profile) : (s.modProfile i f).tag = s.tag := rfl
@[simp] theorem State.modProfile_eth (s : State) (i : Nat) (f : Profile → Profile) : (s.modProfile i f).eth = s.eth := rfl
@[simp] theorem State.modProfile_kl (s : State) (i : Nat) (f : Profile → Profile) : (s.modProfile i f).kl = s.kl := rfl
@[simp] theorem State.modProfile_saps (s : State) (i : Nat) (f : Profile → Profile) : (s.modProfile i f).saps = s.saps := rfl
@[simp] theorem State.modProfile_wclkEn (s : State) (i : Nat) (f : Profile → Profile) : (s.modProfile i f).wclkEn = s.wclkEn := rfl
@[simp] theorem State.modProfile_sec (s : State) (i : Nat) (f : Profile → Profile) : (s.modProfile i f).sec = s.sec := rfl
@[simp] theorem State.modProfile_bureau (s : State) (i : Nat) (f : Profile → Profile) : (s.modProfile i f).bureau = s.bureau := rfl
@[simp] theorem State.modProfile_pwr (s : State) (i : Nat) (f : Profile → Profile) : (s.modProfile i f).pwr = s.pwr := rfl
@[simp] theorem State.modProfile_outbox (s : State) (i : Nat) (f : Profile → Profile) : (s.modProfile i f).outbox = s.outbox := rfl
@[simp] theorem State.modProfile_free (s : State) (i : Nat) (f : Profile → Profile) : (s.modProfile i f).free = s.free := rfl

/-! ## modSched -/

@[simp] theorem State.modSched_pending (s : State) (d : Nat) (f : Sched → Sched) : (s.modSched d f).pending = s.pending := rfl
@[simp] theorem State.modSched_sessions (s : State) (d : Nat) (f : Sched → Sched) : (s.modSched d f).sessions = s.sessions := rfl
@[simp] theorem State.modSched_readers (s : State) (d : Nat) (f : Sched → Sched) : (s.modSched d f).readers = s.readers := rfl
@[simp] theorem State.modSched_smbOff (s : State) (d : Nat) (f : Sched → Sched) : (s.modSched d f).smbOff = s.smbOff := rfl
@[simp] theorem State.modSched_tl (s : State) (d : Nat) (f : Sched → Sched) : (s.modSched d f).tl = s.tl := rfl
@[simp] theorem State.modSched_period (s : State) (d : Nat) (f : Sched → Sched) : (s.modSched d f).period = s.period := rfl
@[simp] theorem State.modSched_stats (s : State) (d : Nat) (f : Sched → Sched) : (s.modSched d f).stats = s.stats := rfl
@[simp] theorem State.modSched_quant (s : State) (d : Nat) (f : Sched → Sched) : (s.modSched d f).quant = s.quant := rfl
@[simp] theorem State.modSched_cleared (s : State) (d : Nat) (f : Sched → Sched) : (s.modSched d f).cleared = s.cleared := rfl
@[simp] theorem State.modSched_fed (s : State) (d : Nat) (f : Sched → Sched) : (s.modSched d f).fed = s.fed := rfl
@[simp] theorem State.modSched_cells (s : State) (d : Nat) (f : Sched → Sched) : (s.modSched d f).cells = s.cells := rfl
@[simp] theorem State.modSched_resident (s : State) (d : Nat) (f : Sched → Sched) : (s.modSched d f).resident = s.resident := rfl
@[simp] theorem State.modSched_rng (s : State) (d : Nat) (f : Sched → Sched) : (s.modSched d f).rng = s.rng := rfl
@[simp] theorem State.modSched_image (s : State) (d : Nat) (f : Sched → Sched) : (s.modSched d f).image = s.image := rfl
@[simp] theorem State.modSched_stages (s : State) (d : Nat) (f : Sched → Sched) : (s.modSched d f).stages = s.stages := rfl
@[simp] theorem State.modSched_admitted (s : State) (d : Nat) (f : Sched → Sched) : (s.modSched d f).admitted = s.admitted := rfl
@[simp] theorem State.modSched_orders (s : State) (d : Nat) (f : Sched → Sched) : (s.modSched d f).orders = s.orders := rfl
@[simp] theorem State.modSched_bellows (s : State) (d : Nat) (f : Sched → Sched) : (s.modSched d f).bellows = s.bellows := rfl
@[simp] theorem State.modSched_streams (s : State) (d : Nat) (f : Sched → Sched) : (s.modSched d f).streams = s.streams := rfl
@[simp] theorem State.modSched_queues (s : State) (d : Nat) (f : Sched → Sched) : (s.modSched d f).queues = s.queues := rfl
@[simp] theorem State.modSched_profiles (s : State) (d : Nat) (f : Sched → Sched) : (s.modSched d f).profiles = s.profiles := rfl
@[simp] theorem State.modSched_profCap (s : State) (d : Nat) (f : Sched → Sched) : (s.modSched d f).profCap = s.profCap := rfl
@[simp] theorem State.modSched_txn (s : State) (d : Nat) (f : Sched → Sched) : (s.modSched d f).txn = s.txn := rfl
@[simp] theorem State.modSched_mem (s : State) (d : Nat) (f : Sched → Sched) : (s.modSched d f).mem = s.mem := rfl
@[simp] theorem State.modSched_prot (s : State) (d : Nat) (f : Sched → Sched) : (s.modSched d f).prot = s.prot := rfl
@[simp] theorem State.modSched_tag (s : State) (d : Nat) (f : Sched → Sched) : (s.modSched d f).tag = s.tag := rfl
@[simp] theorem State.modSched_eth (s : State) (d : Nat) (f : Sched → Sched) : (s.modSched d f).eth = s.eth := rfl
@[simp] theorem State.modSched_kl (s : State) (d : Nat) (f : Sched → Sched) : (s.modSched d f).kl = s.kl := rfl
@[simp] theorem State.modSched_saps (s : State) (d : Nat) (f : Sched → Sched) : (s.modSched d f).saps = s.saps := rfl
@[simp] theorem State.modSched_wclkEn (s : State) (d : Nat) (f : Sched → Sched) : (s.modSched d f).wclkEn = s.wclkEn := rfl
@[simp] theorem State.modSched_sec (s : State) (d : Nat) (f : Sched → Sched) : (s.modSched d f).sec = s.sec := rfl
@[simp] theorem State.modSched_bureau (s : State) (d : Nat) (f : Sched → Sched) : (s.modSched d f).bureau = s.bureau := rfl
@[simp] theorem State.modSched_pwr (s : State) (d : Nat) (f : Sched → Sched) : (s.modSched d f).pwr = s.pwr := rfl
@[simp] theorem State.modSched_outbox (s : State) (d : Nat) (f : Sched → Sched) : (s.modSched d f).outbox = s.outbox := rfl
@[simp] theorem State.modSched_free (s : State) (d : Nat) (f : Sched → Sched) : (s.modSched d f).free = s.free := rfl

/-! ## modStage -/

@[simp] theorem State.modStage_pending (s : State) (i : Nat) (f : Stage → Stage) : (s.modStage i f).pending = s.pending := rfl
@[simp] theorem State.modStage_sessions (s : State) (i : Nat) (f : Stage → Stage) : (s.modStage i f).sessions = s.sessions := rfl
@[simp] theorem State.modStage_readers (s : State) (i : Nat) (f : Stage → Stage) : (s.modStage i f).readers = s.readers := rfl
@[simp] theorem State.modStage_smbOff (s : State) (i : Nat) (f : Stage → Stage) : (s.modStage i f).smbOff = s.smbOff := rfl
@[simp] theorem State.modStage_tl (s : State) (i : Nat) (f : Stage → Stage) : (s.modStage i f).tl = s.tl := rfl
@[simp] theorem State.modStage_period (s : State) (i : Nat) (f : Stage → Stage) : (s.modStage i f).period = s.period := rfl
@[simp] theorem State.modStage_stats (s : State) (i : Nat) (f : Stage → Stage) : (s.modStage i f).stats = s.stats := rfl
@[simp] theorem State.modStage_quant (s : State) (i : Nat) (f : Stage → Stage) : (s.modStage i f).quant = s.quant := rfl
@[simp] theorem State.modStage_cleared (s : State) (i : Nat) (f : Stage → Stage) : (s.modStage i f).cleared = s.cleared := rfl
@[simp] theorem State.modStage_fed (s : State) (i : Nat) (f : Stage → Stage) : (s.modStage i f).fed = s.fed := rfl
@[simp] theorem State.modStage_cells (s : State) (i : Nat) (f : Stage → Stage) : (s.modStage i f).cells = s.cells := rfl
@[simp] theorem State.modStage_resident (s : State) (i : Nat) (f : Stage → Stage) : (s.modStage i f).resident = s.resident := rfl
@[simp] theorem State.modStage_rng (s : State) (i : Nat) (f : Stage → Stage) : (s.modStage i f).rng = s.rng := rfl
@[simp] theorem State.modStage_image (s : State) (i : Nat) (f : Stage → Stage) : (s.modStage i f).image = s.image := rfl
@[simp] theorem State.modStage_scheds (s : State) (i : Nat) (f : Stage → Stage) : (s.modStage i f).scheds = s.scheds := rfl
@[simp] theorem State.modStage_admitted (s : State) (i : Nat) (f : Stage → Stage) : (s.modStage i f).admitted = s.admitted := rfl
@[simp] theorem State.modStage_orders (s : State) (i : Nat) (f : Stage → Stage) : (s.modStage i f).orders = s.orders := rfl
@[simp] theorem State.modStage_bellows (s : State) (i : Nat) (f : Stage → Stage) : (s.modStage i f).bellows = s.bellows := rfl
@[simp] theorem State.modStage_streams (s : State) (i : Nat) (f : Stage → Stage) : (s.modStage i f).streams = s.streams := rfl
@[simp] theorem State.modStage_queues (s : State) (i : Nat) (f : Stage → Stage) : (s.modStage i f).queues = s.queues := rfl
@[simp] theorem State.modStage_profiles (s : State) (i : Nat) (f : Stage → Stage) : (s.modStage i f).profiles = s.profiles := rfl
@[simp] theorem State.modStage_profCap (s : State) (i : Nat) (f : Stage → Stage) : (s.modStage i f).profCap = s.profCap := rfl
@[simp] theorem State.modStage_txn (s : State) (i : Nat) (f : Stage → Stage) : (s.modStage i f).txn = s.txn := rfl
@[simp] theorem State.modStage_mem (s : State) (i : Nat) (f : Stage → Stage) : (s.modStage i f).mem = s.mem := rfl
@[simp] theorem State.modStage_prot (s : State) (i : Nat) (f : Stage → Stage) : (s.modStage i f).prot = s.prot := rfl
@[simp] theorem State.modStage_tag (s : State) (i : Nat) (f : Stage → Stage) : (s.modStage i f).tag = s.tag := rfl
@[simp] theorem State.modStage_eth (s : State) (i : Nat) (f : Stage → Stage) : (s.modStage i f).eth = s.eth := rfl
@[simp] theorem State.modStage_kl (s : State) (i : Nat) (f : Stage → Stage) : (s.modStage i f).kl = s.kl := rfl
@[simp] theorem State.modStage_saps (s : State) (i : Nat) (f : Stage → Stage) : (s.modStage i f).saps = s.saps := rfl
@[simp] theorem State.modStage_wclkEn (s : State) (i : Nat) (f : Stage → Stage) : (s.modStage i f).wclkEn = s.wclkEn := rfl
@[simp] theorem State.modStage_sec (s : State) (i : Nat) (f : Stage → Stage) : (s.modStage i f).sec = s.sec := rfl
@[simp] theorem State.modStage_bureau (s : State) (i : Nat) (f : Stage → Stage) : (s.modStage i f).bureau = s.bureau := rfl
@[simp] theorem State.modStage_pwr (s : State) (i : Nat) (f : Stage → Stage) : (s.modStage i f).pwr = s.pwr := rfl
@[simp] theorem State.modStage_outbox (s : State) (i : Nat) (f : Stage → Stage) : (s.modStage i f).outbox = s.outbox := rfl
@[simp] theorem State.modStage_free (s : State) (i : Nat) (f : Stage → Stage) : (s.modStage i f).free = s.free := rfl

/-! ## modChannel -/

@[simp] theorem State.modChannel_pending (s : State) (c : Nat) (f : Channel → Channel) : (s.modChannel c f).pending = s.pending := rfl
@[simp] theorem State.modChannel_sessions (s : State) (c : Nat) (f : Channel → Channel) : (s.modChannel c f).sessions = s.sessions := rfl
@[simp] theorem State.modChannel_readers (s : State) (c : Nat) (f : Channel → Channel) : (s.modChannel c f).readers = s.readers := rfl
@[simp] theorem State.modChannel_smbOff (s : State) (c : Nat) (f : Channel → Channel) : (s.modChannel c f).smbOff = s.smbOff := rfl
@[simp] theorem State.modChannel_tl (s : State) (c : Nat) (f : Channel → Channel) : (s.modChannel c f).tl = s.tl := rfl
@[simp] theorem State.modChannel_period (s : State) (c : Nat) (f : Channel → Channel) : (s.modChannel c f).period = s.period := rfl
@[simp] theorem State.modChannel_stats (s : State) (c : Nat) (f : Channel → Channel) : (s.modChannel c f).stats = s.stats := rfl
@[simp] theorem State.modChannel_quant (s : State) (c : Nat) (f : Channel → Channel) : (s.modChannel c f).quant = s.quant := rfl
@[simp] theorem State.modChannel_cleared (s : State) (c : Nat) (f : Channel → Channel) : (s.modChannel c f).cleared = s.cleared := rfl
@[simp] theorem State.modChannel_fed (s : State) (c : Nat) (f : Channel → Channel) : (s.modChannel c f).fed = s.fed := rfl
@[simp] theorem State.modChannel_cells (s : State) (c : Nat) (f : Channel → Channel) : (s.modChannel c f).cells = s.cells := rfl
@[simp] theorem State.modChannel_resident (s : State) (c : Nat) (f : Channel → Channel) : (s.modChannel c f).resident = s.resident := rfl
@[simp] theorem State.modChannel_rng (s : State) (c : Nat) (f : Channel → Channel) : (s.modChannel c f).rng = s.rng := rfl
@[simp] theorem State.modChannel_image (s : State) (c : Nat) (f : Channel → Channel) : (s.modChannel c f).image = s.image := rfl
@[simp] theorem State.modChannel_scheds (s : State) (c : Nat) (f : Channel → Channel) : (s.modChannel c f).scheds = s.scheds := rfl
@[simp] theorem State.modChannel_stages (s : State) (c : Nat) (f : Channel → Channel) : (s.modChannel c f).stages = s.stages := rfl
@[simp] theorem State.modChannel_admitted (s : State) (c : Nat) (f : Channel → Channel) : (s.modChannel c f).admitted = s.admitted := rfl
@[simp] theorem State.modChannel_orders (s : State) (c : Nat) (f : Channel → Channel) : (s.modChannel c f).orders = s.orders := rfl
@[simp] theorem State.modChannel_streams (s : State) (c : Nat) (f : Channel → Channel) : (s.modChannel c f).streams = s.streams := rfl
@[simp] theorem State.modChannel_queues (s : State) (c : Nat) (f : Channel → Channel) : (s.modChannel c f).queues = s.queues := rfl
@[simp] theorem State.modChannel_profiles (s : State) (c : Nat) (f : Channel → Channel) : (s.modChannel c f).profiles = s.profiles := rfl
@[simp] theorem State.modChannel_profCap (s : State) (c : Nat) (f : Channel → Channel) : (s.modChannel c f).profCap = s.profCap := rfl
@[simp] theorem State.modChannel_txn (s : State) (c : Nat) (f : Channel → Channel) : (s.modChannel c f).txn = s.txn := rfl
@[simp] theorem State.modChannel_mem (s : State) (c : Nat) (f : Channel → Channel) : (s.modChannel c f).mem = s.mem := rfl
@[simp] theorem State.modChannel_prot (s : State) (c : Nat) (f : Channel → Channel) : (s.modChannel c f).prot = s.prot := rfl
@[simp] theorem State.modChannel_tag (s : State) (c : Nat) (f : Channel → Channel) : (s.modChannel c f).tag = s.tag := rfl
@[simp] theorem State.modChannel_eth (s : State) (c : Nat) (f : Channel → Channel) : (s.modChannel c f).eth = s.eth := rfl
@[simp] theorem State.modChannel_kl (s : State) (c : Nat) (f : Channel → Channel) : (s.modChannel c f).kl = s.kl := rfl
@[simp] theorem State.modChannel_saps (s : State) (c : Nat) (f : Channel → Channel) : (s.modChannel c f).saps = s.saps := rfl
@[simp] theorem State.modChannel_wclkEn (s : State) (c : Nat) (f : Channel → Channel) : (s.modChannel c f).wclkEn = s.wclkEn := rfl
@[simp] theorem State.modChannel_sec (s : State) (c : Nat) (f : Channel → Channel) : (s.modChannel c f).sec = s.sec := rfl
@[simp] theorem State.modChannel_bureau (s : State) (c : Nat) (f : Channel → Channel) : (s.modChannel c f).bureau = s.bureau := rfl
@[simp] theorem State.modChannel_pwr (s : State) (c : Nat) (f : Channel → Channel) : (s.modChannel c f).pwr = s.pwr := rfl
@[simp] theorem State.modChannel_outbox (s : State) (c : Nat) (f : Channel → Channel) : (s.modChannel c f).outbox = s.outbox := rfl
@[simp] theorem State.modChannel_free (s : State) (c : Nat) (f : Channel → Channel) : (s.modChannel c f).free = s.free := rfl

/-! ## modLink -/

@[simp] theorem State.modLink_pending (s : State) (l : Nat) (f : LinkSt → LinkSt) : (s.modLink l f).pending = s.pending := rfl
@[simp] theorem State.modLink_sessions (s : State) (l : Nat) (f : LinkSt → LinkSt) : (s.modLink l f).sessions = s.sessions := rfl
@[simp] theorem State.modLink_readers (s : State) (l : Nat) (f : LinkSt → LinkSt) : (s.modLink l f).readers = s.readers := rfl
@[simp] theorem State.modLink_smbOff (s : State) (l : Nat) (f : LinkSt → LinkSt) : (s.modLink l f).smbOff = s.smbOff := rfl
@[simp] theorem State.modLink_tl (s : State) (l : Nat) (f : LinkSt → LinkSt) : (s.modLink l f).tl = s.tl := rfl
@[simp] theorem State.modLink_period (s : State) (l : Nat) (f : LinkSt → LinkSt) : (s.modLink l f).period = s.period := rfl
@[simp] theorem State.modLink_stats (s : State) (l : Nat) (f : LinkSt → LinkSt) : (s.modLink l f).stats = s.stats := rfl
@[simp] theorem State.modLink_quant (s : State) (l : Nat) (f : LinkSt → LinkSt) : (s.modLink l f).quant = s.quant := rfl
@[simp] theorem State.modLink_cleared (s : State) (l : Nat) (f : LinkSt → LinkSt) : (s.modLink l f).cleared = s.cleared := rfl
@[simp] theorem State.modLink_fed (s : State) (l : Nat) (f : LinkSt → LinkSt) : (s.modLink l f).fed = s.fed := rfl
@[simp] theorem State.modLink_cells (s : State) (l : Nat) (f : LinkSt → LinkSt) : (s.modLink l f).cells = s.cells := rfl
@[simp] theorem State.modLink_resident (s : State) (l : Nat) (f : LinkSt → LinkSt) : (s.modLink l f).resident = s.resident := rfl
@[simp] theorem State.modLink_rng (s : State) (l : Nat) (f : LinkSt → LinkSt) : (s.modLink l f).rng = s.rng := rfl
@[simp] theorem State.modLink_image (s : State) (l : Nat) (f : LinkSt → LinkSt) : (s.modLink l f).image = s.image := rfl
@[simp] theorem State.modLink_scheds (s : State) (l : Nat) (f : LinkSt → LinkSt) : (s.modLink l f).scheds = s.scheds := rfl
@[simp] theorem State.modLink_stages (s : State) (l : Nat) (f : LinkSt → LinkSt) : (s.modLink l f).stages = s.stages := rfl
@[simp] theorem State.modLink_admitted (s : State) (l : Nat) (f : LinkSt → LinkSt) : (s.modLink l f).admitted = s.admitted := rfl
@[simp] theorem State.modLink_orders (s : State) (l : Nat) (f : LinkSt → LinkSt) : (s.modLink l f).orders = s.orders := rfl
@[simp] theorem State.modLink_streams (s : State) (l : Nat) (f : LinkSt → LinkSt) : (s.modLink l f).streams = s.streams := rfl
@[simp] theorem State.modLink_queues (s : State) (l : Nat) (f : LinkSt → LinkSt) : (s.modLink l f).queues = s.queues := rfl
@[simp] theorem State.modLink_profiles (s : State) (l : Nat) (f : LinkSt → LinkSt) : (s.modLink l f).profiles = s.profiles := rfl
@[simp] theorem State.modLink_profCap (s : State) (l : Nat) (f : LinkSt → LinkSt) : (s.modLink l f).profCap = s.profCap := rfl
@[simp] theorem State.modLink_txn (s : State) (l : Nat) (f : LinkSt → LinkSt) : (s.modLink l f).txn = s.txn := rfl
@[simp] theorem State.modLink_mem (s : State) (l : Nat) (f : LinkSt → LinkSt) : (s.modLink l f).mem = s.mem := rfl
@[simp] theorem State.modLink_prot (s : State) (l : Nat) (f : LinkSt → LinkSt) : (s.modLink l f).prot = s.prot := rfl
@[simp] theorem State.modLink_tag (s : State) (l : Nat) (f : LinkSt → LinkSt) : (s.modLink l f).tag = s.tag := rfl
@[simp] theorem State.modLink_eth (s : State) (l : Nat) (f : LinkSt → LinkSt) : (s.modLink l f).eth = s.eth := rfl
@[simp] theorem State.modLink_kl (s : State) (l : Nat) (f : LinkSt → LinkSt) : (s.modLink l f).kl = s.kl := rfl
@[simp] theorem State.modLink_saps (s : State) (l : Nat) (f : LinkSt → LinkSt) : (s.modLink l f).saps = s.saps := rfl
@[simp] theorem State.modLink_wclkEn (s : State) (l : Nat) (f : LinkSt → LinkSt) : (s.modLink l f).wclkEn = s.wclkEn := rfl
@[simp] theorem State.modLink_sec (s : State) (l : Nat) (f : LinkSt → LinkSt) : (s.modLink l f).sec = s.sec := rfl
@[simp] theorem State.modLink_bureau (s : State) (l : Nat) (f : LinkSt → LinkSt) : (s.modLink l f).bureau = s.bureau := rfl
@[simp] theorem State.modLink_pwr (s : State) (l : Nat) (f : LinkSt → LinkSt) : (s.modLink l f).pwr = s.pwr := rfl
@[simp] theorem State.modLink_outbox (s : State) (l : Nat) (f : LinkSt → LinkSt) : (s.modLink l f).outbox = s.outbox := rfl
@[simp] theorem State.modLink_free (s : State) (l : Nat) (f : LinkSt → LinkSt) : (s.modLink l f).free = s.free := rfl

/-! ## modKlink -/

@[simp] theorem State.modKlink_pending (s : State) (k : Nat) (f : KLink → KLink) : (s.modKlink k f).pending = s.pending := rfl
@[simp] theorem State.modKlink_sessions (s : State) (k : Nat) (f : KLink → KLink) : (s.modKlink k f).sessions = s.sessions := rfl
@[simp] theorem State.modKlink_readers (s : State) (k : Nat) (f : KLink → KLink) : (s.modKlink k f).readers = s.readers := rfl
@[simp] theorem State.modKlink_smbOff (s : State) (k : Nat) (f : KLink → KLink) : (s.modKlink k f).smbOff = s.smbOff := rfl
@[simp] theorem State.modKlink_tl (s : State) (k : Nat) (f : KLink → KLink) : (s.modKlink k f).tl = s.tl := rfl
@[simp] theorem State.modKlink_period (s : State) (k : Nat) (f : KLink → KLink) : (s.modKlink k f).period = s.period := rfl
@[simp] theorem State.modKlink_stats (s : State) (k : Nat) (f : KLink → KLink) : (s.modKlink k f).stats = s.stats := rfl
@[simp] theorem State.modKlink_quant (s : State) (k : Nat) (f : KLink → KLink) : (s.modKlink k f).quant = s.quant := rfl
@[simp] theorem State.modKlink_cleared (s : State) (k : Nat) (f : KLink → KLink) : (s.modKlink k f).cleared = s.cleared := rfl
@[simp] theorem State.modKlink_fed (s : State) (k : Nat) (f : KLink → KLink) : (s.modKlink k f).fed = s.fed := rfl
@[simp] theorem State.modKlink_cells (s : State) (k : Nat) (f : KLink → KLink) : (s.modKlink k f).cells = s.cells := rfl
@[simp] theorem State.modKlink_resident (s : State) (k : Nat) (f : KLink → KLink) : (s.modKlink k f).resident = s.resident := rfl
@[simp] theorem State.modKlink_rng (s : State) (k : Nat) (f : KLink → KLink) : (s.modKlink k f).rng = s.rng := rfl
@[simp] theorem State.modKlink_image (s : State) (k : Nat) (f : KLink → KLink) : (s.modKlink k f).image = s.image := rfl
@[simp] theorem State.modKlink_scheds (s : State) (k : Nat) (f : KLink → KLink) : (s.modKlink k f).scheds = s.scheds := rfl
@[simp] theorem State.modKlink_stages (s : State) (k : Nat) (f : KLink → KLink) : (s.modKlink k f).stages = s.stages := rfl
@[simp] theorem State.modKlink_admitted (s : State) (k : Nat) (f : KLink → KLink) : (s.modKlink k f).admitted = s.admitted := rfl
@[simp] theorem State.modKlink_orders (s : State) (k : Nat) (f : KLink → KLink) : (s.modKlink k f).orders = s.orders := rfl
@[simp] theorem State.modKlink_bellows (s : State) (k : Nat) (f : KLink → KLink) : (s.modKlink k f).bellows = s.bellows := rfl
@[simp] theorem State.modKlink_streams (s : State) (k : Nat) (f : KLink → KLink) : (s.modKlink k f).streams = s.streams := rfl
@[simp] theorem State.modKlink_queues (s : State) (k : Nat) (f : KLink → KLink) : (s.modKlink k f).queues = s.queues := rfl
@[simp] theorem State.modKlink_profiles (s : State) (k : Nat) (f : KLink → KLink) : (s.modKlink k f).profiles = s.profiles := rfl
@[simp] theorem State.modKlink_profCap (s : State) (k : Nat) (f : KLink → KLink) : (s.modKlink k f).profCap = s.profCap := rfl
@[simp] theorem State.modKlink_txn (s : State) (k : Nat) (f : KLink → KLink) : (s.modKlink k f).txn = s.txn := rfl
@[simp] theorem State.modKlink_mem (s : State) (k : Nat) (f : KLink → KLink) : (s.modKlink k f).mem = s.mem := rfl
@[simp] theorem State.modKlink_prot (s : State) (k : Nat) (f : KLink → KLink) : (s.modKlink k f).prot = s.prot := rfl
@[simp] theorem State.modKlink_tag (s : State) (k : Nat) (f : KLink → KLink) : (s.modKlink k f).tag = s.tag := rfl
@[simp] theorem State.modKlink_eth (s : State) (k : Nat) (f : KLink → KLink) : (s.modKlink k f).eth = s.eth := rfl
@[simp] theorem State.modKlink_saps (s : State) (k : Nat) (f : KLink → KLink) : (s.modKlink k f).saps = s.saps := rfl
@[simp] theorem State.modKlink_wclkEn (s : State) (k : Nat) (f : KLink → KLink) : (s.modKlink k f).wclkEn = s.wclkEn := rfl
@[simp] theorem State.modKlink_sec (s : State) (k : Nat) (f : KLink → KLink) : (s.modKlink k f).sec = s.sec := rfl
@[simp] theorem State.modKlink_bureau (s : State) (k : Nat) (f : KLink → KLink) : (s.modKlink k f).bureau = s.bureau := rfl
@[simp] theorem State.modKlink_pwr (s : State) (k : Nat) (f : KLink → KLink) : (s.modKlink k f).pwr = s.pwr := rfl
@[simp] theorem State.modKlink_outbox (s : State) (k : Nat) (f : KLink → KLink) : (s.modKlink k f).outbox = s.outbox := rfl
@[simp] theorem State.modKlink_free (s : State) (k : Nat) (f : KLink → KLink) : (s.modKlink k f).free = s.free := rfl

/-! ## modKimg -/

@[simp] theorem State.modKimg_pending (s : State) (l : Nat) (f : KImg → KImg) : (s.modKimg l f).pending = s.pending := rfl
@[simp] theorem State.modKimg_sessions (s : State) (l : Nat) (f : KImg → KImg) : (s.modKimg l f).sessions = s.sessions := rfl
@[simp] theorem State.modKimg_readers (s : State) (l : Nat) (f : KImg → KImg) : (s.modKimg l f).readers = s.readers := rfl
@[simp] theorem State.modKimg_smbOff (s : State) (l : Nat) (f : KImg → KImg) : (s.modKimg l f).smbOff = s.smbOff := rfl
@[simp] theorem State.modKimg_tl (s : State) (l : Nat) (f : KImg → KImg) : (s.modKimg l f).tl = s.tl := rfl
@[simp] theorem State.modKimg_period (s : State) (l : Nat) (f : KImg → KImg) : (s.modKimg l f).period = s.period := rfl
@[simp] theorem State.modKimg_stats (s : State) (l : Nat) (f : KImg → KImg) : (s.modKimg l f).stats = s.stats := rfl
@[simp] theorem State.modKimg_quant (s : State) (l : Nat) (f : KImg → KImg) : (s.modKimg l f).quant = s.quant := rfl
@[simp] theorem State.modKimg_cleared (s : State) (l : Nat) (f : KImg → KImg) : (s.modKimg l f).cleared = s.cleared := rfl
@[simp] theorem State.modKimg_fed (s : State) (l : Nat) (f : KImg → KImg) : (s.modKimg l f).fed = s.fed := rfl
@[simp] theorem State.modKimg_cells (s : State) (l : Nat) (f : KImg → KImg) : (s.modKimg l f).cells = s.cells := rfl
@[simp] theorem State.modKimg_resident (s : State) (l : Nat) (f : KImg → KImg) : (s.modKimg l f).resident = s.resident := rfl
@[simp] theorem State.modKimg_rng (s : State) (l : Nat) (f : KImg → KImg) : (s.modKimg l f).rng = s.rng := rfl
@[simp] theorem State.modKimg_image (s : State) (l : Nat) (f : KImg → KImg) : (s.modKimg l f).image = s.image := rfl
@[simp] theorem State.modKimg_scheds (s : State) (l : Nat) (f : KImg → KImg) : (s.modKimg l f).scheds = s.scheds := rfl
@[simp] theorem State.modKimg_stages (s : State) (l : Nat) (f : KImg → KImg) : (s.modKimg l f).stages = s.stages := rfl
@[simp] theorem State.modKimg_admitted (s : State) (l : Nat) (f : KImg → KImg) : (s.modKimg l f).admitted = s.admitted := rfl
@[simp] theorem State.modKimg_orders (s : State) (l : Nat) (f : KImg → KImg) : (s.modKimg l f).orders = s.orders := rfl
@[simp] theorem State.modKimg_bellows (s : State) (l : Nat) (f : KImg → KImg) : (s.modKimg l f).bellows = s.bellows := rfl
@[simp] theorem State.modKimg_streams (s : State) (l : Nat) (f : KImg → KImg) : (s.modKimg l f).streams = s.streams := rfl
@[simp] theorem State.modKimg_queues (s : State) (l : Nat) (f : KImg → KImg) : (s.modKimg l f).queues = s.queues := rfl
@[simp] theorem State.modKimg_profiles (s : State) (l : Nat) (f : KImg → KImg) : (s.modKimg l f).profiles = s.profiles := rfl
@[simp] theorem State.modKimg_profCap (s : State) (l : Nat) (f : KImg → KImg) : (s.modKimg l f).profCap = s.profCap := rfl
@[simp] theorem State.modKimg_txn (s : State) (l : Nat) (f : KImg → KImg) : (s.modKimg l f).txn = s.txn := rfl
@[simp] theorem State.modKimg_mem (s : State) (l : Nat) (f : KImg → KImg) : (s.modKimg l f).mem = s.mem := rfl
@[simp] theorem State.modKimg_prot (s : State) (l : Nat) (f : KImg → KImg) : (s.modKimg l f).prot = s.prot := rfl
@[simp] theorem State.modKimg_tag (s : State) (l : Nat) (f : KImg → KImg) : (s.modKimg l f).tag = s.tag := rfl
@[simp] theorem State.modKimg_eth (s : State) (l : Nat) (f : KImg → KImg) : (s.modKimg l f).eth = s.eth := rfl
@[simp] theorem State.modKimg_saps (s : State) (l : Nat) (f : KImg → KImg) : (s.modKimg l f).saps = s.saps := rfl
@[simp] theorem State.modKimg_wclkEn (s : State) (l : Nat) (f : KImg → KImg) : (s.modKimg l f).wclkEn = s.wclkEn := rfl
@[simp] theorem State.modKimg_sec (s : State) (l : Nat) (f : KImg → KImg) : (s.modKimg l f).sec = s.sec := rfl
@[simp] theorem State.modKimg_bureau (s : State) (l : Nat) (f : KImg → KImg) : (s.modKimg l f).bureau = s.bureau := rfl
@[simp] theorem State.modKimg_pwr (s : State) (l : Nat) (f : KImg → KImg) : (s.modKimg l f).pwr = s.pwr := rfl
@[simp] theorem State.modKimg_outbox (s : State) (l : Nat) (f : KImg → KImg) : (s.modKimg l f).outbox = s.outbox := rfl
@[simp] theorem State.modKimg_free (s : State) (l : Nat) (f : KImg → KImg) : (s.modKimg l f).free = s.free := rfl

/-! ## modSap -/

@[simp] theorem State.modSap_pending (s : State) (n : Nat) (f : Sap → Sap) : (s.modSap n f).pending = s.pending := rfl
@[simp] theorem State.modSap_sessions (s : State) (n : Nat) (f : Sap → Sap) : (s.modSap n f).sessions = s.sessions := rfl
@[simp] theorem State.modSap_readers (s : State) (n : Nat) (f : Sap → Sap) : (s.modSap n f).readers = s.readers := rfl
@[simp] theorem State.modSap_smbOff (s : State) (n : Nat) (f : Sap → Sap) : (s.modSap n f).smbOff = s.smbOff := rfl
@[simp] theorem State.modSap_tl (s : State) (n : Nat) (f : Sap → Sap) : (s.modSap n f).tl = s.tl := rfl
@[simp] theorem State.modSap_period (s : State) (n : Nat) (f : Sap → Sap) : (s.modSap n f).period = s.period := rfl
@[simp] theorem State.modSap_stats (s : State) (n : Nat) (f : Sap → Sap) : (s.modSap n f).stats = s.stats := rfl
@[simp] theorem State.modSap_quant (s : State) (n : Nat) (f : Sap → Sap) : (s.modSap n f).quant = s.quant := rfl
@[simp] theorem State.modSap_cleared (s : State) (n : Nat) (f : Sap → Sap) : (s.modSap n f).cleared = s.cleared := rfl
@[simp] theorem State.modSap_fed (s : State) (n : Nat) (f : Sap → Sap) : (s.modSap n f).fed = s.fed := rfl
@[simp] theorem State.modSap_cells (s : State) (n : Nat) (f : Sap → Sap) : (s.modSap n f).cells = s.cells := rfl
@[simp] theorem State.modSap_resident (s : State) (n : Nat) (f : Sap → Sap) : (s.modSap n f).resident = s.resident := rfl
@[simp] theorem State.modSap_rng (s : State) (n : Nat) (f : Sap → Sap) : (s.modSap n f).rng = s.rng := rfl
@[simp] theorem State.modSap_image (s : State) (n : Nat) (f : Sap → Sap) : (s.modSap n f).image = s.image := rfl
@[simp] theorem State.modSap_scheds (s : State) (n : Nat) (f : Sap → Sap) : (s.modSap n f).scheds = s.scheds := rfl
@[simp] theorem State.modSap_stages (s : State) (n : Nat) (f : Sap → Sap) : (s.modSap n f).stages = s.stages := rfl
@[simp] theorem State.modSap_admitted (s : State) (n : Nat) (f : Sap → Sap) : (s.modSap n f).admitted = s.admitted := rfl
@[simp] theorem State.modSap_orders (s : State) (n : Nat) (f : Sap → Sap) : (s.modSap n f).orders = s.orders := rfl
@[simp] theorem State.modSap_bellows (s : State) (n : Nat) (f : Sap → Sap) : (s.modSap n f).bellows = s.bellows := rfl
@[simp] theorem State.modSap_streams (s : State) (n : Nat) (f : Sap → Sap) : (s.modSap n f).streams = s.streams := rfl
@[simp] theorem State.modSap_queues (s : State) (n : Nat) (f : Sap → Sap) : (s.modSap n f).queues = s.queues := rfl
@[simp] theorem State.modSap_profiles (s : State) (n : Nat) (f : Sap → Sap) : (s.modSap n f).profiles = s.profiles := rfl
@[simp] theorem State.modSap_profCap (s : State) (n : Nat) (f : Sap → Sap) : (s.modSap n f).profCap = s.profCap := rfl
@[simp] theorem State.modSap_txn (s : State) (n : Nat) (f : Sap → Sap) : (s.modSap n f).txn = s.txn := rfl
@[simp] theorem State.modSap_mem (s : State) (n : Nat) (f : Sap → Sap) : (s.modSap n f).mem = s.mem := rfl
@[simp] theorem State.modSap_prot (s : State) (n : Nat) (f : Sap → Sap) : (s.modSap n f).prot = s.prot := rfl
@[simp] theorem State.modSap_tag (s : State) (n : Nat) (f : Sap → Sap) : (s.modSap n f).tag = s.tag := rfl
@[simp] theorem State.modSap_eth (s : State) (n : Nat) (f : Sap → Sap) : (s.modSap n f).eth = s.eth := rfl
@[simp] theorem State.modSap_kl (s : State) (n : Nat) (f : Sap → Sap) : (s.modSap n f).kl = s.kl := rfl
@[simp] theorem State.modSap_wclkEn (s : State) (n : Nat) (f : Sap → Sap) : (s.modSap n f).wclkEn = s.wclkEn := rfl
@[simp] theorem State.modSap_sec (s : State) (n : Nat) (f : Sap → Sap) : (s.modSap n f).sec = s.sec := rfl
@[simp] theorem State.modSap_bureau (s : State) (n : Nat) (f : Sap → Sap) : (s.modSap n f).bureau = s.bureau := rfl
@[simp] theorem State.modSap_pwr (s : State) (n : Nat) (f : Sap → Sap) : (s.modSap n f).pwr = s.pwr := rfl
@[simp] theorem State.modSap_outbox (s : State) (n : Nat) (f : Sap → Sap) : (s.modSap n f).outbox = s.outbox := rfl
@[simp] theorem State.modSap_free (s : State) (n : Nat) (f : Sap → Sap) : (s.modSap n f).free = s.free := rfl

/-! ## modCounts -/

@[simp] theorem State.modCounts_pending (s : State) (t : Nat) (f : ProtCounts → ProtCounts) : (s.modCounts t f).pending = s.pending := rfl
@[simp] theorem State.modCounts_sessions (s : State) (t : Nat) (f : ProtCounts → ProtCounts) : (s.modCounts t f).sessions = s.sessions := rfl
@[simp] theorem State.modCounts_readers (s : State) (t : Nat) (f : ProtCounts → ProtCounts) : (s.modCounts t f).readers = s.readers := rfl
@[simp] theorem State.modCounts_smbOff (s : State) (t : Nat) (f : ProtCounts → ProtCounts) : (s.modCounts t f).smbOff = s.smbOff := rfl
@[simp] theorem State.modCounts_tl (s : State) (t : Nat) (f : ProtCounts → ProtCounts) : (s.modCounts t f).tl = s.tl := rfl
@[simp] theorem State.modCounts_period (s : State) (t : Nat) (f : ProtCounts → ProtCounts) : (s.modCounts t f).period = s.period := rfl
@[simp] theorem State.modCounts_stats (s : State) (t : Nat) (f : ProtCounts → ProtCounts) : (s.modCounts t f).stats = s.stats := rfl
@[simp] theorem State.modCounts_quant (s : State) (t : Nat) (f : ProtCounts → ProtCounts) : (s.modCounts t f).quant = s.quant := rfl
@[simp] theorem State.modCounts_cleared (s : State) (t : Nat) (f : ProtCounts → ProtCounts) : (s.modCounts t f).cleared = s.cleared := rfl
@[simp] theorem State.modCounts_fed (s : State) (t : Nat) (f : ProtCounts → ProtCounts) : (s.modCounts t f).fed = s.fed := rfl
@[simp] theorem State.modCounts_cells (s : State) (t : Nat) (f : ProtCounts → ProtCounts) : (s.modCounts t f).cells = s.cells := rfl
@[simp] theorem State.modCounts_resident (s : State) (t : Nat) (f : ProtCounts → ProtCounts) : (s.modCounts t f).resident = s.resident := rfl
@[simp] theorem State.modCounts_rng (s : State) (t : Nat) (f : ProtCounts → ProtCounts) : (s.modCounts t f).rng = s.rng := rfl
@[simp] theorem State.modCounts_image (s : State) (t : Nat) (f : ProtCounts → ProtCounts) : (s.modCounts t f).image = s.image := rfl
@[simp] theorem State.modCounts_scheds (s : State) (t : Nat) (f : ProtCounts → ProtCounts) : (s.modCounts t f).scheds = s.scheds := rfl
@[simp] theorem State.modCounts_stages (s : State) (t : Nat) (f : ProtCounts → ProtCounts) : (s.modCounts t f).stages = s.stages := rfl
@[simp] theorem State.modCounts_admitted (s : State) (t : Nat) (f : ProtCounts → ProtCounts) : (s.modCounts t f).admitted = s.admitted := rfl
@[simp] theorem State.modCounts_orders (s : State) (t : Nat) (f : ProtCounts → ProtCounts) : (s.modCounts t f).orders = s.orders := rfl
@[simp] theorem State.modCounts_bellows (s : State) (t : Nat) (f : ProtCounts → ProtCounts) : (s.modCounts t f).bellows = s.bellows := rfl
@[simp] theorem State.modCounts_streams (s : State) (t : Nat) (f : ProtCounts → ProtCounts) : (s.modCounts t f).streams = s.streams := rfl
@[simp] theorem State.modCounts_queues (s : State) (t : Nat) (f : ProtCounts → ProtCounts) : (s.modCounts t f).queues = s.queues := rfl
@[simp] theorem State.modCounts_profiles (s : State) (t : Nat) (f : ProtCounts → ProtCounts) : (s.modCounts t f).profiles = s.profiles := rfl
@[simp] theorem State.modCounts_profCap (s : State) (t : Nat) (f : ProtCounts → ProtCounts) : (s.modCounts t f).profCap = s.profCap := rfl
@[simp] theorem State.modCounts_txn (s : State) (t : Nat) (f : ProtCounts → ProtCounts) : (s.modCounts t f).txn = s.txn := rfl
@[simp] theorem State.modCounts_mem (s : State) (t : Nat) (f : ProtCounts → ProtCounts) : (s.modCounts t f).mem = s.mem := rfl
@[simp] theorem State.modCounts_tag (s : State) (t : Nat) (f : ProtCounts → ProtCounts) : (s.modCounts t f).tag = s.tag := rfl
@[simp] theorem State.modCounts_eth (s : State) (t : Nat) (f : ProtCounts → ProtCounts) : (s.modCounts t f).eth = s.eth := rfl
@[simp] theorem State.modCounts_kl (s : State) (t : Nat) (f : ProtCounts → ProtCounts) : (s.modCounts t f).kl = s.kl := rfl
@[simp] theorem State.modCounts_saps (s : State) (t : Nat) (f : ProtCounts → ProtCounts) : (s.modCounts t f).saps = s.saps := rfl
@[simp] theorem State.modCounts_wclkEn (s : State) (t : Nat) (f : ProtCounts → ProtCounts) : (s.modCounts t f).wclkEn = s.wclkEn := rfl
@[simp] theorem State.modCounts_sec (s : State) (t : Nat) (f : ProtCounts → ProtCounts) : (s.modCounts t f).sec = s.sec := rfl
@[simp] theorem State.modCounts_bureau (s : State) (t : Nat) (f : ProtCounts → ProtCounts) : (s.modCounts t f).bureau = s.bureau := rfl
@[simp] theorem State.modCounts_pwr (s : State) (t : Nat) (f : ProtCounts → ProtCounts) : (s.modCounts t f).pwr = s.pwr := rfl
@[simp] theorem State.modCounts_outbox (s : State) (t : Nat) (f : ProtCounts → ProtCounts) : (s.modCounts t f).outbox = s.outbox := rfl
@[simp] theorem State.modCounts_free (s : State) (t : Nat) (f : ProtCounts → ProtCounts) : (s.modCounts t f).free = s.free := rfl

/-! ## setOnPlan -/

@[simp] theorem State.setOnPlan_pending (s : State) (p : Nat) (l : List Nat) : (s.setOnPlan p l).pending = s.pending := rfl
@[simp] theorem State.setOnPlan_sessions (s : State) (p : Nat) (l : List Nat) : (s.setOnPlan p l).sessions = s.sessions := rfl
@[simp] theorem State.setOnPlan_readers (s : State) (p : Nat) (l : List Nat) : (s.setOnPlan p l).readers = s.readers := rfl
@[simp] theorem State.setOnPlan_smbOff (s : State) (p : Nat) (l : List Nat) : (s.setOnPlan p l).smbOff = s.smbOff := rfl
@[simp] theorem State.setOnPlan_tl (s : State) (p : Nat) (l : List Nat) : (s.setOnPlan p l).tl = s.tl := rfl
@[simp] theorem State.setOnPlan_period (s : State) (p : Nat) (l : List Nat) : (s.setOnPlan p l).period = s.period := rfl
@[simp] theorem State.setOnPlan_stats (s : State) (p : Nat) (l : List Nat) : (s.setOnPlan p l).stats = s.stats := rfl
@[simp] theorem State.setOnPlan_quant (s : State) (p : Nat) (l : List Nat) : (s.setOnPlan p l).quant = s.quant := rfl
@[simp] theorem State.setOnPlan_cleared (s : State) (p : Nat) (l : List Nat) : (s.setOnPlan p l).cleared = s.cleared := rfl
@[simp] theorem State.setOnPlan_fed (s : State) (p : Nat) (l : List Nat) : (s.setOnPlan p l).fed = s.fed := rfl
@[simp] theorem State.setOnPlan_cells (s : State) (p : Nat) (l : List Nat) : (s.setOnPlan p l).cells = s.cells := rfl
@[simp] theorem State.setOnPlan_resident (s : State) (p : Nat) (l : List Nat) : (s.setOnPlan p l).resident = s.resident := rfl
@[simp] theorem State.setOnPlan_rng (s : State) (p : Nat) (l : List Nat) : (s.setOnPlan p l).rng = s.rng := rfl
@[simp] theorem State.setOnPlan_image (s : State) (p : Nat) (l : List Nat) : (s.setOnPlan p l).image = s.image := rfl
@[simp] theorem State.setOnPlan_scheds (s : State) (p : Nat) (l : List Nat) : (s.setOnPlan p l).scheds = s.scheds := rfl
@[simp] theorem State.setOnPlan_stages (s : State) (p : Nat) (l : List Nat) : (s.setOnPlan p l).stages = s.stages := rfl
@[simp] theorem State.setOnPlan_orders (s : State) (p : Nat) (l : List Nat) : (s.setOnPlan p l).orders = s.orders := rfl
@[simp] theorem State.setOnPlan_bellows (s : State) (p : Nat) (l : List Nat) : (s.setOnPlan p l).bellows = s.bellows := rfl
@[simp] theorem State.setOnPlan_streams (s : State) (p : Nat) (l : List Nat) : (s.setOnPlan p l).streams = s.streams := rfl
@[simp] theorem State.setOnPlan_queues (s : State) (p : Nat) (l : List Nat) : (s.setOnPlan p l).queues = s.queues := rfl
@[simp] theorem State.setOnPlan_profiles (s : State) (p : Nat) (l : List Nat) : (s.setOnPlan p l).profiles = s.profiles := rfl
@[simp] theorem State.setOnPlan_profCap (s : State) (p : Nat) (l : List Nat) : (s.setOnPlan p l).profCap = s.profCap := rfl
@[simp] theorem State.setOnPlan_txn (s : State) (p : Nat) (l : List Nat) : (s.setOnPlan p l).txn = s.txn := rfl
@[simp] theorem State.setOnPlan_mem (s : State) (p : Nat) (l : List Nat) : (s.setOnPlan p l).mem = s.mem := rfl
@[simp] theorem State.setOnPlan_prot (s : State) (p : Nat) (l : List Nat) : (s.setOnPlan p l).prot = s.prot := rfl
@[simp] theorem State.setOnPlan_tag (s : State) (p : Nat) (l : List Nat) : (s.setOnPlan p l).tag = s.tag := rfl
@[simp] theorem State.setOnPlan_eth (s : State) (p : Nat) (l : List Nat) : (s.setOnPlan p l).eth = s.eth := rfl
@[simp] theorem State.setOnPlan_kl (s : State) (p : Nat) (l : List Nat) : (s.setOnPlan p l).kl = s.kl := rfl
@[simp] theorem State.setOnPlan_saps (s : State) (p : Nat) (l : List Nat) : (s.setOnPlan p l).saps = s.saps := rfl
@[simp] theorem State.setOnPlan_wclkEn (s : State) (p : Nat) (l : List Nat) : (s.setOnPlan p l).wclkEn = s.wclkEn := rfl
@[simp] theorem State.setOnPlan_sec (s : State) (p : Nat) (l : List Nat) : (s.setOnPlan p l).sec = s.sec := rfl
@[simp] theorem State.setOnPlan_bureau (s : State) (p : Nat) (l : List Nat) : (s.setOnPlan p l).bureau = s.bureau := rfl
@[simp] theorem State.setOnPlan_pwr (s : State) (p : Nat) (l : List Nat) : (s.setOnPlan p l).pwr = s.pwr := rfl
@[simp] theorem State.setOnPlan_outbox (s : State) (p : Nat) (l : List Nat) : (s.setOnPlan p l).outbox = s.outbox := rfl
@[simp] theorem State.setOnPlan_free (s : State) (p : Nat) (l : List Nat) : (s.setOnPlan p l).free = s.free := rfl

/-! ## modLive -/

@[simp] theorem State.modLive_pending (s : State) (f : StatCounts → StatCounts) : (s.modLive f).pending = s.pending := rfl
@[simp] theorem State.modLive_sessions (s : State) (f : StatCounts → StatCounts) : (s.modLive f).sessions = s.sessions := rfl
@[simp] theorem State.modLive_readers (s : State) (f : StatCounts → StatCounts) : (s.modLive f).readers = s.readers := rfl
@[simp] theorem State.modLive_smbOff (s : State) (f : StatCounts → StatCounts) : (s.modLive f).smbOff = s.smbOff := rfl
@[simp] theorem State.modLive_tl (s : State) (f : StatCounts → StatCounts) : (s.modLive f).tl = s.tl := rfl
@[simp] theorem State.modLive_period (s : State) (f : StatCounts → StatCounts) : (s.modLive f).period = s.period := rfl
@[simp] theorem State.modLive_quant (s : State) (f : StatCounts → StatCounts) : (s.modLive f).quant = s.quant := rfl
@[simp] theorem State.modLive_cleared (s : State) (f : StatCounts → StatCounts) : (s.modLive f).cleared = s.cleared := rfl
@[simp] theorem State.modLive_fed (s : State) (f : StatCounts → StatCounts) : (s.modLive f).fed = s.fed := rfl
@[simp] theorem State.modLive_cells (s : State) (f : StatCounts → StatCounts) : (s.modLive f).cells = s.cells := rfl
@[simp] theorem State.modLive_resident (s : State) (f : StatCounts → StatCounts) : (s.modLive f).resident = s.resident := rfl
@[simp] theorem State.modLive_rng (s : State) (f : StatCounts → StatCounts) : (s.modLive f).rng = s.rng := rfl
@[simp] theorem State.modLive_image (s : State) (f : StatCounts → StatCounts) : (s.modLive f).image = s.image := rfl
@[simp] theorem State.modLive_scheds (s : State) (f : StatCounts → StatCounts) : (s.modLive f).scheds = s.scheds := rfl
@[simp] theorem State.modLive_stages (s : State) (f : StatCounts → StatCounts) : (s.modLive f).stages = s.stages := rfl
@[simp] theorem State.modLive_admitted (s : State) (f : StatCounts → StatCounts) : (s.modLive f).admitted = s.admitted := rfl
@[simp] theorem State.modLive_orders (s : State) (f : StatCounts → StatCounts) : (s.modLive f).orders = s.orders := rfl
@[simp] theorem State.modLive_bellows (s : State) (f : StatCounts → StatCounts) : (s.modLive f).bellows = s.bellows := rfl
@[simp] theorem State.modLive_streams (s : State) (f : StatCounts → StatCounts) : (s.modLive f).streams = s.streams := rfl
@[simp] theorem State.modLive_queues (s : State) (f : StatCounts → StatCounts) : (s.modLive f).queues = s.queues := rfl
@[simp] theorem State.modLive_profiles (s : State) (f : StatCounts → StatCounts) : (s.modLive f).profiles = s.profiles := rfl
@[simp] theorem State.modLive_profCap (s : State) (f : StatCounts → StatCounts) : (s.modLive f).profCap = s.profCap := rfl
@[simp] theorem State.modLive_txn (s : State) (f : StatCounts → StatCounts) : (s.modLive f).txn = s.txn := rfl
@[simp] theorem State.modLive_mem (s : State) (f : StatCounts → StatCounts) : (s.modLive f).mem = s.mem := rfl
@[simp] theorem State.modLive_prot (s : State) (f : StatCounts → StatCounts) : (s.modLive f).prot = s.prot := rfl
@[simp] theorem State.modLive_tag (s : State) (f : StatCounts → StatCounts) : (s.modLive f).tag = s.tag := rfl
@[simp] theorem State.modLive_eth (s : State) (f : StatCounts → StatCounts) : (s.modLive f).eth = s.eth := rfl
@[simp] theorem State.modLive_kl (s : State) (f : StatCounts → StatCounts) : (s.modLive f).kl = s.kl := rfl
@[simp] theorem State.modLive_saps (s : State) (f : StatCounts → StatCounts) : (s.modLive f).saps = s.saps := rfl
@[simp] theorem State.modLive_wclkEn (s : State) (f : StatCounts → StatCounts) : (s.modLive f).wclkEn = s.wclkEn := rfl
@[simp] theorem State.modLive_sec (s : State) (f : StatCounts → StatCounts) : (s.modLive f).sec = s.sec := rfl
@[simp] theorem State.modLive_bureau (s : State) (f : StatCounts → StatCounts) : (s.modLive f).bureau = s.bureau := rfl
@[simp] theorem State.modLive_pwr (s : State) (f : StatCounts → StatCounts) : (s.modLive f).pwr = s.pwr := rfl
@[simp] theorem State.modLive_outbox (s : State) (f : StatCounts → StatCounts) : (s.modLive f).outbox = s.outbox := rfl
@[simp] theorem State.modLive_free (s : State) (f : StatCounts → StatCounts) : (s.modLive f).free = s.free := rfl

/-! ## modEth -/

@[simp] theorem State.modEth_pending (s : State) (f : Eth → Eth) : (s.modEth f).pending = s.pending := rfl
@[simp] theorem State.modEth_sessions (s : State) (f : Eth → Eth) : (s.modEth f).sessions = s.sessions := rfl
@[simp] theorem State.modEth_readers (s : State) (f : Eth → Eth) : (s.modEth f).readers = s.readers := rfl
@[simp] theorem State.modEth_smbOff (s : State) (f : Eth → Eth) : (s.modEth f).smbOff = s.smbOff := rfl
@[simp] theorem State.modEth_tl (s : State) (f : Eth → Eth) : (s.modEth f).tl = s.tl := rfl
@[simp] theorem State.modEth_period (s : State) (f : Eth → Eth) : (s.modEth f).period = s.period := rfl
@[simp] theorem State.modEth_stats (s : State) (f : Eth → Eth) : (s.modEth f).stats = s.stats := rfl
@[simp] theorem State.modEth_quant (s : State) (f : Eth → Eth) : (s.modEth f).quant = s.quant := rfl
@[simp] theorem State.modEth_cleared (s : State) (f : Eth → Eth) : (s.modEth f).cleared = s.cleared := rfl
@[simp] theorem State.modEth_fed (s : State) (f : Eth → Eth) : (s.modEth f).fed = s.fed := rfl
@[simp] theorem State.modEth_cells (s : State) (f : Eth → Eth) : (s.modEth f).cells = s.cells := rfl
@[simp] theorem State.modEth_resident (s : State) (f : Eth → Eth) : (s.modEth f).resident = s.resident := rfl
@[simp] theorem State.modEth_rng (s : State) (f : Eth → Eth) : (s.modEth f).rng = s.rng := rfl
@[simp] theorem State.modEth_image (s : State) (f : Eth → Eth) : (s.modEth f).image = s.image := rfl
@[simp] theorem State.modEth_scheds (s : State) (f : Eth → Eth) : (s.modEth f).scheds = s.scheds := rfl
@[simp] theorem State.modEth_stages (s : State) (f : Eth → Eth) : (s.modEth f).stages = s.stages := rfl
@[simp] theorem State.modEth_admitted (s : State) (f : Eth → Eth) : (s.modEth f).admitted = s.admitted := rfl
@[simp] theorem State.modEth_orders (s : State) (f : Eth → Eth) : (s.modEth f).orders = s.orders := rfl
@[simp] theorem State.modEth_bellows (s : State) (f : Eth → Eth) : (s.modEth f).bellows = s.bellows := rfl
@[simp] theorem State.modEth_streams (s : State) (f : Eth → Eth) : (s.modEth f).streams = s.streams := rfl
@[simp] theorem State.modEth_queues (s : State) (f : Eth → Eth) : (s.modEth f).queues = s.queues := rfl
@[simp] theorem State.modEth_profiles (s : State) (f : Eth → Eth) : (s.modEth f).profiles = s.profiles := rfl
@[simp] theorem State.modEth_profCap (s : State) (f : Eth → Eth) : (s.modEth f).profCap = s.profCap := rfl
@[simp] theorem State.modEth_txn (s : State) (f : Eth → Eth) : (s.modEth f).txn = s.txn := rfl
@[simp] theorem State.modEth_mem (s : State) (f : Eth → Eth) : (s.modEth f).mem = s.mem := rfl
@[simp] theorem State.modEth_prot (s : State) (f : Eth → Eth) : (s.modEth f).prot = s.prot := rfl
@[simp] theorem State.modEth_tag (s : State) (f : Eth → Eth) : (s.modEth f).tag = s.tag := rfl
@[simp] theorem State.modEth_kl (s : State) (f : Eth → Eth) : (s.modEth f).kl = s.kl := rfl
@[simp] theorem State.modEth_saps (s : State) (f : Eth → Eth) : (s.modEth f).saps = s.saps := rfl
@[simp] theorem State.modEth_wclkEn (s : State) (f : Eth → Eth) : (s.modEth f).wclkEn = s.wclkEn := rfl
@[simp] theorem State.modEth_sec (s : State) (f : Eth → Eth) : (s.modEth f).sec = s.sec := rfl
@[simp] theorem State.modEth_bureau (s : State) (f : Eth → Eth) : (s.modEth f).bureau = s.bureau := rfl
@[simp] theorem State.modEth_pwr (s : State) (f : Eth → Eth) : (s.modEth f).pwr = s.pwr := rfl
@[simp] theorem State.modEth_outbox (s : State) (f : Eth → Eth) : (s.modEth f).outbox = s.outbox := rfl
@[simp] theorem State.modEth_free (s : State) (f : Eth → Eth) : (s.modEth f).free = s.free := rfl
@[simp] theorem State.modEth_eth (s : State) (f : Eth → Eth) : (s.modEth f).eth = f s.eth := rfl

/-! ## modMacsec -/

@[simp] theorem State.modMacsec_pending (s : State) (f : Macsec → Macsec) : (s.modMacsec f).pending = s.pending := rfl
@[simp] theorem State.modMacsec_sessions (s : State) (f : Macsec → Macsec) : (s.modMacsec f).sessions = s.sessions := rfl
@[simp] theorem State.modMacsec_readers (s : State) (f : Macsec → Macsec) : (s.modMacsec f).readers = s.readers := rfl
@[simp] theorem State.modMacsec_smbOff (s : State) (f : Macsec → Macsec) : (s.modMacsec f).smbOff = s.smbOff := rfl
@[simp] theorem State.modMacsec_tl (s : State) (f : Macsec → Macsec) : (s.modMacsec f).tl = s.tl := rfl
@[simp] theorem State.modMacsec_period (s : State) (f : Macsec → Macsec) : (s.modMacsec f).period = s.period := rfl
@[simp] theorem State.modMacsec_stats (s : State) (f : Macsec → Macsec) : (s.modMacsec f).stats = s.stats := rfl
@[simp] theorem State.modMacsec_quant (s : State) (f : Macsec → Macsec) : (s.modMacsec f).quant = s.quant := rfl
@[simp] theorem State.modMacsec_cleared (s : State) (f : Macsec → Macsec) : (s.modMacsec f).cleared = s.cleared := rfl
@[simp] theorem State.modMacsec_fed (s : State) (f : Macsec → Macsec) : (s.modMacsec f).fed = s.fed := rfl
@[simp] theorem State.modMacsec_cells (s : State) (f : Macsec → Macsec) : (s.modMacsec f).cells = s.cells := rfl
@[simp] theorem State.modMacsec_resident (s : State) (f : Macsec → Macsec) : (s.modMacsec f).resident = s.resident := rfl
@[simp] theorem State.modMacsec_rng (s : State) (f : Macsec → Macsec) : (s.modMacsec f).rng = s.rng := rfl
@[simp] theorem State.modMacsec_image (s : State) (f : Macsec → Macsec) : (s.modMacsec f).image = s.image := rfl
@[simp] theorem State.modMacsec_scheds (s : State) (f : Macsec → Macsec) : (s.modMacsec f).scheds = s.scheds := rfl
@[simp] theorem State.modMacsec_stages (s : State) (f : Macsec → Macsec) : (s.modMacsec f).stages = s.stages := rfl
@[simp] theorem State.modMacsec_admitted (s : State) (f : Macsec → Macsec) : (s.modMacsec f).admitted = s.admitted := rfl
@[simp] theorem State.modMacsec_orders (s : State) (f : Macsec → Macsec) : (s.modMacsec f).orders = s.orders := rfl
@[simp] theorem State.modMacsec_bellows (s : State) (f : Macsec → Macsec) : (s.modMacsec f).bellows = s.bellows := rfl
@[simp] theorem State.modMacsec_streams (s : State) (f : Macsec → Macsec) : (s.modMacsec f).streams = s.streams := rfl
@[simp] theorem State.modMacsec_queues (s : State) (f : Macsec → Macsec) : (s.modMacsec f).queues = s.queues := rfl
@[simp] theorem State.modMacsec_profiles (s : State) (f : Macsec → Macsec) : (s.modMacsec f).profiles = s.profiles := rfl
@[simp] theorem State.modMacsec_profCap (s : State) (f : Macsec → Macsec) : (s.modMacsec f).profCap = s.profCap := rfl
@[simp] theorem State.modMacsec_txn (s : State) (f : Macsec → Macsec) : (s.modMacsec f).txn = s.txn := rfl
@[simp] theorem State.modMacsec_mem (s : State) (f : Macsec → Macsec) : (s.modMacsec f).mem = s.mem := rfl
@[simp] theorem State.modMacsec_prot (s : State) (f : Macsec → Macsec) : (s.modMacsec f).prot = s.prot := rfl
@[simp] theorem State.modMacsec_tag (s : State) (f : Macsec → Macsec) : (s.modMacsec f).tag = s.tag := rfl
@[simp] theorem State.modMacsec_kl (s : State) (f : Macsec → Macsec) : (s.modMacsec f).kl = s.kl := rfl
@[simp] theorem State.modMacsec_saps (s : State) (f : Macsec → Macsec) : (s.modMacsec f).saps = s.saps := rfl
@[simp] theorem State.modMacsec_wclkEn (s : State) (f : Macsec → Macsec) : (s.modMacsec f).wclkEn = s.wclkEn := rfl
@[simp] theorem State.modMacsec_sec (s : State) (f : Macsec → Macsec) : (s.modMacsec f).sec = s.sec := rfl
@[simp] theorem State.modMacsec_bureau (s : State) (f : Macsec → Macsec) : (s.modMacsec f).bureau = s.bureau := rfl
@[simp] theorem State.modMacsec_pwr (s : State) (f : Macsec → Macsec) : (s.modMacsec f).pwr = s.pwr := rfl
@[simp] theorem State.modMacsec_outbox (s : State) (f : Macsec → Macsec) : (s.modMacsec f).outbox = s.outbox := rfl
@[simp] theorem State.modMacsec_free (s : State) (f : Macsec → Macsec) : (s.modMacsec f).free = s.free := rfl

/-! ## modBureau -/

@[simp] theorem State.modBureau_pending (s : State) (f : Bureau → Bureau) : (s.modBureau f).pending = s.pending := rfl
@[simp] theorem State.modBureau_sessions (s : State) (f : Bureau → Bureau) : (s.modBureau f).sessions = s.sessions := rfl
@[simp] theorem State.modBureau_readers (s : State) (f : Bureau → Bureau) : (s.modBureau f).readers = s.readers := rfl
@[simp] theorem State.modBureau_smbOff (s : State) (f : Bureau → Bureau) : (s.modBureau f).smbOff = s.smbOff := rfl
@[simp] theorem State.modBureau_tl (s : State) (f : Bureau → Bureau) : (s.modBureau f).tl = s.tl := rfl
@[simp] theorem State.modBureau_period (s : State) (f : Bureau → Bureau) : (s.modBureau f).period = s.period := rfl
@[simp] theorem State.modBureau_stats (s : State) (f : Bureau → Bureau) : (s.modBureau f).stats = s.stats := rfl
@[simp] theorem State.modBureau_quant (s : State) (f : Bureau → Bureau) : (s.modBureau f).quant = s.quant := rfl
@[simp] theorem State.modBureau_cleared (s : State) (f : Bureau → Bureau) : (s.modBureau f).cleared = s.cleared := rfl
@[simp] theorem State.modBureau_fed (s : State) (f : Bureau → Bureau) : (s.modBureau f).fed = s.fed := rfl
@[simp] theorem State.modBureau_cells (s : State) (f : Bureau → Bureau) : (s.modBureau f).cells = s.cells := rfl
@[simp] theorem State.modBureau_resident (s : State) (f : Bureau → Bureau) : (s.modBureau f).resident = s.resident := rfl
@[simp] theorem State.modBureau_rng (s : State) (f : Bureau → Bureau) : (s.modBureau f).rng = s.rng := rfl
@[simp] theorem State.modBureau_image (s : State) (f : Bureau → Bureau) : (s.modBureau f).image = s.image := rfl
@[simp] theorem State.modBureau_scheds (s : State) (f : Bureau → Bureau) : (s.modBureau f).scheds = s.scheds := rfl
@[simp] theorem State.modBureau_stages (s : State) (f : Bureau → Bureau) : (s.modBureau f).stages = s.stages := rfl
@[simp] theorem State.modBureau_admitted (s : State) (f : Bureau → Bureau) : (s.modBureau f).admitted = s.admitted := rfl
@[simp] theorem State.modBureau_orders (s : State) (f : Bureau → Bureau) : (s.modBureau f).orders = s.orders := rfl
@[simp] theorem State.modBureau_bellows (s : State) (f : Bureau → Bureau) : (s.modBureau f).bellows = s.bellows := rfl
@[simp] theorem State.modBureau_streams (s : State) (f : Bureau → Bureau) : (s.modBureau f).streams = s.streams := rfl
@[simp] theorem State.modBureau_queues (s : State) (f : Bureau → Bureau) : (s.modBureau f).queues = s.queues := rfl
@[simp] theorem State.modBureau_profiles (s : State) (f : Bureau → Bureau) : (s.modBureau f).profiles = s.profiles := rfl
@[simp] theorem State.modBureau_profCap (s : State) (f : Bureau → Bureau) : (s.modBureau f).profCap = s.profCap := rfl
@[simp] theorem State.modBureau_txn (s : State) (f : Bureau → Bureau) : (s.modBureau f).txn = s.txn := rfl
@[simp] theorem State.modBureau_mem (s : State) (f : Bureau → Bureau) : (s.modBureau f).mem = s.mem := rfl
@[simp] theorem State.modBureau_prot (s : State) (f : Bureau → Bureau) : (s.modBureau f).prot = s.prot := rfl
@[simp] theorem State.modBureau_tag (s : State) (f : Bureau → Bureau) : (s.modBureau f).tag = s.tag := rfl
@[simp] theorem State.modBureau_eth (s : State) (f : Bureau → Bureau) : (s.modBureau f).eth = s.eth := rfl
@[simp] theorem State.modBureau_kl (s : State) (f : Bureau → Bureau) : (s.modBureau f).kl = s.kl := rfl
@[simp] theorem State.modBureau_saps (s : State) (f : Bureau → Bureau) : (s.modBureau f).saps = s.saps := rfl
@[simp] theorem State.modBureau_wclkEn (s : State) (f : Bureau → Bureau) : (s.modBureau f).wclkEn = s.wclkEn := rfl
@[simp] theorem State.modBureau_sec (s : State) (f : Bureau → Bureau) : (s.modBureau f).sec = s.sec := rfl
@[simp] theorem State.modBureau_pwr (s : State) (f : Bureau → Bureau) : (s.modBureau f).pwr = s.pwr := rfl
@[simp] theorem State.modBureau_outbox (s : State) (f : Bureau → Bureau) : (s.modBureau f).outbox = s.outbox := rfl
@[simp] theorem State.modBureau_free (s : State) (f : Bureau → Bureau) : (s.modBureau f).free = s.free := rfl
@[simp] theorem State.modBureau_bureau (s : State) (f : Bureau → Bureau) : (s.modBureau f).bureau = f s.bureau := rfl

/-! ## modMem -/

@[simp] theorem State.modMem_pending (s : State) (f : Mem → Mem) : (s.modMem f).pending = s.pending := rfl
@[simp] theorem State.modMem_sessions (s : State) (f : Mem → Mem) : (s.modMem f).sessions = s.sessions := rfl
@[simp] theorem State.modMem_readers (s : State) (f : Mem → Mem) : (s.modMem f).readers = s.readers := rfl
@[simp] theorem State.modMem_smbOff (s : State) (f : Mem → Mem) : (s.modMem f).smbOff = s.smbOff := rfl
@[simp] theorem State.modMem_tl (s : State) (f : Mem → Mem) : (s.modMem f).tl = s.tl := rfl
@[simp] theorem State.modMem_period (s : State) (f : Mem → Mem) : (s.modMem f).period = s.period := rfl
@[simp] theorem State.modMem_stats (s : State) (f : Mem → Mem) : (s.modMem f).stats = s.stats := rfl
@[simp] theorem State.modMem_quant (s : State) (f : Mem → Mem) : (s.modMem f).quant = s.quant := rfl
@[simp] theorem State.modMem_cleared (s : State) (f : Mem → Mem) : (s.modMem f).cleared = s.cleared := rfl
@[simp] theorem State.modMem_fed (s : State) (f : Mem → Mem) : (s.modMem f).fed = s.fed := rfl
@[simp] theorem State.modMem_cells (s : State) (f : Mem → Mem) : (s.modMem f).cells = s.cells := rfl
@[simp] theorem State.modMem_resident (s : State) (f : Mem → Mem) : (s.modMem f).resident = s.resident := rfl
@[simp] theorem State.modMem_rng (s : State) (f : Mem → Mem) : (s.modMem f).rng = s.rng := rfl
@[simp] theorem State.modMem_image (s : State) (f : Mem → Mem) : (s.modMem f).image = s.image := rfl
@[simp] theorem State.modMem_scheds (s : State) (f : Mem → Mem) : (s.modMem f).scheds = s.scheds := rfl
@[simp] theorem State.modMem_stages (s : State) (f : Mem → Mem) : (s.modMem f).stages = s.stages := rfl
@[simp] theorem State.modMem_admitted (s : State) (f : Mem → Mem) : (s.modMem f).admitted = s.admitted := rfl
@[simp] theorem State.modMem_orders (s : State) (f : Mem → Mem) : (s.modMem f).orders = s.orders := rfl
@[simp] theorem State.modMem_bellows (s : State) (f : Mem → Mem) : (s.modMem f).bellows = s.bellows := rfl
@[simp] theorem State.modMem_streams (s : State) (f : Mem → Mem) : (s.modMem f).streams = s.streams := rfl
@[simp] theorem State.modMem_queues (s : State) (f : Mem → Mem) : (s.modMem f).queues = s.queues := rfl
@[simp] theorem State.modMem_profiles (s : State) (f : Mem → Mem) : (s.modMem f).profiles = s.profiles := rfl
@[simp] theorem State.modMem_profCap (s : State) (f : Mem → Mem) : (s.modMem f).profCap = s.profCap := rfl
@[simp] theorem State.modMem_txn (s : State) (f : Mem → Mem) : (s.modMem f).txn = s.txn := rfl
@[simp] theorem State.modMem_prot (s : State) (f : Mem → Mem) : (s.modMem f).prot = s.prot := rfl
@[simp] theorem State.modMem_tag (s : State) (f : Mem → Mem) : (s.modMem f).tag = s.tag := rfl
@[simp] theorem State.modMem_eth (s : State) (f : Mem → Mem) : (s.modMem f).eth = s.eth := rfl
@[simp] theorem State.modMem_kl (s : State) (f : Mem → Mem) : (s.modMem f).kl = s.kl := rfl
@[simp] theorem State.modMem_saps (s : State) (f : Mem → Mem) : (s.modMem f).saps = s.saps := rfl
@[simp] theorem State.modMem_wclkEn (s : State) (f : Mem → Mem) : (s.modMem f).wclkEn = s.wclkEn := rfl
@[simp] theorem State.modMem_sec (s : State) (f : Mem → Mem) : (s.modMem f).sec = s.sec := rfl
@[simp] theorem State.modMem_bureau (s : State) (f : Mem → Mem) : (s.modMem f).bureau = s.bureau := rfl
@[simp] theorem State.modMem_pwr (s : State) (f : Mem → Mem) : (s.modMem f).pwr = s.pwr := rfl
@[simp] theorem State.modMem_outbox (s : State) (f : Mem → Mem) : (s.modMem f).outbox = s.outbox := rfl
@[simp] theorem State.modMem_free (s : State) (f : Mem → Mem) : (s.modMem f).free = s.free := rfl
@[simp] theorem State.modMem_mem (s : State) (f : Mem → Mem) : (s.modMem f).mem = f s.mem := rfl

/-! ## setTier -/

@[simp] theorem State.setTier_pending (s : State) (t : Nat) (x : Tier) : (s.setTier t x).pending = s.pending := rfl
@[simp] theorem State.setTier_sessions (s : State) (t : Nat) (x : Tier) : (s.setTier t x).sessions = s.sessions := rfl
@[simp] theorem State.setTier_readers (s : State) (t : Nat) (x : Tier) : (s.setTier t x).readers = s.readers := rfl
@[simp] theorem State.setTier_smbOff (s : State) (t : Nat) (x : Tier) : (s.setTier t x).smbOff = s.smbOff := rfl
@[simp] theorem State.setTier_tl (s : State) (t : Nat) (x : Tier) : (s.setTier t x).tl = s.tl := rfl
@[simp] theorem State.setTier_period (s : State) (t : Nat) (x : Tier) : (s.setTier t x).period = s.period := rfl
@[simp] theorem State.setTier_stats (s : State) (t : Nat) (x : Tier) : (s.setTier t x).stats = s.stats := rfl
@[simp] theorem State.setTier_quant (s : State) (t : Nat) (x : Tier) : (s.setTier t x).quant = s.quant := rfl
@[simp] theorem State.setTier_cleared (s : State) (t : Nat) (x : Tier) : (s.setTier t x).cleared = s.cleared := rfl
@[simp] theorem State.setTier_fed (s : State) (t : Nat) (x : Tier) : (s.setTier t x).fed = s.fed := rfl
@[simp] theorem State.setTier_cells (s : State) (t : Nat) (x : Tier) : (s.setTier t x).cells = s.cells := rfl
@[simp] theorem State.setTier_resident (s : State) (t : Nat) (x : Tier) : (s.setTier t x).resident = s.resident := rfl
@[simp] theorem State.setTier_rng (s : State) (t : Nat) (x : Tier) : (s.setTier t x).rng = s.rng := rfl
@[simp] theorem State.setTier_image (s : State) (t : Nat) (x : Tier) : (s.setTier t x).image = s.image := rfl
@[simp] theorem State.setTier_scheds (s : State) (t : Nat) (x : Tier) : (s.setTier t x).scheds = s.scheds := rfl
@[simp] theorem State.setTier_stages (s : State) (t : Nat) (x : Tier) : (s.setTier t x).stages = s.stages := rfl
@[simp] theorem State.setTier_admitted (s : State) (t : Nat) (x : Tier) : (s.setTier t x).admitted = s.admitted := rfl
@[simp] theorem State.setTier_orders (s : State) (t : Nat) (x : Tier) : (s.setTier t x).orders = s.orders := rfl
@[simp] theorem State.setTier_bellows (s : State) (t : Nat) (x : Tier) : (s.setTier t x).bellows = s.bellows := rfl
@[simp] theorem State.setTier_streams (s : State) (t : Nat) (x : Tier) : (s.setTier t x).streams = s.streams := rfl
@[simp] theorem State.setTier_queues (s : State) (t : Nat) (x : Tier) : (s.setTier t x).queues = s.queues := rfl
@[simp] theorem State.setTier_profiles (s : State) (t : Nat) (x : Tier) : (s.setTier t x).profiles = s.profiles := rfl
@[simp] theorem State.setTier_profCap (s : State) (t : Nat) (x : Tier) : (s.setTier t x).profCap = s.profCap := rfl
@[simp] theorem State.setTier_txn (s : State) (t : Nat) (x : Tier) : (s.setTier t x).txn = s.txn := rfl
@[simp] theorem State.setTier_prot (s : State) (t : Nat) (x : Tier) : (s.setTier t x).prot = s.prot := rfl
@[simp] theorem State.setTier_tag (s : State) (t : Nat) (x : Tier) : (s.setTier t x).tag = s.tag := rfl
@[simp] theorem State.setTier_eth (s : State) (t : Nat) (x : Tier) : (s.setTier t x).eth = s.eth := rfl
@[simp] theorem State.setTier_kl (s : State) (t : Nat) (x : Tier) : (s.setTier t x).kl = s.kl := rfl
@[simp] theorem State.setTier_saps (s : State) (t : Nat) (x : Tier) : (s.setTier t x).saps = s.saps := rfl
@[simp] theorem State.setTier_wclkEn (s : State) (t : Nat) (x : Tier) : (s.setTier t x).wclkEn = s.wclkEn := rfl
@[simp] theorem State.setTier_sec (s : State) (t : Nat) (x : Tier) : (s.setTier t x).sec = s.sec := rfl
@[simp] theorem State.setTier_bureau (s : State) (t : Nat) (x : Tier) : (s.setTier t x).bureau = s.bureau := rfl
@[simp] theorem State.setTier_pwr (s : State) (t : Nat) (x : Tier) : (s.setTier t x).pwr = s.pwr := rfl
@[simp] theorem State.setTier_outbox (s : State) (t : Nat) (x : Tier) : (s.setTier t x).outbox = s.outbox := rfl
@[simp] theorem State.setTier_free (s : State) (t : Nat) (x : Tier) : (s.setTier t x).free = s.free := rfl

/-! ## modDev -/

@[simp] theorem State.modDev_pending (s : State) (k : Nat) (f : MemDev → MemDev) : (s.modDev k f).pending = s.pending := rfl
@[simp] theorem State.modDev_sessions (s : State) (k : Nat) (f : MemDev → MemDev) : (s.modDev k f).sessions = s.sessions := rfl
@[simp] theorem State.modDev_readers (s : State) (k : Nat) (f : MemDev → MemDev) : (s.modDev k f).readers = s.readers := rfl
@[simp] theorem State.modDev_smbOff (s : State) (k : Nat) (f : MemDev → MemDev) : (s.modDev k f).smbOff = s.smbOff := rfl
@[simp] theorem State.modDev_tl (s : State) (k : Nat) (f : MemDev → MemDev) : (s.modDev k f).tl = s.tl := rfl
@[simp] theorem State.modDev_period (s : State) (k : Nat) (f : MemDev → MemDev) : (s.modDev k f).period = s.period := rfl
@[simp] theorem State.modDev_stats (s : State) (k : Nat) (f : MemDev → MemDev) : (s.modDev k f).stats = s.stats := rfl
@[simp] theorem State.modDev_quant (s : State) (k : Nat) (f : MemDev → MemDev) : (s.modDev k f).quant = s.quant := rfl
@[simp] theorem State.modDev_cleared (s : State) (k : Nat) (f : MemDev → MemDev) : (s.modDev k f).cleared = s.cleared := rfl
@[simp] theorem State.modDev_fed (s : State) (k : Nat) (f : MemDev → MemDev) : (s.modDev k f).fed = s.fed := rfl
@[simp] theorem State.modDev_cells (s : State) (k : Nat) (f : MemDev → MemDev) : (s.modDev k f).cells = s.cells := rfl
@[simp] theorem State.modDev_resident (s : State) (k : Nat) (f : MemDev → MemDev) : (s.modDev k f).resident = s.resident := rfl
@[simp] theorem State.modDev_rng (s : State) (k : Nat) (f : MemDev → MemDev) : (s.modDev k f).rng = s.rng := rfl
@[simp] theorem State.modDev_image (s : State) (k : Nat) (f : MemDev → MemDev) : (s.modDev k f).image = s.image := rfl
@[simp] theorem State.modDev_scheds (s : State) (k : Nat) (f : MemDev → MemDev) : (s.modDev k f).scheds = s.scheds := rfl
@[simp] theorem State.modDev_stages (s : State) (k : Nat) (f : MemDev → MemDev) : (s.modDev k f).stages = s.stages := rfl
@[simp] theorem State.modDev_admitted (s : State) (k : Nat) (f : MemDev → MemDev) : (s.modDev k f).admitted = s.admitted := rfl
@[simp] theorem State.modDev_orders (s : State) (k : Nat) (f : MemDev → MemDev) : (s.modDev k f).orders = s.orders := rfl
@[simp] theorem State.modDev_bellows (s : State) (k : Nat) (f : MemDev → MemDev) : (s.modDev k f).bellows = s.bellows := rfl
@[simp] theorem State.modDev_streams (s : State) (k : Nat) (f : MemDev → MemDev) : (s.modDev k f).streams = s.streams := rfl
@[simp] theorem State.modDev_queues (s : State) (k : Nat) (f : MemDev → MemDev) : (s.modDev k f).queues = s.queues := rfl
@[simp] theorem State.modDev_profiles (s : State) (k : Nat) (f : MemDev → MemDev) : (s.modDev k f).profiles = s.profiles := rfl
@[simp] theorem State.modDev_profCap (s : State) (k : Nat) (f : MemDev → MemDev) : (s.modDev k f).profCap = s.profCap := rfl
@[simp] theorem State.modDev_txn (s : State) (k : Nat) (f : MemDev → MemDev) : (s.modDev k f).txn = s.txn := rfl
@[simp] theorem State.modDev_mem (s : State) (k : Nat) (f : MemDev → MemDev) : (s.modDev k f).mem = s.mem := rfl
@[simp] theorem State.modDev_tag (s : State) (k : Nat) (f : MemDev → MemDev) : (s.modDev k f).tag = s.tag := rfl
@[simp] theorem State.modDev_eth (s : State) (k : Nat) (f : MemDev → MemDev) : (s.modDev k f).eth = s.eth := rfl
@[simp] theorem State.modDev_kl (s : State) (k : Nat) (f : MemDev → MemDev) : (s.modDev k f).kl = s.kl := rfl
@[simp] theorem State.modDev_saps (s : State) (k : Nat) (f : MemDev → MemDev) : (s.modDev k f).saps = s.saps := rfl
@[simp] theorem State.modDev_wclkEn (s : State) (k : Nat) (f : MemDev → MemDev) : (s.modDev k f).wclkEn = s.wclkEn := rfl
@[simp] theorem State.modDev_sec (s : State) (k : Nat) (f : MemDev → MemDev) : (s.modDev k f).sec = s.sec := rfl
@[simp] theorem State.modDev_bureau (s : State) (k : Nat) (f : MemDev → MemDev) : (s.modDev k f).bureau = s.bureau := rfl
@[simp] theorem State.modDev_pwr (s : State) (k : Nat) (f : MemDev → MemDev) : (s.modDev k f).pwr = s.pwr := rfl
@[simp] theorem State.modDev_outbox (s : State) (k : Nat) (f : MemDev → MemDev) : (s.modDev k f).outbox = s.outbox := rfl
@[simp] theorem State.modDev_free (s : State) (k : Nat) (f : MemDev → MemDev) : (s.modDev k f).free = s.free := rfl

/-! ## modSpill -/

@[simp] theorem State.modSpill_pending (s : State) (d : Nat) (f : Spill → Spill) : (s.modSpill d f).pending = s.pending := rfl
@[simp] theorem State.modSpill_sessions (s : State) (d : Nat) (f : Spill → Spill) : (s.modSpill d f).sessions = s.sessions := rfl
@[simp] theorem State.modSpill_readers (s : State) (d : Nat) (f : Spill → Spill) : (s.modSpill d f).readers = s.readers := rfl
@[simp] theorem State.modSpill_smbOff (s : State) (d : Nat) (f : Spill → Spill) : (s.modSpill d f).smbOff = s.smbOff := rfl
@[simp] theorem State.modSpill_tl (s : State) (d : Nat) (f : Spill → Spill) : (s.modSpill d f).tl = s.tl := rfl
@[simp] theorem State.modSpill_period (s : State) (d : Nat) (f : Spill → Spill) : (s.modSpill d f).period = s.period := rfl
@[simp] theorem State.modSpill_stats (s : State) (d : Nat) (f : Spill → Spill) : (s.modSpill d f).stats = s.stats := rfl
@[simp] theorem State.modSpill_quant (s : State) (d : Nat) (f : Spill → Spill) : (s.modSpill d f).quant = s.quant := rfl
@[simp] theorem State.modSpill_cleared (s : State) (d : Nat) (f : Spill → Spill) : (s.modSpill d f).cleared = s.cleared := rfl
@[simp] theorem State.modSpill_fed (s : State) (d : Nat) (f : Spill → Spill) : (s.modSpill d f).fed = s.fed := rfl
@[simp] theorem State.modSpill_cells (s : State) (d : Nat) (f : Spill → Spill) : (s.modSpill d f).cells = s.cells := rfl
@[simp] theorem State.modSpill_resident (s : State) (d : Nat) (f : Spill → Spill) : (s.modSpill d f).resident = s.resident := rfl
@[simp] theorem State.modSpill_rng (s : State) (d : Nat) (f : Spill → Spill) : (s.modSpill d f).rng = s.rng := rfl
@[simp] theorem State.modSpill_image (s : State) (d : Nat) (f : Spill → Spill) : (s.modSpill d f).image = s.image := rfl
@[simp] theorem State.modSpill_scheds (s : State) (d : Nat) (f : Spill → Spill) : (s.modSpill d f).scheds = s.scheds := rfl
@[simp] theorem State.modSpill_stages (s : State) (d : Nat) (f : Spill → Spill) : (s.modSpill d f).stages = s.stages := rfl
@[simp] theorem State.modSpill_admitted (s : State) (d : Nat) (f : Spill → Spill) : (s.modSpill d f).admitted = s.admitted := rfl
@[simp] theorem State.modSpill_orders (s : State) (d : Nat) (f : Spill → Spill) : (s.modSpill d f).orders = s.orders := rfl
@[simp] theorem State.modSpill_streams (s : State) (d : Nat) (f : Spill → Spill) : (s.modSpill d f).streams = s.streams := rfl
@[simp] theorem State.modSpill_queues (s : State) (d : Nat) (f : Spill → Spill) : (s.modSpill d f).queues = s.queues := rfl
@[simp] theorem State.modSpill_profiles (s : State) (d : Nat) (f : Spill → Spill) : (s.modSpill d f).profiles = s.profiles := rfl
@[simp] theorem State.modSpill_profCap (s : State) (d : Nat) (f : Spill → Spill) : (s.modSpill d f).profCap = s.profCap := rfl
@[simp] theorem State.modSpill_txn (s : State) (d : Nat) (f : Spill → Spill) : (s.modSpill d f).txn = s.txn := rfl
@[simp] theorem State.modSpill_mem (s : State) (d : Nat) (f : Spill → Spill) : (s.modSpill d f).mem = s.mem := rfl
@[simp] theorem State.modSpill_prot (s : State) (d : Nat) (f : Spill → Spill) : (s.modSpill d f).prot = s.prot := rfl
@[simp] theorem State.modSpill_tag (s : State) (d : Nat) (f : Spill → Spill) : (s.modSpill d f).tag = s.tag := rfl
@[simp] theorem State.modSpill_eth (s : State) (d : Nat) (f : Spill → Spill) : (s.modSpill d f).eth = s.eth := rfl
@[simp] theorem State.modSpill_kl (s : State) (d : Nat) (f : Spill → Spill) : (s.modSpill d f).kl = s.kl := rfl
@[simp] theorem State.modSpill_saps (s : State) (d : Nat) (f : Spill → Spill) : (s.modSpill d f).saps = s.saps := rfl
@[simp] theorem State.modSpill_wclkEn (s : State) (d : Nat) (f : Spill → Spill) : (s.modSpill d f).wclkEn = s.wclkEn := rfl
@[simp] theorem State.modSpill_sec (s : State) (d : Nat) (f : Spill → Spill) : (s.modSpill d f).sec = s.sec := rfl
@[simp] theorem State.modSpill_bureau (s : State) (d : Nat) (f : Spill → Spill) : (s.modSpill d f).bureau = s.bureau := rfl
@[simp] theorem State.modSpill_pwr (s : State) (d : Nat) (f : Spill → Spill) : (s.modSpill d f).pwr = s.pwr := rfl
@[simp] theorem State.modSpill_outbox (s : State) (d : Nat) (f : Spill → Spill) : (s.modSpill d f).outbox = s.outbox := rfl
@[simp] theorem State.modSpill_free (s : State) (d : Nat) (f : Spill → Spill) : (s.modSpill d f).free = s.free := rfl

/-! ## modImage -/

@[simp] theorem State.modImage_pending (s : State) (f : ImageBlk → ImageBlk) : (s.modImage f).pending = s.pending := rfl
@[simp] theorem State.modImage_sessions (s : State) (f : ImageBlk → ImageBlk) : (s.modImage f).sessions = s.sessions := rfl
@[simp] theorem State.modImage_readers (s : State) (f : ImageBlk → ImageBlk) : (s.modImage f).readers = s.readers := rfl
@[simp] theorem State.modImage_smbOff (s : State) (f : ImageBlk → ImageBlk) : (s.modImage f).smbOff = s.smbOff := rfl
@[simp] theorem State.modImage_tl (s : State) (f : ImageBlk → ImageBlk) : (s.modImage f).tl = s.tl := rfl
@[simp] theorem State.modImage_period (s : State) (f : ImageBlk → ImageBlk) : (s.modImage f).period = s.period := rfl
@[simp] theorem State.modImage_stats (s : State) (f : ImageBlk → ImageBlk) : (s.modImage f).stats = s.stats := rfl
@[simp] theorem State.modImage_quant (s : State) (f : ImageBlk → ImageBlk) : (s.modImage f).quant = s.quant := rfl
@[simp] theorem State.modImage_cleared (s : State) (f : ImageBlk → ImageBlk) : (s.modImage f).cleared = s.cleared := rfl
@[simp] theorem State.modImage_fed (s : State) (f : ImageBlk → ImageBlk) : (s.modImage f).fed = s.fed := rfl
@[simp] theorem State.modImage_cells (s : State) (f : ImageBlk → ImageBlk) : (s.modImage f).cells = s.cells := rfl
@[simp] theorem State.modImage_resident (s : State) (f : ImageBlk → ImageBlk) : (s.modImage f).resident = s.resident := rfl
@[simp] theorem State.modImage_rng (s : State) (f : ImageBlk → ImageBlk) : (s.modImage f).rng = s.rng := rfl
@[simp] theorem State.modImage_scheds (s : State) (f : ImageBlk → ImageBlk) : (s.modImage f).scheds = s.scheds := rfl
@[simp] theorem State.modImage_stages (s : State) (f : ImageBlk → ImageBlk) : (s.modImage f).stages = s.stages := rfl
@[simp] theorem State.modImage_admitted (s : State) (f : ImageBlk → ImageBlk) : (s.modImage f).admitted = s.admitted := rfl
@[simp] theorem State.modImage_orders (s : State) (f : ImageBlk → ImageBlk) : (s.modImage f).orders = s.orders := rfl
@[simp] theorem State.modImage_bellows (s : State) (f : ImageBlk → ImageBlk) : (s.modImage f).bellows = s.bellows := rfl
@[simp] theorem State.modImage_streams (s : State) (f : ImageBlk → ImageBlk) : (s.modImage f).streams = s.streams := rfl
@[simp] theorem State.modImage_queues (s : State) (f : ImageBlk → ImageBlk) : (s.modImage f).queues = s.queues := rfl
@[simp] theorem State.modImage_profiles (s : State) (f : ImageBlk → ImageBlk) : (s.modImage f).profiles = s.profiles := rfl
@[simp] theorem State.modImage_profCap (s : State) (f : ImageBlk → ImageBlk) : (s.modImage f).profCap = s.profCap := rfl
@[simp] theorem State.modImage_txn (s : State) (f : ImageBlk → ImageBlk) : (s.modImage f).txn = s.txn := rfl
@[simp] theorem State.modImage_mem (s : State) (f : ImageBlk → ImageBlk) : (s.modImage f).mem = s.mem := rfl
@[simp] theorem State.modImage_prot (s : State) (f : ImageBlk → ImageBlk) : (s.modImage f).prot = s.prot := rfl
@[simp] theorem State.modImage_tag (s : State) (f : ImageBlk → ImageBlk) : (s.modImage f).tag = s.tag := rfl
@[simp] theorem State.modImage_eth (s : State) (f : ImageBlk → ImageBlk) : (s.modImage f).eth = s.eth := rfl
@[simp] theorem State.modImage_kl (s : State) (f : ImageBlk → ImageBlk) : (s.modImage f).kl = s.kl := rfl
@[simp] theorem State.modImage_saps (s : State) (f : ImageBlk → ImageBlk) : (s.modImage f).saps = s.saps := rfl
@[simp] theorem State.modImage_wclkEn (s : State) (f : ImageBlk → ImageBlk) : (s.modImage f).wclkEn = s.wclkEn := rfl
@[simp] theorem State.modImage_sec (s : State) (f : ImageBlk → ImageBlk) : (s.modImage f).sec = s.sec := rfl
@[simp] theorem State.modImage_bureau (s : State) (f : ImageBlk → ImageBlk) : (s.modImage f).bureau = s.bureau := rfl
@[simp] theorem State.modImage_pwr (s : State) (f : ImageBlk → ImageBlk) : (s.modImage f).pwr = s.pwr := rfl
@[simp] theorem State.modImage_outbox (s : State) (f : ImageBlk → ImageBlk) : (s.modImage f).outbox = s.outbox := rfl
@[simp] theorem State.modImage_free (s : State) (f : ImageBlk → ImageBlk) : (s.modImage f).free = s.free := rfl
@[simp] theorem State.modImage_image (s : State) (f : ImageBlk → ImageBlk) : (s.modImage f).image = f s.image := rfl

/-! ## modPwr -/

@[simp] theorem State.modPwr_pending (s : State) (f : Pwr → Pwr) : (s.modPwr f).pending = s.pending := rfl
@[simp] theorem State.modPwr_sessions (s : State) (f : Pwr → Pwr) : (s.modPwr f).sessions = s.sessions := rfl
@[simp] theorem State.modPwr_readers (s : State) (f : Pwr → Pwr) : (s.modPwr f).readers = s.readers := rfl
@[simp] theorem State.modPwr_smbOff (s : State) (f : Pwr → Pwr) : (s.modPwr f).smbOff = s.smbOff := rfl
@[simp] theorem State.modPwr_tl (s : State) (f : Pwr → Pwr) : (s.modPwr f).tl = s.tl := rfl
@[simp] theorem State.modPwr_period (s : State) (f : Pwr → Pwr) : (s.modPwr f).period = s.period := rfl
@[simp] theorem State.modPwr_stats (s : State) (f : Pwr → Pwr) : (s.modPwr f).stats = s.stats := rfl
@[simp] theorem State.modPwr_quant (s : State) (f : Pwr → Pwr) : (s.modPwr f).quant = s.quant := rfl
@[simp] theorem State.modPwr_cleared (s : State) (f : Pwr → Pwr) : (s.modPwr f).cleared = s.cleared := rfl
@[simp] theorem State.modPwr_fed (s : State) (f : Pwr → Pwr) : (s.modPwr f).fed = s.fed := rfl
@[simp] theorem State.modPwr_cells (s : State) (f : Pwr → Pwr) : (s.modPwr f).cells = s.cells := rfl
@[simp] theorem State.modPwr_resident (s : State) (f : Pwr → Pwr) : (s.modPwr f).resident = s.resident := rfl
@[simp] theorem State.modPwr_rng (s : State) (f : Pwr → Pwr) : (s.modPwr f).rng = s.rng := rfl
@[simp] theorem State.modPwr_image (s : State) (f : Pwr → Pwr) : (s.modPwr f).image = s.image := rfl
@[simp] theorem State.modPwr_scheds (s : State) (f : Pwr → Pwr) : (s.modPwr f).scheds = s.scheds := rfl
@[simp] theorem State.modPwr_stages (s : State) (f : Pwr → Pwr) : (s.modPwr f).stages = s.stages := rfl
@[simp] theorem State.modPwr_admitted (s : State) (f : Pwr → Pwr) : (s.modPwr f).admitted = s.admitted := rfl
@[simp] theorem State.modPwr_orders (s : State) (f : Pwr → Pwr) : (s.modPwr f).orders = s.orders := rfl
@[simp] theorem State.modPwr_bellows (s : State) (f : Pwr → Pwr) : (s.modPwr f).bellows = s.bellows := rfl
@[simp] theorem State.modPwr_streams (s : State) (f : Pwr → Pwr) : (s.modPwr f).streams = s.streams := rfl
@[simp] theorem State.modPwr_queues (s : State) (f : Pwr → Pwr) : (s.modPwr f).queues = s.queues := rfl
@[simp] theorem State.modPwr_profiles (s : State) (f : Pwr → Pwr) : (s.modPwr f).profiles = s.profiles := rfl
@[simp] theorem State.modPwr_profCap (s : State) (f : Pwr → Pwr) : (s.modPwr f).profCap = s.profCap := rfl
@[simp] theorem State.modPwr_txn (s : State) (f : Pwr → Pwr) : (s.modPwr f).txn = s.txn := rfl
@[simp] theorem State.modPwr_mem (s : State) (f : Pwr → Pwr) : (s.modPwr f).mem = s.mem := rfl
@[simp] theorem State.modPwr_prot (s : State) (f : Pwr → Pwr) : (s.modPwr f).prot = s.prot := rfl
@[simp] theorem State.modPwr_tag (s : State) (f : Pwr → Pwr) : (s.modPwr f).tag = s.tag := rfl
@[simp] theorem State.modPwr_eth (s : State) (f : Pwr → Pwr) : (s.modPwr f).eth = s.eth := rfl
@[simp] theorem State.modPwr_kl (s : State) (f : Pwr → Pwr) : (s.modPwr f).kl = s.kl := rfl
@[simp] theorem State.modPwr_saps (s : State) (f : Pwr → Pwr) : (s.modPwr f).saps = s.saps := rfl
@[simp] theorem State.modPwr_wclkEn (s : State) (f : Pwr → Pwr) : (s.modPwr f).wclkEn = s.wclkEn := rfl
@[simp] theorem State.modPwr_sec (s : State) (f : Pwr → Pwr) : (s.modPwr f).sec = s.sec := rfl
@[simp] theorem State.modPwr_bureau (s : State) (f : Pwr → Pwr) : (s.modPwr f).bureau = s.bureau := rfl
@[simp] theorem State.modPwr_outbox (s : State) (f : Pwr → Pwr) : (s.modPwr f).outbox = s.outbox := rfl
@[simp] theorem State.modPwr_free (s : State) (f : Pwr → Pwr) : (s.modPwr f).free = s.free := rfl
@[simp] theorem State.modPwr_pwr (s : State) (f : Pwr → Pwr) : (s.modPwr f).pwr = f s.pwr := rfl

/-! ## modKl -/

@[simp] theorem State.modKl_pending (s : State) (f : Kryter → Kryter) : (s.modKl f).pending = s.pending := rfl
@[simp] theorem State.modKl_sessions (s : State) (f : Kryter → Kryter) : (s.modKl f).sessions = s.sessions := rfl
@[simp] theorem State.modKl_readers (s : State) (f : Kryter → Kryter) : (s.modKl f).readers = s.readers := rfl
@[simp] theorem State.modKl_smbOff (s : State) (f : Kryter → Kryter) : (s.modKl f).smbOff = s.smbOff := rfl
@[simp] theorem State.modKl_tl (s : State) (f : Kryter → Kryter) : (s.modKl f).tl = s.tl := rfl
@[simp] theorem State.modKl_period (s : State) (f : Kryter → Kryter) : (s.modKl f).period = s.period := rfl
@[simp] theorem State.modKl_stats (s : State) (f : Kryter → Kryter) : (s.modKl f).stats = s.stats := rfl
@[simp] theorem State.modKl_quant (s : State) (f : Kryter → Kryter) : (s.modKl f).quant = s.quant := rfl
@[simp] theorem State.modKl_cleared (s : State) (f : Kryter → Kryter) : (s.modKl f).cleared = s.cleared := rfl
@[simp] theorem State.modKl_fed (s : State) (f : Kryter → Kryter) : (s.modKl f).fed = s.fed := rfl
@[simp] theorem State.modKl_cells (s : State) (f : Kryter → Kryter) : (s.modKl f).cells = s.cells := rfl
@[simp] theorem State.modKl_resident (s : State) (f : Kryter → Kryter) : (s.modKl f).resident = s.resident := rfl
@[simp] theorem State.modKl_rng (s : State) (f : Kryter → Kryter) : (s.modKl f).rng = s.rng := rfl
@[simp] theorem State.modKl_image (s : State) (f : Kryter → Kryter) : (s.modKl f).image = s.image := rfl
@[simp] theorem State.modKl_scheds (s : State) (f : Kryter → Kryter) : (s.modKl f).scheds = s.scheds := rfl
@[simp] theorem State.modKl_stages (s : State) (f : Kryter → Kryter) : (s.modKl f).stages = s.stages := rfl
@[simp] theorem State.modKl_admitted (s : State) (f : Kryter → Kryter) : (s.modKl f).admitted = s.admitted := rfl
@[simp] theorem State.modKl_orders (s : State) (f : Kryter → Kryter) : (s.modKl f).orders = s.orders := rfl
@[simp] theorem State.modKl_bellows (s : State) (f : Kryter → Kryter) : (s.modKl f).bellows = s.bellows := rfl
@[simp] theorem State.modKl_streams (s : State) (f : Kryter → Kryter) : (s.modKl f).streams = s.streams := rfl
@[simp] theorem State.modKl_queues (s : State) (f : Kryter → Kryter) : (s.modKl f).queues = s.queues := rfl
@[simp] theorem State.modKl_profiles (s : State) (f : Kryter → Kryter) : (s.modKl f).profiles = s.profiles := rfl
@[simp] theorem State.modKl_profCap (s : State) (f : Kryter → Kryter) : (s.modKl f).profCap = s.profCap := rfl
@[simp] theorem State.modKl_txn (s : State) (f : Kryter → Kryter) : (s.modKl f).txn = s.txn := rfl
@[simp] theorem State.modKl_mem (s : State) (f : Kryter → Kryter) : (s.modKl f).mem = s.mem := rfl
@[simp] theorem State.modKl_prot (s : State) (f : Kryter → Kryter) : (s.modKl f).prot = s.prot := rfl
@[simp] theorem State.modKl_tag (s : State) (f : Kryter → Kryter) : (s.modKl f).tag = s.tag := rfl
@[simp] theorem State.modKl_eth (s : State) (f : Kryter → Kryter) : (s.modKl f).eth = s.eth := rfl
@[simp] theorem State.modKl_saps (s : State) (f : Kryter → Kryter) : (s.modKl f).saps = s.saps := rfl
@[simp] theorem State.modKl_wclkEn (s : State) (f : Kryter → Kryter) : (s.modKl f).wclkEn = s.wclkEn := rfl
@[simp] theorem State.modKl_sec (s : State) (f : Kryter → Kryter) : (s.modKl f).sec = s.sec := rfl
@[simp] theorem State.modKl_bureau (s : State) (f : Kryter → Kryter) : (s.modKl f).bureau = s.bureau := rfl
@[simp] theorem State.modKl_pwr (s : State) (f : Kryter → Kryter) : (s.modKl f).pwr = s.pwr := rfl
@[simp] theorem State.modKl_outbox (s : State) (f : Kryter → Kryter) : (s.modKl f).outbox = s.outbox := rfl
@[simp] theorem State.modKl_free (s : State) (f : Kryter → Kryter) : (s.modKl f).free = s.free := rfl
@[simp] theorem State.modKl_kl (s : State) (f : Kryter → Kryter) : (s.modKl f).kl = f s.kl := rfl

/-! ## modSec -/

@[simp] theorem State.modSec_pending (s : State) (f : Sec → Sec) : (s.modSec f).pending = s.pending := rfl
@[simp] theorem State.modSec_sessions (s : State) (f : Sec → Sec) : (s.modSec f).sessions = s.sessions := rfl
@[simp] theorem State.modSec_readers (s : State) (f : Sec → Sec) : (s.modSec f).readers = s.readers := rfl
@[simp] theorem State.modSec_smbOff (s : State) (f : Sec → Sec) : (s.modSec f).smbOff = s.smbOff := rfl
@[simp] theorem State.modSec_tl (s : State) (f : Sec → Sec) : (s.modSec f).tl = s.tl := rfl
@[simp] theorem State.modSec_period (s : State) (f : Sec → Sec) : (s.modSec f).period = s.period := rfl
@[simp] theorem State.modSec_stats (s : State) (f : Sec → Sec) : (s.modSec f).stats = s.stats := rfl
@[simp] theorem State.modSec_quant (s : State) (f : Sec → Sec) : (s.modSec f).quant = s.quant := rfl
@[simp] theorem State.modSec_cleared (s : State) (f : Sec → Sec) : (s.modSec f).cleared = s.cleared := rfl
@[simp] theorem State.modSec_fed (s : State) (f : Sec → Sec) : (s.modSec f).fed = s.fed := rfl
@[simp] theorem State.modSec_cells (s : State) (f : Sec → Sec) : (s.modSec f).cells = s.cells := rfl
@[simp] theorem State.modSec_resident (s : State) (f : Sec → Sec) : (s.modSec f).resident = s.resident := rfl
@[simp] theorem State.modSec_rng (s : State) (f : Sec → Sec) : (s.modSec f).rng = s.rng := rfl
@[simp] theorem State.modSec_image (s : State) (f : Sec → Sec) : (s.modSec f).image = s.image := rfl
@[simp] theorem State.modSec_scheds (s : State) (f : Sec → Sec) : (s.modSec f).scheds = s.scheds := rfl
@[simp] theorem State.modSec_stages (s : State) (f : Sec → Sec) : (s.modSec f).stages = s.stages := rfl
@[simp] theorem State.modSec_admitted (s : State) (f : Sec → Sec) : (s.modSec f).admitted = s.admitted := rfl
@[simp] theorem State.modSec_orders (s : State) (f : Sec → Sec) : (s.modSec f).orders = s.orders := rfl
@[simp] theorem State.modSec_bellows (s : State) (f : Sec → Sec) : (s.modSec f).bellows = s.bellows := rfl
@[simp] theorem State.modSec_streams (s : State) (f : Sec → Sec) : (s.modSec f).streams = s.streams := rfl
@[simp] theorem State.modSec_queues (s : State) (f : Sec → Sec) : (s.modSec f).queues = s.queues := rfl
@[simp] theorem State.modSec_profiles (s : State) (f : Sec → Sec) : (s.modSec f).profiles = s.profiles := rfl
@[simp] theorem State.modSec_profCap (s : State) (f : Sec → Sec) : (s.modSec f).profCap = s.profCap := rfl
@[simp] theorem State.modSec_txn (s : State) (f : Sec → Sec) : (s.modSec f).txn = s.txn := rfl
@[simp] theorem State.modSec_mem (s : State) (f : Sec → Sec) : (s.modSec f).mem = s.mem := rfl
@[simp] theorem State.modSec_prot (s : State) (f : Sec → Sec) : (s.modSec f).prot = s.prot := rfl
@[simp] theorem State.modSec_tag (s : State) (f : Sec → Sec) : (s.modSec f).tag = s.tag := rfl
@[simp] theorem State.modSec_eth (s : State) (f : Sec → Sec) : (s.modSec f).eth = s.eth := rfl
@[simp] theorem State.modSec_kl (s : State) (f : Sec → Sec) : (s.modSec f).kl = s.kl := rfl
@[simp] theorem State.modSec_saps (s : State) (f : Sec → Sec) : (s.modSec f).saps = s.saps := rfl
@[simp] theorem State.modSec_wclkEn (s : State) (f : Sec → Sec) : (s.modSec f).wclkEn = s.wclkEn := rfl
@[simp] theorem State.modSec_bureau (s : State) (f : Sec → Sec) : (s.modSec f).bureau = s.bureau := rfl
@[simp] theorem State.modSec_pwr (s : State) (f : Sec → Sec) : (s.modSec f).pwr = s.pwr := rfl
@[simp] theorem State.modSec_outbox (s : State) (f : Sec → Sec) : (s.modSec f).outbox = s.outbox := rfl
@[simp] theorem State.modSec_free (s : State) (f : Sec → Sec) : (s.modSec f).free = s.free := rfl
@[simp] theorem State.modSec_sec (s : State) (f : Sec → Sec) : (s.modSec f).sec = f s.sec := rfl

/-! ## modTl -/

@[simp] theorem State.modTl_pending (s : State) (f : Timeline → Timeline) : (s.modTl f).pending = s.pending := rfl
@[simp] theorem State.modTl_sessions (s : State) (f : Timeline → Timeline) : (s.modTl f).sessions = s.sessions := rfl
@[simp] theorem State.modTl_readers (s : State) (f : Timeline → Timeline) : (s.modTl f).readers = s.readers := rfl
@[simp] theorem State.modTl_smbOff (s : State) (f : Timeline → Timeline) : (s.modTl f).smbOff = s.smbOff := rfl
@[simp] theorem State.modTl_period (s : State) (f : Timeline → Timeline) : (s.modTl f).period = s.period := rfl
@[simp] theorem State.modTl_stats (s : State) (f : Timeline → Timeline) : (s.modTl f).stats = s.stats := rfl
@[simp] theorem State.modTl_quant (s : State) (f : Timeline → Timeline) : (s.modTl f).quant = s.quant := rfl
@[simp] theorem State.modTl_cleared (s : State) (f : Timeline → Timeline) : (s.modTl f).cleared = s.cleared := rfl
@[simp] theorem State.modTl_fed (s : State) (f : Timeline → Timeline) : (s.modTl f).fed = s.fed := rfl
@[simp] theorem State.modTl_cells (s : State) (f : Timeline → Timeline) : (s.modTl f).cells = s.cells := rfl
@[simp] theorem State.modTl_resident (s : State) (f : Timeline → Timeline) : (s.modTl f).resident = s.resident := rfl
@[simp] theorem State.modTl_rng (s : State) (f : Timeline → Timeline) : (s.modTl f).rng = s.rng := rfl
@[simp] theorem State.modTl_image (s : State) (f : Timeline → Timeline) : (s.modTl f).image = s.image := rfl
@[simp] theorem State.modTl_scheds (s : State) (f : Timeline → Timeline) : (s.modTl f).scheds = s.scheds := rfl
@[simp] theorem State.modTl_stages (s : State) (f : Timeline → Timeline) : (s.modTl f).stages = s.stages := rfl
@[simp] theorem State.modTl_admitted (s : State) (f : Timeline → Timeline) : (s.modTl f).admitted = s.admitted := rfl
@[simp] theorem State.modTl_orders (s : State) (f : Timeline → Timeline) : (s.modTl f).orders = s.orders := rfl
@[simp] theorem State.modTl_bellows (s : State) (f : Timeline → Timeline) : (s.modTl f).bellows = s.bellows := rfl
@[simp] theorem State.modTl_streams (s : State) (f : Timeline → Timeline) : (s.modTl f).streams = s.streams := rfl
@[simp] theorem State.modTl_queues (s : State) (f : Timeline → Timeline) : (s.modTl f).queues = s.queues := rfl
@[simp] theorem State.modTl_profiles (s : State) (f : Timeline → Timeline) : (s.modTl f).profiles = s.profiles := rfl
@[simp] theorem State.modTl_profCap (s : State) (f : Timeline → Timeline) : (s.modTl f).profCap = s.profCap := rfl
@[simp] theorem State.modTl_txn (s : State) (f : Timeline → Timeline) : (s.modTl f).txn = s.txn := rfl
@[simp] theorem State.modTl_mem (s : State) (f : Timeline → Timeline) : (s.modTl f).mem = s.mem := rfl
@[simp] theorem State.modTl_prot (s : State) (f : Timeline → Timeline) : (s.modTl f).prot = s.prot := rfl
@[simp] theorem State.modTl_tag (s : State) (f : Timeline → Timeline) : (s.modTl f).tag = s.tag := rfl
@[simp] theorem State.modTl_eth (s : State) (f : Timeline → Timeline) : (s.modTl f).eth = s.eth := rfl
@[simp] theorem State.modTl_kl (s : State) (f : Timeline → Timeline) : (s.modTl f).kl = s.kl := rfl
@[simp] theorem State.modTl_saps (s : State) (f : Timeline → Timeline) : (s.modTl f).saps = s.saps := rfl
@[simp] theorem State.modTl_wclkEn (s : State) (f : Timeline → Timeline) : (s.modTl f).wclkEn = s.wclkEn := rfl
@[simp] theorem State.modTl_sec (s : State) (f : Timeline → Timeline) : (s.modTl f).sec = s.sec := rfl
@[simp] theorem State.modTl_bureau (s : State) (f : Timeline → Timeline) : (s.modTl f).bureau = s.bureau := rfl
@[simp] theorem State.modTl_pwr (s : State) (f : Timeline → Timeline) : (s.modTl f).pwr = s.pwr := rfl
@[simp] theorem State.modTl_outbox (s : State) (f : Timeline → Timeline) : (s.modTl f).outbox = s.outbox := rfl
@[simp] theorem State.modTl_free (s : State) (f : Timeline → Timeline) : (s.modTl f).free = s.free := rfl
@[simp] theorem State.modTl_tl (s : State) (f : Timeline → Timeline) : (s.modTl f).tl = f s.tl := rfl

/-! ## modPeriod -/

@[simp] theorem State.modPeriod_pending (s : State) (f : Period → Period) : (s.modPeriod f).pending = s.pending := rfl
@[simp] theorem State.modPeriod_sessions (s : State) (f : Period → Period) : (s.modPeriod f).sessions = s.sessions := rfl
@[simp] theorem State.modPeriod_readers (s : State) (f : Period → Period) : (s.modPeriod f).readers = s.readers := rfl
@[simp] theorem State.modPeriod_smbOff (s : State) (f : Period → Period) : (s.modPeriod f).smbOff = s.smbOff := rfl
@[simp] theorem State.modPeriod_tl (s : State) (f : Period → Period) : (s.modPeriod f).tl = s.tl := rfl
@[simp] theorem State.modPeriod_stats (s : State) (f : Period → Period) : (s.modPeriod f).stats = s.stats := rfl
@[simp] theorem State.modPeriod_quant (s : State) (f : Period → Period) : (s.modPeriod f).quant = s.quant := rfl
@[simp] theorem State.modPeriod_cleared (s : State) (f : Period → Period) : (s.modPeriod f).cleared = s.cleared := rfl
@[simp] theorem State.modPeriod_fed (s : State) (f : Period → Period) : (s.modPeriod f).fed = s.fed := rfl
@[simp] theorem State.modPeriod_cells (s : State) (f : Period → Period) : (s.modPeriod f).cells = s.cells := rfl
@[simp] theorem State.modPeriod_resident (s : State) (f : Period → Period) : (s.modPeriod f).resident = s.resident := rfl
@[simp] theorem State.modPeriod_rng (s : State) (f : Period → Period) : (s.modPeriod f).rng = s.rng := rfl
@[simp] theorem State.modPeriod_image (s : State) (f : Period → Period) : (s.modPeriod f).image = s.image := rfl
@[simp] theorem State.modPeriod_scheds (s : State) (f : Period → Period) : (s.modPeriod f).scheds = s.scheds := rfl
@[simp] theorem State.modPeriod_stages (s : State) (f : Period → Period) : (s.modPeriod f).stages = s.stages := rfl
@[simp] theorem State.modPeriod_admitted (s : State) (f : Period → Period) : (s.modPeriod f).admitted = s.admitted := rfl
@[simp] theorem State.modPeriod_orders (s : State) (f : Period → Period) : (s.modPeriod f).orders = s.orders := rfl
@[simp] theorem State.modPeriod_bellows (s : State) (f : Period → Period) : (s.modPeriod f).bellows = s.bellows := rfl
@[simp] theorem State.modPeriod_streams (s : State) (f : Period → Period) : (s.modPeriod f).streams = s.streams := rfl
@[simp] theorem State.modPeriod_queues (s : State) (f : Period → Period) : (s.modPeriod f).queues = s.queues := rfl
@[simp] theorem State.modPeriod_profiles (s : State) (f : Period → Period) : (s.modPeriod f).profiles = s.profiles := rfl
@[simp] theorem State.modPeriod_profCap (s : State) (f : Period → Period) : (s.modPeriod f).profCap = s.profCap := rfl
@[simp] theorem State.modPeriod_txn (s : State) (f : Period → Period) : (s.modPeriod f).txn = s.txn := rfl
@[simp] theorem State.modPeriod_mem (s : State) (f : Period → Period) : (s.modPeriod f).mem = s.mem := rfl
@[simp] theorem State.modPeriod_prot (s : State) (f : Period → Period) : (s.modPeriod f).prot = s.prot := rfl
@[simp] theorem State.modPeriod_tag (s : State) (f : Period → Period) : (s.modPeriod f).tag = s.tag := rfl
@[simp] theorem State.modPeriod_eth (s : State) (f : Period → Period) : (s.modPeriod f).eth = s.eth := rfl
@[simp] theorem State.modPeriod_kl (s : State) (f : Period → Period) : (s.modPeriod f).kl = s.kl := rfl
@[simp] theorem State.modPeriod_saps (s : State) (f : Period → Period) : (s.modPeriod f).saps = s.saps := rfl
@[simp] theorem State.modPeriod_wclkEn (s : State) (f : Period → Period) : (s.modPeriod f).wclkEn = s.wclkEn := rfl
@[simp] theorem State.modPeriod_sec (s : State) (f : Period → Period) : (s.modPeriod f).sec = s.sec := rfl
@[simp] theorem State.modPeriod_bureau (s : State) (f : Period → Period) : (s.modPeriod f).bureau = s.bureau := rfl
@[simp] theorem State.modPeriod_pwr (s : State) (f : Period → Period) : (s.modPeriod f).pwr = s.pwr := rfl
@[simp] theorem State.modPeriod_outbox (s : State) (f : Period → Period) : (s.modPeriod f).outbox = s.outbox := rfl
@[simp] theorem State.modPeriod_free (s : State) (f : Period → Period) : (s.modPeriod f).free = s.free := rfl
@[simp] theorem State.modPeriod_period (s : State) (f : Period → Period) : (s.modPeriod f).period = f s.period := rfl

/-! ## modTxn -/

@[simp] theorem State.modTxn_pending (s : State) (f : TxnUnit → TxnUnit) : (s.modTxn f).pending = s.pending := rfl
@[simp] theorem State.modTxn_sessions (s : State) (f : TxnUnit → TxnUnit) : (s.modTxn f).sessions = s.sessions := rfl
@[simp] theorem State.modTxn_readers (s : State) (f : TxnUnit → TxnUnit) : (s.modTxn f).readers = s.readers := rfl
@[simp] theorem State.modTxn_smbOff (s : State) (f : TxnUnit → TxnUnit) : (s.modTxn f).smbOff = s.smbOff := rfl
@[simp] theorem State.modTxn_tl (s : State) (f : TxnUnit → TxnUnit) : (s.modTxn f).tl = s.tl := rfl
@[simp] theorem State.modTxn_period (s : State) (f : TxnUnit → TxnUnit) : (s.modTxn f).period = s.period := rfl
@[simp] theorem State.modTxn_stats (s : State) (f : TxnUnit → TxnUnit) : (s.modTxn f).stats = s.stats := rfl
@[simp] theorem State.modTxn_quant (s : State) (f : TxnUnit → TxnUnit) : (s.modTxn f).quant = s.quant := rfl
@[simp] theorem State.modTxn_cleared (s : State) (f : TxnUnit → TxnUnit) : (s.modTxn f).cleared = s.cleared := rfl
@[simp] theorem State.modTxn_fed (s : State) (f : TxnUnit → TxnUnit) : (s.modTxn f).fed = s.fed := rfl
@[simp] theorem State.modTxn_cells (s : State) (f : TxnUnit → TxnUnit) : (s.modTxn f).cells = s.cells := rfl
@[simp] theorem State.modTxn_resident (s : State) (f : TxnUnit → TxnUnit) : (s.modTxn f).resident = s.resident := rfl
@[simp] theorem State.modTxn_rng (s : State) (f : TxnUnit → TxnUnit) : (s.modTxn f).rng = s.rng := rfl
@[simp] theorem State.modTxn_image (s : State) (f : TxnUnit → TxnUnit) : (s.modTxn f).image = s.image := rfl
@[simp] theorem State.modTxn_scheds (s : State) (f : TxnUnit → TxnUnit) : (s.modTxn f).scheds = s.scheds := rfl
@[simp] theorem State.modTxn_stages (s : State) (f : TxnUnit → TxnUnit) : (s.modTxn f).stages = s.stages := rfl
@[simp] theorem State.modTxn_admitted (s : State) (f : TxnUnit → TxnUnit) : (s.modTxn f).admitted = s.admitted := rfl
@[simp] theorem State.modTxn_orders (s : State) (f : TxnUnit → TxnUnit) : (s.modTxn f).orders = s.orders := rfl
@[simp] theorem State.modTxn_bellows (s : State) (f : TxnUnit → TxnUnit) : (s.modTxn f).bellows = s.bellows := rfl
@[simp] theorem State.modTxn_streams (s : State) (f : TxnUnit → TxnUnit) : (s.modTxn f).streams = s.streams := rfl
@[simp] theorem State.modTxn_queues (s : State) (f : TxnUnit → TxnUnit) : (s.modTxn f).queues = s.queues := rfl
@[simp] theorem State.modTxn_profiles (s : State) (f : TxnUnit → TxnUnit) : (s.modTxn f).profiles = s.profiles := rfl
@[simp] theorem State.modTxn_profCap (s : State) (f : TxnUnit → TxnUnit) : (s.modTxn f).profCap = s.profCap := rfl
@[simp] theorem State.modTxn_mem (s : State) (f : TxnUnit → TxnUnit) : (s.modTxn f).mem = s.mem := rfl
@[simp] theorem State.modTxn_prot (s : State) (f : TxnUnit → TxnUnit) : (s.modTxn f).prot = s.prot := rfl
@[simp] theorem State.modTxn_tag (s : State) (f : TxnUnit → TxnUnit) : (s.modTxn f).tag = s.tag := rfl
@[simp] theorem State.modTxn_eth (s : State) (f : TxnUnit → TxnUnit) : (s.modTxn f).eth = s.eth := rfl
@[simp] theorem State.modTxn_kl (s : State) (f : TxnUnit → TxnUnit) : (s.modTxn f).kl = s.kl := rfl
@[simp] theorem State.modTxn_saps (s : State) (f : TxnUnit → TxnUnit) : (s.modTxn f).saps = s.saps := rfl
@[simp] theorem State.modTxn_wclkEn (s : State) (f : TxnUnit → TxnUnit) : (s.modTxn f).wclkEn = s.wclkEn := rfl
@[simp] theorem State.modTxn_sec (s : State) (f : TxnUnit → TxnUnit) : (s.modTxn f).sec = s.sec := rfl
@[simp] theorem State.modTxn_bureau (s : State) (f : TxnUnit → TxnUnit) : (s.modTxn f).bureau = s.bureau := rfl
@[simp] theorem State.modTxn_pwr (s : State) (f : TxnUnit → TxnUnit) : (s.modTxn f).pwr = s.pwr := rfl
@[simp] theorem State.modTxn_outbox (s : State) (f : TxnUnit → TxnUnit) : (s.modTxn f).outbox = s.outbox := rfl
@[simp] theorem State.modTxn_free (s : State) (f : TxnUnit → TxnUnit) : (s.modTxn f).free = s.free := rfl
@[simp] theorem State.modTxn_txn (s : State) (f : TxnUnit → TxnUnit) : (s.modTxn f).txn = f s.txn := rfl

/-! ## modSess -/

@[simp] theorem State.modSess_pending (s : State) (i : Nat) (f : Session → Session) : (s.modSess i f).pending = s.pending := by
  unfold State.modSess; split <;> rfl
@[simp] theorem State.modSess_readers (s : State) (i : Nat) (f : Session → Session) : (s.modSess i f).readers = s.readers := by
  unfold State.modSess; split <;> rfl
@[simp] theorem State.modSess_smbOff (s : State) (i : Nat) (f : Session → Session) : (s.modSess i f).smbOff = s.smbOff := by
  unfold State.modSess; split <;> rfl
@[simp] theorem State.modSess_tl (s : State) (i : Nat) (f : Session → Session) : (s.modSess i f).tl = s.tl := by
  unfold State.modSess; split <;> rfl
@[simp] theorem State.modSess_period (s : State) (i : Nat) (f : Session → Session) : (s.modSess i f).period = s.period := by
  unfold State.modSess; split <;> rfl
@[simp] theorem State.modSess_stats (s : State) (i : Nat) (f : Session → Session) : (s.modSess i f).stats = s.stats := by
  unfold State.modSess; split <;> rfl
@[simp] theorem State.modSess_quant (s : State) (i : Nat) (f : Session → Session) : (s.modSess i f).quant = s.quant := by
  unfold State.modSess; split <;> rfl
@[simp] theorem State.modSess_cleared (s : State) (i : Nat) (f : Session → Session) : (s.modSess i f).cleared = s.cleared := by
  unfold State.modSess; split <;> rfl
@[simp] theorem State.modSess_fed (s : State) (i : Nat) (f : Session → Session) : (s.modSess i f).fed = s.fed := by
  unfold State.modSess; split <;> rfl
@[simp] theorem State.modSess_cells (s : State) (i : Nat) (f : Session → Session) : (s.modSess i f).cells = s.cells := by
  unfold State.modSess; split <;> rfl
@[simp] theorem State.modSess_resident (s : State) (i : Nat) (f : Session → Session) : (s.modSess i f).resident = s.resident := by
  unfold State.modSess; split <;> rfl
@[simp] theorem State.modSess_rng (s : State) (i : Nat) (f : Session → Session) : (s.modSess i f).rng = s.rng := by
  unfold State.modSess; split <;> rfl
@[simp] theorem State.modSess_image (s : State) (i : Nat) (f : Session → Session) : (s.modSess i f).image = s.image := by
  unfold State.modSess; split <;> rfl
@[simp] theorem State.modSess_scheds (s : State) (i : Nat) (f : Session → Session) : (s.modSess i f).scheds = s.scheds := by
  unfold State.modSess; split <;> rfl
@[simp] theorem State.modSess_stages (s : State) (i : Nat) (f : Session → Session) : (s.modSess i f).stages = s.stages := by
  unfold State.modSess; split <;> rfl
@[simp] theorem State.modSess_admitted (s : State) (i : Nat) (f : Session → Session) : (s.modSess i f).admitted = s.admitted := by
  unfold State.modSess; split <;> rfl
@[simp] theorem State.modSess_orders (s : State) (i : Nat) (f : Session → Session) : (s.modSess i f).orders = s.orders := by
  unfold State.modSess; split <;> rfl
@[simp] theorem State.modSess_bellows (s : State) (i : Nat) (f : Session → Session) : (s.modSess i f).bellows = s.bellows := by
  unfold State.modSess; split <;> rfl
@[simp] theorem State.modSess_streams (s : State) (i : Nat) (f : Session → Session) : (s.modSess i f).streams = s.streams := by
  unfold State.modSess; split <;> rfl
@[simp] theorem State.modSess_queues (s : State) (i : Nat) (f : Session → Session) : (s.modSess i f).queues = s.queues := by
  unfold State.modSess; split <;> rfl
@[simp] theorem State.modSess_profiles (s : State) (i : Nat) (f : Session → Session) : (s.modSess i f).profiles = s.profiles := by
  unfold State.modSess; split <;> rfl
@[simp] theorem State.modSess_profCap (s : State) (i : Nat) (f : Session → Session) : (s.modSess i f).profCap = s.profCap := by
  unfold State.modSess; split <;> rfl
@[simp] theorem State.modSess_txn (s : State) (i : Nat) (f : Session → Session) : (s.modSess i f).txn = s.txn := by
  unfold State.modSess; split <;> rfl
@[simp] theorem State.modSess_mem (s : State) (i : Nat) (f : Session → Session) : (s.modSess i f).mem = s.mem := by
  unfold State.modSess; split <;> rfl
@[simp] theorem State.modSess_prot (s : State) (i : Nat) (f : Session → Session) : (s.modSess i f).prot = s.prot := by
  unfold State.modSess; split <;> rfl
@[simp] theorem State.modSess_tag (s : State) (i : Nat) (f : Session → Session) : (s.modSess i f).tag = s.tag := by
  unfold State.modSess; split <;> rfl
@[simp] theorem State.modSess_eth (s : State) (i : Nat) (f : Session → Session) : (s.modSess i f).eth = s.eth := by
  unfold State.modSess; split <;> rfl
@[simp] theorem State.modSess_kl (s : State) (i : Nat) (f : Session → Session) : (s.modSess i f).kl = s.kl := by
  unfold State.modSess; split <;> rfl
@[simp] theorem State.modSess_saps (s : State) (i : Nat) (f : Session → Session) : (s.modSess i f).saps = s.saps := by
  unfold State.modSess; split <;> rfl
@[simp] theorem State.modSess_wclkEn (s : State) (i : Nat) (f : Session → Session) : (s.modSess i f).wclkEn = s.wclkEn := by
  unfold State.modSess; split <;> rfl
@[simp] theorem State.modSess_sec (s : State) (i : Nat) (f : Session → Session) : (s.modSess i f).sec = s.sec := by
  unfold State.modSess; split <;> rfl
@[simp] theorem State.modSess_bureau (s : State) (i : Nat) (f : Session → Session) : (s.modSess i f).bureau = s.bureau := by
  unfold State.modSess; split <;> rfl
@[simp] theorem State.modSess_pwr (s : State) (i : Nat) (f : Session → Session) : (s.modSess i f).pwr = s.pwr := by
  unfold State.modSess; split <;> rfl
@[simp] theorem State.modSess_outbox (s : State) (i : Nat) (f : Session → Session) : (s.modSess i f).outbox = s.outbox := by
  unfold State.modSess; split <;> rfl
@[simp] theorem State.modSess_free (s : State) (i : Nat) (f : Session → Session) : (s.modSess i f).free = s.free := by
  unfold State.modSess; split <;> rfl

/-! ## Events and interrupt bits -/

@[simp] theorem record_pending (c : W16) (a b d e : W32) (s : State) : (record c a b d e s).pending = s.pending := rfl
@[simp] theorem record_sessions (c : W16) (a b d e : W32) (s : State) : (record c a b d e s).sessions = s.sessions := rfl
@[simp] theorem record_readers (c : W16) (a b d e : W32) (s : State) : (record c a b d e s).readers = s.readers := rfl
@[simp] theorem record_smbOff (c : W16) (a b d e : W32) (s : State) : (record c a b d e s).smbOff = s.smbOff := rfl
@[simp] theorem record_tl (c : W16) (a b d e : W32) (s : State) : (record c a b d e s).tl = s.tl := rfl
@[simp] theorem record_period (c : W16) (a b d e : W32) (s : State) : (record c a b d e s).period = s.period := rfl
@[simp] theorem record_stats (c : W16) (a b d e : W32) (s : State) : (record c a b d e s).stats = s.stats := rfl
@[simp] theorem record_quant (c : W16) (a b d e : W32) (s : State) : (record c a b d e s).quant = s.quant := rfl
@[simp] theorem record_cleared (c : W16) (a b d e : W32) (s : State) : (record c a b d e s).cleared = s.cleared := rfl
@[simp] theorem record_fed (c : W16) (a b d e : W32) (s : State) : (record c a b d e s).fed = s.fed := rfl
@[simp] theorem record_cells (c : W16) (a b d e : W32) (s : State) : (record c a b d e s).cells = s.cells := rfl
@[simp] theorem record_resident (c : W16) (a b d e : W32) (s : State) : (record c a b d e s).resident = s.resident := rfl
@[simp] theorem record_rng (c : W16) (a b d e : W32) (s : State) : (record c a b d e s).rng = s.rng := rfl
@[simp] theorem record_image (c : W16) (a b d e : W32) (s : State) : (record c a b d e s).image = s.image := rfl
@[simp] theorem record_scheds (c : W16) (a b d e : W32) (s : State) : (record c a b d e s).scheds = s.scheds := rfl
@[simp] theorem record_stages (c : W16) (a b d e : W32) (s : State) : (record c a b d e s).stages = s.stages := rfl
@[simp] theorem record_admitted (c : W16) (a b d e : W32) (s : State) : (record c a b d e s).admitted = s.admitted := rfl
@[simp] theorem record_orders (c : W16) (a b d e : W32) (s : State) : (record c a b d e s).orders = s.orders := rfl
@[simp] theorem record_bellows (c : W16) (a b d e : W32) (s : State) : (record c a b d e s).bellows = s.bellows := rfl
@[simp] theorem record_streams (c : W16) (a b d e : W32) (s : State) : (record c a b d e s).streams = s.streams := rfl
@[simp] theorem record_queues (c : W16) (a b d e : W32) (s : State) : (record c a b d e s).queues = s.queues := rfl
@[simp] theorem record_profiles (c : W16) (a b d e : W32) (s : State) : (record c a b d e s).profiles = s.profiles := rfl
@[simp] theorem record_profCap (c : W16) (a b d e : W32) (s : State) : (record c a b d e s).profCap = s.profCap := rfl
@[simp] theorem record_txn (c : W16) (a b d e : W32) (s : State) : (record c a b d e s).txn = s.txn := rfl
@[simp] theorem record_prot (c : W16) (a b d e : W32) (s : State) : (record c a b d e s).prot = s.prot := rfl
@[simp] theorem record_tag (c : W16) (a b d e : W32) (s : State) : (record c a b d e s).tag = s.tag := rfl
@[simp] theorem record_eth (c : W16) (a b d e : W32) (s : State) : (record c a b d e s).eth = s.eth := rfl
@[simp] theorem record_kl (c : W16) (a b d e : W32) (s : State) : (record c a b d e s).kl = s.kl := rfl
@[simp] theorem record_saps (c : W16) (a b d e : W32) (s : State) : (record c a b d e s).saps = s.saps := rfl
@[simp] theorem record_wclkEn (c : W16) (a b d e : W32) (s : State) : (record c a b d e s).wclkEn = s.wclkEn := rfl
@[simp] theorem record_sec (c : W16) (a b d e : W32) (s : State) : (record c a b d e s).sec = s.sec := rfl
@[simp] theorem record_pwr (c : W16) (a b d e : W32) (s : State) : (record c a b d e s).pwr = s.pwr := rfl
@[simp] theorem record_outbox (c : W16) (a b d e : W32) (s : State) : (record c a b d e s).outbox = s.outbox := rfl
@[simp] theorem record_free (c : W16) (a b d e : W32) (s : State) : (record c a b d e s).free = s.free := rfl
@[simp] theorem fire_pending (n : Nat) (s : State) : (fire n s).pending = s.pending := rfl
@[simp] theorem fire_readers (n : Nat) (s : State) : (fire n s).readers = s.readers := rfl
@[simp] theorem fire_smbOff (n : Nat) (s : State) : (fire n s).smbOff = s.smbOff := rfl
@[simp] theorem fire_tl (n : Nat) (s : State) : (fire n s).tl = s.tl := rfl
@[simp] theorem fire_period (n : Nat) (s : State) : (fire n s).period = s.period := rfl
@[simp] theorem fire_stats (n : Nat) (s : State) : (fire n s).stats = s.stats := rfl
@[simp] theorem fire_quant (n : Nat) (s : State) : (fire n s).quant = s.quant := rfl
@[simp] theorem fire_cleared (n : Nat) (s : State) : (fire n s).cleared = s.cleared := rfl
@[simp] theorem fire_fed (n : Nat) (s : State) : (fire n s).fed = s.fed := rfl
@[simp] theorem fire_cells (n : Nat) (s : State) : (fire n s).cells = s.cells := rfl
@[simp] theorem fire_resident (n : Nat) (s : State) : (fire n s).resident = s.resident := rfl
@[simp] theorem fire_rng (n : Nat) (s : State) : (fire n s).rng = s.rng := rfl
@[simp] theorem fire_image (n : Nat) (s : State) : (fire n s).image = s.image := rfl
@[simp] theorem fire_scheds (n : Nat) (s : State) : (fire n s).scheds = s.scheds := rfl
@[simp] theorem fire_stages (n : Nat) (s : State) : (fire n s).stages = s.stages := rfl
@[simp] theorem fire_admitted (n : Nat) (s : State) : (fire n s).admitted = s.admitted := rfl
@[simp] theorem fire_orders (n : Nat) (s : State) : (fire n s).orders = s.orders := rfl
@[simp] theorem fire_bellows (n : Nat) (s : State) : (fire n s).bellows = s.bellows := rfl
@[simp] theorem fire_streams (n : Nat) (s : State) : (fire n s).streams = s.streams := rfl
@[simp] theorem fire_queues (n : Nat) (s : State) : (fire n s).queues = s.queues := rfl
@[simp] theorem fire_profiles (n : Nat) (s : State) : (fire n s).profiles = s.profiles := rfl
@[simp] theorem fire_profCap (n : Nat) (s : State) : (fire n s).profCap = s.profCap := rfl
@[simp] theorem fire_txn (n : Nat) (s : State) : (fire n s).txn = s.txn := rfl
@[simp] theorem fire_prot (n : Nat) (s : State) : (fire n s).prot = s.prot := rfl
@[simp] theorem fire_tag (n : Nat) (s : State) : (fire n s).tag = s.tag := rfl
@[simp] theorem fire_eth (n : Nat) (s : State) : (fire n s).eth = s.eth := rfl
@[simp] theorem fire_kl (n : Nat) (s : State) : (fire n s).kl = s.kl := rfl
@[simp] theorem fire_saps (n : Nat) (s : State) : (fire n s).saps = s.saps := rfl
@[simp] theorem fire_wclkEn (n : Nat) (s : State) : (fire n s).wclkEn = s.wclkEn := rfl
@[simp] theorem fire_sec (n : Nat) (s : State) : (fire n s).sec = s.sec := rfl
@[simp] theorem fire_bureau (n : Nat) (s : State) : (fire n s).bureau = s.bureau := rfl
@[simp] theorem fire_pwr (n : Nat) (s : State) : (fire n s).pwr = s.pwr := rfl
@[simp] theorem fire_outbox (n : Nat) (s : State) : (fire n s).outbox = s.outbox := rfl
@[simp] theorem fire_free (n : Nat) (s : State) : (fire n s).free = s.free := rfl

/-! ## What a table holds after an update of one entry -/

theorem State.reader_modReader (s : State) (i j : Nat) (f : Reader → Reader) (h : canonical {} s.readers = true) :
    (s.modReader i f).reader j = if j = i then f (s.reader i) else s.reader j := by
  unfold State.modReader State.reader
  split
  · next e => rw [e]; exact cget_cput_self _ _ _ h
  · next e => exact cget_cput_other _ _ _ _ h e
theorem State.stream_modStream (s : State) (i j : Nat) (f : Stream → Stream) (h : canonical {} s.streams = true) :
    (s.modStream i f).stream j = if j = i then f (s.stream i) else s.stream j := by
  unfold State.modStream State.stream
  split
  · next e => rw [e]; exact cget_cput_self _ _ _ h
  · next e => exact cget_cput_other _ _ _ _ h e
theorem State.queue_modQueue (s : State) (i j : Nat) (f : Queue → Queue) (h : canonical {} s.queues = true) :
    (s.modQueue i f).queue j = if j = i then f (s.queue i) else s.queue j := by
  unfold State.modQueue State.queue
  split
  · next e => rw [e]; exact cget_cput_self _ _ _ h
  · next e => exact cget_cput_other _ _ _ _ h e
theorem State.profile_modProfile (s : State) (i j : Nat) (f : Profile → Profile) (h : canonical {} s.profiles = true) :
    (s.modProfile i f).profile j = if j = i then f (s.profile i) else s.profile j := by
  unfold State.modProfile State.profile
  split
  · next e => rw [e]; exact cget_cput_self _ _ _ h
  · next e => exact cget_cput_other _ _ _ _ h e
theorem State.sched_modSched (s : State) (i j : Nat) (f : Sched → Sched) (h : canonical {} s.scheds = true) :
    (s.modSched i f).sched j = if j = i then f (s.sched i) else s.sched j := by
  unfold State.modSched State.sched
  split
  · next e => rw [e]; exact cget_cput_self _ _ _ h
  · next e => exact cget_cput_other _ _ _ _ h e
theorem State.stage_modStage (s : State) (i j : Nat) (f : Stage → Stage) (h : canonical {} s.stages = true) :
    (s.modStage i f).stage j = if j = i then f (s.stage i) else s.stage j := by
  unfold State.modStage State.stage
  split
  · next e => rw [e]; exact cget_cput_self _ _ _ h
  · next e => exact cget_cput_other _ _ _ _ h e
theorem State.sap_modSap (s : State) (i j : Nat) (f : Sap → Sap) (h : canonical {} s.saps = true) :
    (s.modSap i f).sap j = if j = i then f (s.sap i) else s.sap j := by
  unfold State.modSap State.sap
  split
  · next e => rw [e]; exact cget_cput_self _ _ _ h
  · next e => exact cget_cput_other _ _ _ _ h e
theorem State.channel_modChannel (s : State) (i j : Nat) (f : Channel → Channel) (h : canonical {} s.bellows.channels = true) :
    (s.modChannel i f).channel j = if j = i then f (s.channel i) else s.channel j := by
  unfold State.modChannel State.channel
  split
  · next e => rw [e]; exact cget_cput_self _ _ _ h
  · next e => exact cget_cput_other _ _ _ _ h e
theorem State.linkSt_modLink (s : State) (i j : Nat) (f : LinkSt → LinkSt) (h : canonical {} s.bellows.links = true) :
    (s.modLink i f).linkSt j = if j = i then f (s.linkSt i) else s.linkSt j := by
  unfold State.modLink State.linkSt
  split
  · next e => rw [e]; exact cget_cput_self _ _ _ h
  · next e => exact cget_cput_other _ _ _ _ h e
theorem State.klink_modKlink (s : State) (i j : Nat) (f : KLink → KLink) (h : canonical {} s.kl.links = true) :
    (s.modKlink i f).klink j = if j = i then f (s.klink i) else s.klink j := by
  unfold State.modKlink State.klink
  split
  · next e => rw [e]; exact cget_cput_self _ _ _ h
  · next e => exact cget_cput_other _ _ _ _ h e
theorem State.kimg_modKimg (s : State) (i j : Nat) (f : KImg → KImg) (h : canonical {} s.kl.imgs = true) :
    (s.modKimg i f).kimg j = if j = i then f (s.kimg i) else s.kimg j := by
  unfold State.modKimg State.kimg
  split
  · next e => rw [e]; exact cget_cput_self _ _ _ h
  · next e => exact cget_cput_other _ _ _ _ h e
theorem State.counts_modCounts (s : State) (i j : Nat) (f : ProtCounts → ProtCounts) (h : canonical {} s.prot.counts = true) :
    (s.modCounts i f).counts j = if j = i then f (s.counts i) else s.counts j := by
  unfold State.modCounts State.counts
  split
  · next e => rw [e]; exact cget_cput_self _ _ _ h
  · next e => exact cget_cput_other _ _ _ _ h e
theorem State.sess_setSess (s : State) (i j : Nat) (x : Session) (h : canonical {} s.sessions = true) :
    (s.setSess i x).sess j = if j = i then x else s.sess j := by
  unfold State.setSess State.sess
  split
  · next e => rw [e]; exact cget_cput_self _ _ _ h
  · next e => exact cget_cput_other _ _ _ _ h e
theorem State.sess_modSess (s : State) (i j : Nat) (f : Session → Session) (h : canonical {} s.sessions = true) :
    (s.modSess i f).sess j = if j = i ∧ i < 8 then f (s.sess i) else s.sess j := by
  unfold State.modSess
  split
  · next hi => rw [State.sess_setSess _ _ _ _ h]; simp [hi]
  · next hi => simp [hi]
theorem State.modSess_of_lt (s : State) (i : Nat) (f : Session → Session) (h : i < 8) :
    s.modSess i f = s.setSess i (f (s.sess i)) := by simp [State.modSess, h]
theorem State.setTier_tier (s : State) (t u : Nat) (x : Tier) (ht : t < 4) (hu : u < 4) :
    (s.setTier t x).tier u = if u = t then x else s.tier u := by
  rcases t with _ | _ | _ | _ | t <;> rcases u with _ | _ | _ | _ | u <;> first | rfl | omega

end Sys2Proof.Machine
end

