-- ==== Sys2Proof/Laws/Commands.lean ====
section
/-! SUPPORT. What the shared operations of the commands answer: the end of a command, an access by a reader, a request. -/

namespace Sys2Proof.Machine

theorem done_def (s : State) : done s = .next s.settle := by rw [done]

/-- A register command by a reader that reaches its block. -/
theorem byReader_acts {w : Reach} {r : Nat} {f : State → State} {s : State} (h : s.actsAs w r = true) :
    byReader w r f s = .next (f s).settle := by rw [byReader, if_pos h, done]

/-- The SMBus port outside its subset. -/
theorem byReader_denied {w : Reach} {f : State → State} {s : State} (h : s.actsAs w 8 = false)
    (hs : s.pwr.standbyOn = true) :
    byReader w 8 f s = .next (State.settle { s with pwr := { s.pwr with denied := true } }) := by
  rw [byReader, h, hs, done, denied]
  rfl

/-- A request of an open session that is neither waiting nor answered already is counted and executed. -/
theorem serveOpt_executes {typ : Byte} {q : Req} {f : State → Option Reply × State} {s : State} (h : s.executes q = true) :
    serveOpt typ q f s = match f (s.counted q) with
      | (some y, t) => answer typ q y t
      | (none, t) => t := by
  simp only [State.executes, Bool.and_eq_true, Bool.not_eq_true', decide_eq_true_eq, Option.isNone_iff_eq_none] at h
  obtain ⟨⟨⟨⟨⟨h1, h2⟩, h3⟩, h4⟩, h5⟩, h6⟩ := h
  simp only [serveOpt, h1, h2, h3, h4, h5, h6, State.counted, Bool.not_true, decide_true, Bool.and_self, if_false,
    Bool.false_eq_true]
  all_goals rfl

theorem serve_executes {typ : Byte} {q : Req} {f : State → Reply × State} {s : State} (h : s.executes q = true) :
    serve typ q f s = answer typ q (f (s.counted q)).1 (f (s.counted q)).2 := by
  simp [serve, serveOpt_executes h]

/-- A service that is not barred and well formed runs. -/
theorem service_runs {typ : Byte} {who : Who} {zeroised : Bool} {q : Req} {f : State → Reply × State} {s : State}
    (h : s.executes q = true) (hb : serviceBarred who false zeroised q (s.counted q) = none) :
    service typ who zeroised true q f s = .next (State.settle (answer typ q (f (s.counted q)).1 (f (s.counted q)).2)) := by
  rw [service, done, serve_executes h, hb]
  rfl

theorem service_barred {typ : Byte} {who : Who} {zeroised form : Bool} {q : Req} {f : State → Reply × State} {s : State}
    {y : Reply} (h : s.executes q = true) (hb : serviceBarred who false zeroised q (s.counted q) = some y) :
    service typ who zeroised form q f s = .next (State.settle (answer typ q y (s.counted q))) := by
  rw [service, done, serve_executes h, hb]

/-! ## From a meaning to its answer -/

theorem exec_done {i : Instr} {s a t : State} (e : exec i s = done a) (h : a = t) : exec i s = .next t.settle := by
  rw [e, done, h]

theorem exec_byReader {i : Instr} {w : Reach} {r : Nat} {f : State → State} {s t : State} (e : exec i s = byReader w r f s)
    (h : s.actsAs w r = true) (ht : f s = t) : exec i s = .next t.settle := by rw [e, byReader_acts h, ht]

theorem exec_serve {i : Instr} {typ : Byte} {q : Req} {f : State → Reply × State} {s u t : State} {y : Reply}
    (e : exec i s = done (serve typ q f u)) (h : u.executes q = true) (ht : f (u.counted q) = (y, t)) :
    exec i s = .next (State.settle (answer typ q y t)) := by rw [e, done, serve_executes h, ht]

theorem exec_service {i : Instr} {typ : Byte} {who : Who} {z form : Bool} {q : Req} {f : State → Reply × State}
    {s t : State} {y : Reply} (e : exec i s = service typ who z form q f s) (h : s.executes q = true)
    (hb : serviceBarred who false z q (s.counted q) = none) (hf : form = true) (ht : f (s.counted q) = (y, t)) :
    exec i s = .next (State.settle (answer typ q y t)) := by rw [e, hf, service_runs h hb, ht]

theorem resetAfter_off {s : State} (h : s.pwr.resetReq = false) : resetAfter s = s := by simp [resetAfter, h]

theorem countCe_plain {s : State} {tier : Nat} {ws : List Nat} (hc : (s.tier tier).chk = []) : countCe tier ws s = s := by
  simp [countCe, hc]

theorem writeMem_plain {s : State} {tier : Nat} {a : Nat} {bs : List Byte} (hc : (s.tier tier).chk = []) :
    writeMem tier a bs s = s.setTier tier { s.tier tier with bytes := cputs 0 a bs (s.tier tier).bytes } := by
  simp [writeMem, countCe_plain hc, Tier.write, hc, State.each]

/-! ## Sending: only the port, the events, the interrupt bits and the messages out change -/

theorem macsecSend_frame {s t : State} (h : macsecSend s = some t) :
    t = { s with eth := t.eth, sessions := t.sessions, bureau := t.bureau } := by
  unfold macsecSend at h
  repeat' split at h
  all_goals first | contradiction | skip
  · dsimp only at h
    rw [Option.some.injEq] at h
    subst h
    repeat' split
    all_goals rfl
  · cases h
    rfl

theorem sendOut_frame (m : Out) (s : State) : sendOut m s = { s with
    eth := (sendOut m s).eth, sessions := (sendOut m s).sessions, bureau := (sendOut m s).bureau
    outbox := (sendOut m s).outbox } := by
  unfold sendOut
  split
  · split
    · next h => rw [macsecSend_frame h]
    · rfl
  · rfl

@[simp] theorem sendOut_pending (m : Out) (s : State) : (sendOut m s).pending = s.pending := by rw [sendOut_frame]
@[simp] theorem sendOut_readers (m : Out) (s : State) : (sendOut m s).readers = s.readers := by rw [sendOut_frame]
@[simp] theorem sendOut_smbOff (m : Out) (s : State) : (sendOut m s).smbOff = s.smbOff := by rw [sendOut_frame]
@[simp] theorem sendOut_tl (m : Out) (s : State) : (sendOut m s).tl = s.tl := by rw [sendOut_frame]
@[simp] theorem sendOut_period (m : Out) (s : State) : (sendOut m s).period = s.period := by rw [sendOut_frame]
@[simp] theorem sendOut_stats (m : Out) (s : State) : (sendOut m s).stats = s.stats := by rw [sendOut_frame]
@[simp] theorem sendOut_quant (m : Out) (s : State) : (sendOut m s).quant = s.quant := by rw [sendOut_frame]
@[simp] theorem sendOut_cells (m : Out) (s : State) : (sendOut m s).cells = s.cells := by rw [sendOut_frame]
@[simp] theorem sendOut_cleared (m : Out) (s : State) : (sendOut m s).cleared = s.cleared := by rw [sendOut_frame]
@[simp] theorem sendOut_fed (m : Out) (s : State) : (sendOut m s).fed = s.fed := by rw [sendOut_frame]
@[simp] theorem sendOut_resident (m : Out) (s : State) : (sendOut m s).resident = s.resident := by rw [sendOut_frame]
@[simp] theorem sendOut_rng (m : Out) (s : State) : (sendOut m s).rng = s.rng := by rw [sendOut_frame]
@[simp] theorem sendOut_image (m : Out) (s : State) : (sendOut m s).image = s.image := by rw [sendOut_frame]
@[simp] theorem sendOut_scheds (m : Out) (s : State) : (sendOut m s).scheds = s.scheds := by rw [sendOut_frame]
@[simp] theorem sendOut_stages (m : Out) (s : State) : (sendOut m s).stages = s.stages := by rw [sendOut_frame]
@[simp] theorem sendOut_admitted (m : Out) (s : State) : (sendOut m s).admitted = s.admitted := by rw [sendOut_frame]
@[simp] theorem sendOut_orders (m : Out) (s : State) : (sendOut m s).orders = s.orders := by rw [sendOut_frame]
@[simp] theorem sendOut_bellows (m : Out) (s : State) : (sendOut m s).bellows = s.bellows := by rw [sendOut_frame]
@[simp] theorem sendOut_streams (m : Out) (s : State) : (sendOut m s).streams = s.streams := by rw [sendOut_frame]
@[simp] theorem sendOut_queues (m : Out) (s : State) : (sendOut m s).queues = s.queues := by rw [sendOut_frame]
@[simp] theorem sendOut_profiles (m : Out) (s : State) : (sendOut m s).profiles = s.profiles := by rw [sendOut_frame]
@[simp] theorem sendOut_profCap (m : Out) (s : State) : (sendOut m s).profCap = s.profCap := by rw [sendOut_frame]
@[simp] theorem sendOut_txn (m : Out) (s : State) : (sendOut m s).txn = s.txn := by rw [sendOut_frame]
@[simp] theorem sendOut_mem (m : Out) (s : State) : (sendOut m s).mem = s.mem := by rw [sendOut_frame]
@[simp] theorem sendOut_prot (m : Out) (s : State) : (sendOut m s).prot = s.prot := by rw [sendOut_frame]
@[simp] theorem sendOut_tag (m : Out) (s : State) : (sendOut m s).tag = s.tag := by rw [sendOut_frame]
@[simp] theorem sendOut_kl (m : Out) (s : State) : (sendOut m s).kl = s.kl := by rw [sendOut_frame]
@[simp] theorem sendOut_saps (m : Out) (s : State) : (sendOut m s).saps = s.saps := by rw [sendOut_frame]
@[simp] theorem sendOut_wclkEn (m : Out) (s : State) : (sendOut m s).wclkEn = s.wclkEn := by rw [sendOut_frame]
@[simp] theorem sendOut_sec (m : Out) (s : State) : (sendOut m s).sec = s.sec := by rw [sendOut_frame]
@[simp] theorem sendOut_pwr (m : Out) (s : State) : (sendOut m s).pwr = s.pwr := by rw [sendOut_frame]
@[simp] theorem sendOut_free (m : Out) (s : State) : (sendOut m s).free = s.free := by rw [sendOut_frame]

/-! ## Upsets -/

/-- Upsets change memory alone. -/
theorem applyUpsets_frame (ups : List Upset) (s : State) : applyUpsets ups s = { s with mem := (applyUpsets ups s).mem } := by
  unfold applyUpsets State.each
  induction ups generalizing s with
  | nil => rfl
  | cons u t ih =>
    rw [List.foldl_cons, ih]
    split
    · rw [State.setTier, State.modMem]
    · rfl

/-! ## Requests -/

/-- Every request of the table is served once the upsets that fell before it are applied. -/
theorem exec_request {c : Instr} {typ : Byte} {q : Req} (s : State) (h : c.request? = some (typ, q)) :
    ∃ f, exec c s = .next (State.settle (serveOpt typ q f (c.before s))) ∨
      exec c s = .next (State.settle (resetAfter (serveOpt typ q f (c.before s)))) := by
  cases c <;> simp only [Instr.request?, Option.some.injEq, reduceCtorEq, Prod.mk.injEq] at h
  all_goals obtain ⟨rfl, rfl⟩ := h
  · exact ⟨_, .inl (by unfold exec execSessionClose; exact done_def _)⟩
  · exact ⟨_, .inl (by unfold exec execNop; exact done_def _)⟩
  · exact ⟨_, .inl (by unfold exec execRegRead; exact done_def _)⟩
  · exact ⟨_, .inr (by unfold exec execRegWrite; exact done_def _)⟩
  · exact ⟨_, .inl (by unfold exec execMemRead; exact done_def _)⟩
  · exact ⟨_, .inl (by unfold exec execMemWrite; exact done_def _)⟩
  · exact ⟨_, .inl (by unfold exec execStreamOpen; exact done_def _)⟩
  · exact ⟨_, .inl (by unfold exec execSubmit; exact done_def _)⟩
  · exact ⟨_, .inl (by unfold exec execStreamBind; exact done_def _)⟩
  · exact ⟨_, .inl (by unfold exec execDestWrite; exact done_def _)⟩
  · exact ⟨_, .inl (by unfold exec execDestRead; exact done_def _)⟩
  · exact ⟨_, .inl (by unfold exec execCoChallenge service; exact done_def _)⟩
  · exact ⟨_, .inl (by unfold exec execCoAuth service; exact done_def _)⟩
  · exact ⟨_, .inl (by unfold exec execCoEnrol service; exact done_def _)⟩
  · exact ⟨_, .inl (by unfold exec execAttest service; exact done_def _)⟩
  · exact ⟨_, .inl (by unfold exec execCertRead service; exact done_def _)⟩
  · exact ⟨_, .inl (by unfold exec execKeyAgree service; exact done_def _)⟩
  · exact ⟨_, .inl (by unfold exec execSakLoad service; exact done_def _)⟩
  · exact ⟨_, .inl (by unfold exec execSaCtrl service; exact done_def _)⟩
  · exact ⟨_, .inl (by unfold exec execMarkKeyLoad service; exact done_def _)⟩
  · exact ⟨_, .inl (by unfold exec execSvnCommit service; exact done_def _)⟩
  · exact ⟨_, .inl (by unfold exec execKeyRevoke service; exact done_def _)⟩
  · exact ⟨_, .inl (by unfold exec execFwWrite service; exact done_def _)⟩
  · exact ⟨_, .inl (by unfold exec execZeroise; exact done_def _)⟩
  · exact ⟨_, .inl (by unfold exec execSelftest service; exact done_def _)⟩
  · exact ⟨_, .inl (by unfold exec execRandom service; exact done_def _)⟩

/-! ## Register commands -/

/-- Every register command of `access?` is its effect where its reader reaches the register. -/
theorem exec_access {c : Instr} {w : Reach} {r : Nat} (s : State) (h : c.access? = some (w, r)) :
    ∃ f, exec c s = byReader w r f s := by
  cases c <;> simp only [Instr.access?, Option.some.injEq, reduceCtorEq, Prod.mk.injEq] at h
  all_goals obtain ⟨rfl, rfl⟩ := h
  · exact ⟨_, by rw [exec_secZeroise, execSecZeroise]⟩
  · exact ⟨_, by rw [exec_ethPtpCfg, execEthPtpCfg]⟩
  · exact ⟨_, by rw [exec_tlLoad, execTlLoad]⟩
  · exact ⟨_, by rw [exec_tlStep, execTlStep]⟩
  · exact ⟨_, by rw [exec_tlCtrl, execTlCtrl]⟩
  · exact ⟨_, by rw [exec_tlStatLen, execTlStatLen]⟩
  · exact ⟨_, by rw [exec_tlPosLo, execTlPosLo]⟩
  · exact ⟨_, by rw [exec_chSubmit, execChSubmit]⟩
  · exact ⟨_, by rw [exec_chRestart, execChRestart]⟩
  · exact ⟨_, by rw [exec_start, execStart]⟩
  · exact ⟨_, by rw [exec_stop, execStop]⟩
  · exact ⟨_, by rw [exec_park, execPark]⟩
  · exact ⟨_, by rw [exec_resume, execResume]⟩
  · exact ⟨_, by rw [exec_close, execClose]⟩
  · exact ⟨_, by rw [exec_abort, execAbort]⟩
  · exact ⟨_, by rw [exec_streamLoHalfWrite, execStreamLoHalfWrite]⟩
  · exact ⟨_, by rw [exec_streamSeedHi, execStreamSeedHi]⟩
  · exact ⟨_, by rw [exec_streamInvT, execStreamInvT]⟩
  · exact ⟨_, by rw [exec_streamStartHi, execStreamStartHi]⟩
  · exact ⟨_, by rw [exec_streamParkHi, execStreamParkHi]⟩
  · exact ⟨_, by rw [exec_queueHead, execQueueHead]⟩
  · exact ⟨_, by rw [exec_store, execStore]⟩
  · exact ⟨_, by rw [exec_delete, execDelete]⟩
  · exact ⟨_, by rw [exec_prefetch, execPrefetch]⟩
  · exact ⟨_, by rw [exec_txnAppend, execTxnAppend]⟩
  · exact ⟨_, by rw [exec_txnSubmit, execTxnSubmit]⟩
  · exact ⟨_, by rw [exec_txnClear, execTxnClear]⟩
  · exact ⟨_, by rw [exec_txnCancel, execTxnCancel]⟩
  · exact ⟨_, by rw [exec_intEnable, execIntEnable]⟩
  · exact ⟨_, by rw [exec_intDest, execIntDest]⟩
  · exact ⟨_, by rw [exec_imageLen, execImageLen]⟩
  · exact ⟨_, by rw [exec_verify, execVerify]⟩
  · exact ⟨_, by rw [exec_activate, execActivate]⟩
  · exact ⟨_, by rw [exec_deactivate, execDeactivate]⟩
  · exact ⟨_, by rw [exec_discard, execDiscard]⟩
  · exact ⟨_, by rw [exec_klCtrl, execKlCtrl]⟩
  · exact ⟨_, by rw [exec_klLinkPeer, execKlLinkPeer]⟩
  · exact ⟨_, by rw [exec_klRingMember, execKlRingMember]⟩
  · exact ⟨_, by rw [exec_ethDevAddr, execEthDevAddr]⟩
  · exact ⟨_, by rw [exec_sapCmdStart, execSapCmdStart]⟩
  · exact ⟨_, by rw [exec_startExt, execStartExt]⟩
  · exact ⟨_, by rw [exec_sapCmdStop, execSapCmdStop]⟩
  · exact ⟨_, by rw [exec_stopNow, execStopNow]⟩
  · exact ⟨_, by rw [exec_sapCmdCancel, execSapCmdCancel]⟩
  · exact ⟨_, by rw [exec_sapMask, execSapMask]⟩
  · exact ⟨_, by rw [exec_sapSlotMap, execSapSlotMap]⟩
  · exact ⟨_, by rw [exec_rngTestOutLo, execRngTestOutLo]⟩
  · exact ⟨_, by rw [exec_evrecData0, execEvrecData0]⟩
  · exact ⟨_, by rw [exec_evrecData7, execEvrecData7]⟩
  · exact ⟨_, by rw [exec_evrecCtrl, execEvrecCtrl]⟩
  · exact ⟨_, by rw [exec_standby, execStandby]⟩
  · exact ⟨_, by rw [exec_wake, execWake]⟩
  · exact ⟨_, by rw [exec_pwrReset, execPwrReset]⟩
  · exact ⟨_, by rw [exec_pwrEnergyLo, execPwrEnergyLo]⟩

end Sys2Proof.Machine
end

