-- ==== Sys2Proof/Laws/Memory.lean ====
section
/-! SUPPORT. Every operation on stored data keeps its canonical form, and reset memory has it. -/

namespace Sys2Proof.Machine

theorem Tier.wf_iff (t : Tier) : t.wf = true ↔
    canonical 0 t.bytes = true ∧ canonical 0 t.tags = true ∧ canonical 0 t.chk = true ∧ canonical 0 t.par = true ∧
      canonical 0 t.aux = true := by
  simp [Tier.wf, and_assoc]

@[simp] theorem Tier.wf_empty : ({} : Tier).wf = true := rfl
@[simp] theorem reset_mem_wf : State.reset.mem.wf = true := rfl

/-! ## Tiers -/

theorem Tier.wf_addPar {t : Tier} (h : t.wf = true) (page i k v : Nat) : (t.addPar page i k v).wf = true := by
  rw [Tier.wf_iff] at h ⊢
  exact ⟨h.1, h.2.1, h.2.2.1, canonical_cput _ _ _ h.2.2.2.1, h.2.2.2.2⟩

theorem Tier.wf_shiftPar {t : Tier} (h : t.wf = true) (a v : Nat) : (t.shiftPar a v).wf = true := by
  unfold Tier.shiftPar
  split
  · exact h
  · dsimp only
    split
    · exact wf_addPar (wf_addPar (wf_addPar (wf_addPar h ..) ..) ..) ..
    · exact h

theorem Tier.wf_flip {t : Tier} (h : t.wf = true) (a v : Nat) : (t.flip a v).wf = true := by
  unfold Tier.flip
  split
  · exact h
  · have h1 : Tier.wf { t with chk := cput 0 (a / 8) (cget 0 t.chk (a / 8) ^^^
        BitVec.ofNat 8 (checkByte (v <<< (8 * (a % 8))))) t.chk } = true := by
      rw [Tier.wf_iff] at h ⊢
      exact ⟨h.1, h.2.1, canonical_cput _ _ _ h.2.2.1, h.2.2.2⟩
    have h2 := wf_shiftPar h1 a v
    rw [Tier.wf_iff] at h2 ⊢
    exact ⟨canonical_cput _ _ _ h2.1, h2.2⟩

theorem Tier.wf_flipAux {t : Tier} (h : t.wf = true) (w b : Nat) (m : Byte) : (t.flipAux w b m).wf = true := by
  rw [Tier.wf_iff] at h ⊢
  exact ⟨h.1, h.2.1, h.2.2.1, h.2.2.2.1, canonical_cput _ _ _ h.2.2.2.2⟩

theorem Tier.wf_upset {t : Tier} (h : t.wf = true) (u : Upset) : (t.upset u).wf = true := by
  unfold Tier.upset
  split
  · exact wf_flip h ..
  · rw [Tier.wf_iff] at h ⊢
    exact ⟨h.1, h.2.1, canonical_cput _ _ _ h.2.2.1, h.2.2.2⟩
  · exact wf_flipAux h ..
  · exact wf_flipAux h ..
  · exact wf_flipAux h ..
  · exact wf_flipAux h ..

theorem Tier.wf_poisonWord {t : Tier} (h : t.wf = true) (w v : Nat) : (t.poisonWord w v).wf = true := by
  rw [Tier.wf_iff] at h ⊢
  exact ⟨canonical_cputs _ _ _ h.1, h.2.1, canonical_cput _ _ _ h.2.2.1, h.2.2.2⟩

theorem Tier.wf_putWord {t : Tier} (h : t.wf = true) (w v : Nat) : (t.putWord w v).wf = true := by
  unfold Tier.putWord
  split
  all_goals
    first
      | rw [Tier.wf_iff] at h ⊢
        exact ⟨canonical_cputs _ _ _ h.1, h.2.1, canonical_cput _ _ _ h.2.2.1, h.2.2.2⟩
      | skip
  rename_i i _
  have h := wf_shiftPar h (8 * w + i / 8) (2 ^ (i % 8))
  rw [Tier.wf_iff] at h ⊢
  exact ⟨canonical_cputs _ _ _ h.1, h.2.1, canonical_cput _ _ _ h.2.2.1, h.2.2.2⟩

theorem Tier.wf_markStale {t : Tier} (h : t.wf = true) (page : Nat) : (t.markStale page).wf = true := by
  unfold Tier.markStale
  split <;> exact h

theorem Tier.wf_mergeWord {t : Tier} (h : t.wf = true) (w off : Nat) (bs : List Byte) (p : List Nat) :
    (t.mergeWord w off bs p).1.wf = true := by
  unfold Tier.mergeWord
  simp only
  split
  · split
    · exact wf_putWord (wf_markStale h _) ..
    · exact wf_poisonWord (wf_markStale h _) ..
  · split
    · exact wf_putWord h ..
    · exact wf_poisonWord h ..
  · exact wf_putWord h ..

theorem Tier.wf_writeAux (fuel : Nat) {t : Tier} (h : t.wf = true) (a : Nat) (bs : List Byte) (p : List Nat) :
    (Tier.writeAux fuel t a bs p).1.wf = true := by
  induction fuel generalizing t a bs p with
  | zero => exact h
  | succ n ih =>
    unfold Tier.writeAux
    split
    · exact h
    · exact ih (wf_mergeWord h ..) ..

theorem Tier.wf_write {t : Tier} (h : t.wf = true) (a : Nat) (bs : List Byte) : (t.write a bs).1.wf = true := by
  unfold Tier.write
  split
  · rw [Tier.wf_iff] at h ⊢
    exact ⟨canonical_cputs _ _ _ h.1, h.2⟩
  · exact wf_writeAux _ h ..

theorem Tier.wf_freshPar {t : Tier} (h : t.wf = true) (page : Nat) : (t.freshPar page).wf = true := by
  rw [Tier.wf_iff] at h ⊢
  exact ⟨h.1, h.2.1, h.2.2.1, canonical_filter _ _ h.2.2.2.1, h.2.2.2.2⟩

theorem Tier.wf_poisonAll {t : Tier} (h : t.wf = true) (ws : List Nat) : (t.poisonAll ws).wf = true := by
  unfold Tier.poisonAll
  induction ws generalizing t with
  | nil => exact h
  | cons w ws ih => exact ih (wf_poisonWord h ..)

theorem Tier.wf_settle {t : Tier} (h : t.wf = true) (page : Nat) : (t.settle page).1.wf = true := by
  unfold Tier.settle
  generalize pageWords page = ws
  split
  · exact wf_freshPar (wf_poisonAll h _) page
  · exact h

/-- A fold that keeps a property of its state. -/
theorem foldl_keeps {β γ : Type} (P : β → Prop) (f : β → γ → β) (hf : ∀ b c, P b → P (f b c)) (l : List γ) (b : β) (hb : P b) :
    P (l.foldl f b) := by
  induction l generalizing b with
  | nil => exact hb
  | cons c l ih => exact ih _ (hf b c hb)

theorem Tier.wf_settleAux {t : Tier} (h : t.wf = true) (page : Nat) : (t.settleAux page).wf = true := by
  unfold Tier.settleAux
  split
  · rw [Tier.wf_iff] at h ⊢
    refine ⟨h.1, h.2.1, h.2.2.1, ?_, canonical_filter _ _ h.2.2.2.2⟩
    generalize List.range 128 = l
    exact foldl_keeps (fun m : Cells Byte => canonical 0 m = true) _ (fun m i hm => canonical_cput m _ _ hm) l t.par h.2.2.2.1
  · exact h

theorem Tier.wf_fixPage {t : Tier} (h : t.wf = true) (page : Nat) : (t.fixPage page).1.wf = true := by
  unfold Tier.fixPage
  refine foldl_keeps (fun acc : Tier × Nat => acc.1.wf = true) _ ?_ _ _ (wf_settleAux h page)
  intro acc i hacc
  simp only
  split
  · exact hacc
  · refine foldl_keeps (fun t : Tier => t.wf = true) _ ?_ _ _ hacc
    intro t f ht
    cases f with
    | data j v => exact wf_flip ht ..
    | par k v => exact wf_addPar ht ..

theorem Tier.wf_repair {t : Tier} (h : t.wf = true) (page : Nat) : (t.repair page).1.wf = true := by
  have h1 := wf_fixPage h page
  have h2 : ∀ ws : List Nat, (ws.foldl (fun t w => t.putWord w (t.decoded w)) (t.fixPage page).1).wf = true :=
    fun ws => foldl_keeps (fun t : Tier => t.wf = true) _ (fun t w ht => wf_putWord ht ..) _ _ h1
  unfold Tier.repair
  generalize pageWords page = ws
  dsimp only
  split
  · exact h2 _
  · exact wf_freshPar (wf_poisonAll (h2 _) _) page

theorem Tier.wf_setTag {t : Tier} (h : t.wf = true) (g : Nat) (v : W32) : (t.setTag g v).wf = true := by
  unfold Tier.setTag
  dsimp only
  split
  · rw [Tier.wf_iff] at h ⊢
    exact ⟨h.1, canonical_cput _ _ _ h.2.1, h.2.2⟩
  · rw [Tier.wf_iff] at h ⊢
    exact ⟨h.1, canonical_cput _ _ _ (canonical_cput _ _ _ h.2.1), h.2.2.1, h.2.2.2.1, canonical_cput _ _ _ h.2.2.2.2⟩

theorem Tier.wf_zeroed {t : Tier} (h : t.wf = true) (a b : Nat) : (t.zeroed a b).wf = true := by
  rw [Tier.wf_iff] at h ⊢
  exact ⟨canonical_filter _ _ h.1, canonical_filter _ _ h.2.1, canonical_filter _ _ h.2.2.1, canonical_filter _ _ h.2.2.2.1,
    canonical_filter _ _ h.2.2.2.2⟩

/-! ## The machine's memory -/

theorem Mem.wf_iff (m : Mem) : m.wf = true ↔ m.t0.wf = true ∧ m.t1.wf = true ∧ m.t2.wf = true ∧ m.t3.wf = true := by
  simp [Mem.wf, and_assoc]

theorem wf_tier {s : State} (h : s.mem.wf = true) (t : Nat) : (s.tier t).wf = true := by
  rw [Mem.wf_iff] at h
  unfold State.tier
  split
  · exact h.1
  · exact h.2.1
  · exact h.2.2.1
  · exact h.2.2.2

theorem wf_setTier {s : State} (h : s.mem.wf = true) (t : Nat) {x : Tier} (hx : x.wf = true) : (s.setTier t x).mem.wf = true := by
  rw [Mem.wf_iff] at h ⊢
  unfold State.setTier State.modMem
  split
  · exact ⟨hx, h.2⟩
  · exact ⟨h.1, hx, h.2.2⟩
  · exact ⟨h.1, h.2.1, hx, h.2.2.2⟩
  · exact ⟨h.1, h.2.1, h.2.2.1, hx⟩

theorem wf_each {α : Type} {s : State} (h : s.mem.wf = true) (l : List α) (f : State → α → State)
    (hf : ∀ s a, s.mem.wf = true → (f s a).mem.wf = true) : (s.each l f).mem.wf = true :=
  foldl_keeps (fun s : State => s.mem.wf = true) f hf l s h

@[simp] theorem record_mem (c : W16) (a b d e : W32) (s : State) : (record c a b d e s).mem = s.mem := rfl
@[simp] theorem fire_mem (n : Nat) (s : State) : (fire n s).mem = s.mem := rfl
@[simp] theorem modCounts_mem (t : Nat) (f : ProtCounts → ProtCounts) (s : State) : (s.modCounts t f).mem = s.mem := rfl
@[simp] theorem protSet_mem (b : BitVec 3) (s : State) : (protSet b s).mem = s.mem := by
  unfold protSet
  split <;> rfl
@[simp] theorem reportPoison_mem (t p : Nat) (ws : List Nat) (s : State) : (reportPoison t p ws s).mem = s.mem := by
  unfold reportPoison
  split
  · rfl
  · simp [State.modCounts]
@[simp] theorem queueRepair_mem (t p : Nat) (s : State) : (queueRepair t p s).mem = s.mem := by
  unfold queueRepair State.modDev State.modCounts
  simp only
  split
  · rfl
  · split
    · rfl
    · split <;> rfl
@[simp] theorem countPoison_mem (t : Nat) (ws : List Nat) (s : State) : (countPoison t ws s).mem = s.mem := by
  unfold countPoison
  split <;> rfl
@[simp] theorem reportUe_mem (t w : Nat) (p : Bool) (a c st : Nat) (s : State) : (reportUe t w p a c st s).mem = s.mem := by
  unfold reportUe
  simp [State.modCounts]
@[simp] theorem countCe_mem (t : Nat) (ws : List Nat) (s : State) : (countCe t ws s).mem = s.mem := by
  unfold countCe
  simp only
  split <;> rfl

/-- Upsets keep memory canonical. -/
theorem wf_applyUpsets {s : State} (h : s.mem.wf = true) (ups : List Upset) : (applyUpsets ups s).mem.wf = true := by
  refine wf_each h ups _ ?_
  intro s u h
  split
  · exact wf_setTier h _ (Tier.wf_upset (wf_tier h _) u)
  · exact h

/-- A write keeps memory canonical. -/
theorem wf_writeMem {s : State} (h : s.mem.wf = true) (t a : Nat) (bs : List Byte) : (writeMem t a bs s).mem.wf = true := by
  have h1 : (countCe t (wordsOf a bs.length) s).mem.wf = true := by rw [countCe_mem]; exact h
  unfold writeMem
  dsimp only
  generalize countCe t (wordsOf a bs.length) s = u at h1
  exact wf_each (wf_setTier h1 t (Tier.wf_write (wf_tier h1 t) a bs)) _ _ (fun s w h => by rw [reportPoison_mem]; exact h)

/-- A fixed-path read leaves memory as it is. -/
@[simp] theorem readFixed_mem (c st t a n : Nat) (s : State) : (readFixed c st t a n s).2.mem = s.mem := by
  unfold readFixed
  simp only
  split <;> simp

/-- A page repair keeps memory canonical. -/
theorem wf_repairPage {s : State} (h : s.mem.wf = true) (t p : Nat) : (repairPage t p s).mem.wf = true := by
  have h1 := wf_setTier h t (Tier.wf_repair (Tier.wf_settle (wf_tier h t) p) p)
  unfold repairPage
  dsimp only
  rw [reportPoison_mem]
  split
  · rw [record_mem, protSet_mem, modCounts_mem, reportPoison_mem]
    exact h1
  · rw [protSet_mem, modCounts_mem, reportPoison_mem]
    exact h1

/-- A full-path read keeps memory canonical. -/
theorem wf_readFull {s : State} (h : s.mem.wf = true) (p t a n : Nat) : (readFull p t a n s).2.mem.wf = true := by
  have h1 : ∀ l : List Nat, ((countCe t (wordsOf a n) s).each l fun s p => repairPage t p s).mem.wf = true := by
    intro l
    refine wf_each (by simpa using h) l _ ?_
    intro s p h
    exact wf_repairPage h t p
  unfold readFull
  dsimp only
  split
  · rw [countPoison_mem]
    exact h1 _
  · rw [reportUe_mem, countPoison_mem]
    exact h1 _

/-- A tag that is set or made keeps memory canonical. -/
theorem wf_setTag {s : State} (h : s.mem.wf = true) (t g : Nat) (v : W32) : (setTag t g v s).mem.wf = true :=
  wf_setTier h t (Tier.wf_setTag (wf_tier h t) g v)

theorem wf_makeTag {s : State} (h : s.mem.wf = true) (t g st : Nat) (no : Bool) (q : Nat) :
    (makeTag t g st no q s).mem.wf = true := wf_setTag h ..

/-- A tagged write keeps memory canonical. -/
theorem wf_writeTagged {s : State} (h : s.mem.wf = true) (t a : Nat) (bs : List Byte) (st : Nat) (no : Bool) (f : Nat → Nat) :
    (writeTagged t a bs st no f s).mem.wf = true := by
  refine wf_each (wf_writeMem h t a bs) _ _ ?_
  intro s g h
  exact wf_makeTag h ..

/-- A granule's check leaves memory as it is. -/
@[simp] theorem checkGranule_mem (c t g st : Nat) (no : Bool) (q : Nat) (s : State) :
    (checkGranule c t g st no q s).2.mem = s.mem := by
  unfold checkGranule
  simp only
  split <;> simp_all
  all_goals
    rename_i h
    have := congrArg (fun x => x.2.mem) (rfl : readFixed c (if no then 0xFFFF else st) t (512 * g) 512 s = _)
    simp_all

/-! ## Reading what was written -/

/-- With no stored deviation, a byte outside a write reads as before. -/
theorem Tier.byte_write_other {t : Tier} (h : t.wf = true) (hc : t.chk = []) (a x : Nat) (bs : List Byte)
    (hx : x < a ∨ a + bs.length ≤ x) : (t.write a bs).1.byte x = t.byte x := by
  rw [Tier.wf_iff] at h
  simp only [Tier.write, hc, List.isEmpty_nil, if_true, Tier.byte]
  exact cget_cputs_other bs a x t.bytes h.1 hx

/-- With no stored deviation, a written byte is read back. -/
theorem Tier.byte_write {t : Tier} (h : t.wf = true) (hc : t.chk = []) (a i : Nat) (bs : List Byte) (hi : i < bs.length) :
    (t.write a bs).1.byte (a + i) = bs[i] := by
  rw [Tier.wf_iff] at h
  simp only [Tier.write, hc, List.isEmpty_nil, if_true, Tier.byte]
  exact cget_cputs bs a i t.bytes h.1 hi

end Sys2Proof.Machine
end

