-- ==== Sys2Proof/Laws/Keeps.lean ====
section
/-! SUPPORT. A command leaves the queue as it waits and memory in canonical form: the small operations, memory, streams. -/

namespace Sys2Proof.Machine

/-- What a command may do to the block as a whole: the commands behind it wait as they did, memory and the tables of
sessions and readers stay canonical. -/
structure Keeps (s t : State) : Prop where
  pending : t.pending = s.pending
  mem : s.mem.wf = true → t.mem.wf = true
  sess : canonical {} s.sessions = true → canonical {} t.sessions = true
  readers : canonical {} s.readers = true → canonical {} t.readers = true
theorem Keeps.refl (s : State) : Keeps s s := ⟨rfl, id, id, id⟩
theorem Keeps.trans {s t u : State} (h : Keeps s t) (k : Keeps t u) : Keeps s u := 
  ⟨k.pending.trans h.pending, fun x => k.mem (h.mem x), fun x => k.sess (h.sess x), fun x => k.readers (h.readers x)⟩
theorem Keeps.of_eq {α : Type} {s t : State} {p : α × State} {a : α} (h : p = (a, t)) (k : Keeps s p.2) : Keeps s t := by rw [h] at k; exact k
/-- The result of a command: a next state that keeps them. -/
def KeepsR (s : State) (r : Result) : Prop := ∃ t, r = .next t ∧ Keeps s t
theorem upd_keeps {s t : State} (h : Keeps s t) {x_smbOff} {x_tl} {x_period} {x_stats} {x_quant} {x_cleared} {x_fed} {x_cells} {x_resident} {x_rng} {x_image} {x_scheds} {x_stages} {x_admitted} {x_orders} {x_bellows} {x_streams} {x_queues} {x_profiles} {x_profCap} {x_txn} {x_prot} {x_tag} {x_eth} {x_kl} {x_saps} {x_wclkEn} {x_sec} {x_bureau} {x_pwr} {x_outbox} {x_free} : Keeps s (State.mk t.pending t.sessions t.readers x_smbOff x_tl x_period x_stats x_quant x_cleared x_fed x_cells x_resident x_rng x_image x_scheds x_stages x_admitted x_orders x_bellows x_streams x_queues x_profiles x_profCap x_txn t.mem x_prot x_tag x_eth x_kl x_saps x_wclkEn x_sec x_bureau x_pwr x_outbox x_free) :=
  ⟨h.pending, h.mem, h.sess, h.readers⟩
/-- An update of the tables of sessions and readers too. -/
theorem updT_keeps {s t : State} (h : Keeps s t) {xs} {xr} (hs : canonical {} t.sessions = true → canonical {} xs = true) (hr : canonical {} t.readers = true → canonical {} xr = true) {x_smbOff} {x_tl} {x_period} {x_stats} {x_quant} {x_cleared} {x_fed} {x_cells} {x_resident} {x_rng} {x_image} {x_scheds} {x_stages} {x_admitted} {x_orders} {x_bellows} {x_streams} {x_queues} {x_profiles} {x_profCap} {x_txn} {x_prot} {x_tag} {x_eth} {x_kl} {x_saps} {x_wclkEn} {x_sec} {x_bureau} {x_pwr} {x_outbox} {x_free} : Keeps s (State.mk t.pending xs xr x_smbOff x_tl x_period x_stats x_quant x_cleared x_fed x_cells x_resident x_rng x_image x_scheds x_stages x_admitted x_orders x_bellows x_streams x_queues x_profiles x_profCap x_txn t.mem x_prot x_tag x_eth x_kl x_saps x_wclkEn x_sec x_bureau x_pwr x_outbox x_free) :=
  ⟨h.pending, h.mem, fun x => hs (h.sess x), fun x => hr (h.readers x)⟩
theorem ite_keeps {s a b : State} {c : Prop} [Decidable c] (ha : c → Keeps s a) (hb : ¬c → Keeps s b) : Keeps s (if c then a else b) := by
  split <;> simp_all
theorem ite2_keeps {α : Type} {s : State} {a b : α × State} {c : Prop} [Decidable c] (ha : c → Keeps s a.2) (hb : ¬c → Keeps s b.2) : Keeps s (if c then a else b).2 := by
  split <;> simp_all
theorem iteR_keeps {s : State} {a b : Result} {c : Prop} [Decidable c] (ha : c → KeepsR s a) (hb : ¬c → KeepsR s b) : KeepsR s (if c then a else b) := by
  split <;> simp_all
theorem next_keeps {s t : State} (h : Keeps s t) : KeepsR s (.next t) := ⟨t, rfl, h⟩
theorem mk_keeps {α : Type} {s t : State} {a : α} (h : Keeps s t) : Keeps s (a, t).2 := h
theorem foldl_keeps' {α : Type} {s t : State} {l : List α} {f : State → α → State} (h : Keeps s t) (hf : ∀ u a, Keeps u (f u a)) : Keeps s (l.foldl f t) := by
  induction l generalizing t with
  | nil => exact h
  | cons a l ih => exact ih (h.trans (hf _ _))
theorem each_keeps {α : Type} {s t : State} {l : List α} {f : State → α → State} (h : Keeps s t) (hf : ∀ u a, Keeps u (f u a)) : Keeps s (t.each l f) :=
  foldl_keeps' h hf
theorem foldl2_keeps {α β : Type} {s : State} {p : β × State} {l : List α} {f : β × State → α → β × State} (h : Keeps s p.2) (hf : ∀ u a, Keeps u.2 (f u a).2) : Keeps s (l.foldl f p).2 := by
  induction l generalizing p with
  | nil => exact h
  | cons a l ih => exact ih (h.trans (hf _ _))
theorem State.modMem_keeps {o s : State} {f : Mem → Mem} (h : Keeps o s) (hf : s.mem.wf = true → (f s.mem).wf = true) : Keeps o (s.modMem f) :=
  ⟨h.pending, fun x => hf (h.mem x), h.sess, h.readers⟩
theorem State.setTier_keeps {o s : State} (h : Keeps o s) (t : Nat) {x : Tier} (hx : o.mem.wf = true → x.wf = true) : Keeps o (s.setTier t x) :=
  ⟨h.pending, fun w => wf_setTier (h.mem w) t (hx w), h.sess, h.readers⟩
theorem Keeps.tier {o s : State} (h : Keeps o s) (t : Nat) (w : o.mem.wf = true) : (s.tier t).wf = true := wf_tier (h.mem w) t

theorem wf_zeroRegions (m : Image) {t : Tier} (h : t.wf = true) : (zeroRegions m t).wf = true :=
  foldl_keeps (fun t : Tier => t.wf = true) _ (fun _ _ w => Tier.wf_zeroed w ..) _ _ h
theorem foldl3_keeps {α β γ : Type} {s : State} {p : β × γ × State} {l : List α} {f : β × γ × State → α → β × γ × State}
    (h : Keeps s p.2.2) (hf : ∀ u a, Keeps u.2.2 (f u a).2.2) : Keeps s (l.foldl f p).2.2 := by
  induction l generalizing p with
  | nil => exact h
  | cons a l ih => exact ih (h.trans (hf _ _))
theorem foldl4_keeps {α β γ δ : Type} {s : State} {p : β × γ × δ × State} {l : List α} {f : β × γ × δ × State → α → β × γ × δ × State}
    (h : Keeps s p.2.2.2) (hf : ∀ u a, Keeps u.2.2.2 (f u a).2.2.2) : Keeps s (l.foldl f p).2.2.2 := by
  induction l generalizing p with
  | nil => exact h
  | cons a l ih => exact ih (h.trans (hf _ _))
theorem optP_keeps {α : Type} {o s : State} {a : α} {r : Option (α × State)} (hr : r = some (a, s)) (h : ∀ x, r = some x → Keeps o x.2) : Keeps o s := h _ hr
theorem readThen_keeps {o : State} {r : Option (List Byte) × State} {f : List Byte → State → Option (List Byte) × State} (h : Keeps o r.2) (hf : ∀ (b : List Byte) {s : State}, Keeps o s → Keeps o (f b s).2) : Keeps o (readThen r f).2 := by
  obtain ⟨_ | b, t⟩ := r
  · exact h
  · exact hf b h
theorem chain_keeps {α β : Type} {o : State} {x : Got α} {f : α → State → Got β} (h : Keeps o x.2) (hf : ∀ (a : α) {s : State}, Keeps o s → Keeps o (f a s).2) : Keeps o (chain x f).2 := by
  obtain ⟨_ | b, t⟩ := x
  · exact h
  · exact hf b h
theorem gather_keeps {α β : Type} {o s : State} {f : α → State → Got β} {l : List α} (h : Keeps o s) (hf : ∀ (a : α) {s : State}, Keeps o s → Keeps o (f a s).2) : Keeps o (gather f l s).2 := by
  induction l generalizing s with
  | nil => exact h
  | cons a l ih =>
    have k := hf a h
    unfold gather
    generalize f a s = r at k ⊢
    obtain ⟨_ | b, t⟩ := r
    · exact k
    · have k' := ih k
      dsimp only
      generalize gather f l t = r' at k' ⊢
      obtain ⟨_ | c, u⟩ := r'
      · exact k'
      · exact k'

theorem State.setSess_keeps {o s : State} (h : Keeps o s)  (i : Nat) (x : Session) : Keeps o (State.setSess s i x) :=
  updT_keeps h (canonical_cput _ _ _) id

theorem State.modSess_keeps {o s : State} (h : Keeps o s) (i : Nat) (f : Session → Session) : Keeps o (State.modSess s i f) := by
  unfold State.modSess
  iterate 25 all_goals try first
    | with_reducible assumption
    | with_reducible apply State.setSess_keeps
    | split
    | with_reducible apply next_keeps
    | with_reducible apply upd_keeps

theorem State.modEth_keeps {o s : State} (h : Keeps o s) (f : Eth → Eth) : Keeps o (State.modEth s f) := by
  unfold State.modEth
  iterate 25 all_goals try first
    | with_reducible assumption
    | split
    | with_reducible apply next_keeps
    | with_reducible apply upd_keeps

theorem txDrop_keeps {o s : State} (h : Keeps o s) : Keeps o (txDrop s) := by
  unfold txDrop
  iterate 25 all_goals try first
    | with_reducible assumption
    | with_reducible apply State.modEth_keeps
    | split
    | with_reducible apply next_keeps
    | with_reducible apply upd_keeps

theorem fire_keeps {o s : State} (h : Keeps o s) (n : Nat)  : Keeps o (fire n s) :=
  updT_keeps h (canonical_cmap _ _) id

theorem State.modMacsec_keeps {o s : State} (h : Keeps o s) (f : Macsec → Macsec) : Keeps o (State.modMacsec s f) := by
  unfold State.modMacsec
  iterate 25 all_goals try first
    | with_reducible assumption
    | with_reducible apply State.modEth_keeps
    | split
    | with_reducible apply next_keeps
    | with_reducible apply upd_keeps

theorem record_keeps {o s : State} (h : Keeps o s) (code : W16) (p0 : W32) (p1 : W32) (p2 : W32) (p3 : W32) : Keeps o (record code p0 p1 p2 p3 s) := by
  unfold record
  iterate 25 all_goals try first
    | with_reducible assumption
    | split
    | with_reducible apply next_keeps
    | with_reducible apply upd_keeps

theorem macsecSend_keeps {o s : State} (h : Keeps o s) {r : State} (hr : (macsecSend s) = some r) : Keeps o r := by
  unfold macsecSend at hr
  dsimp only at hr
  repeat' split at hr
  all_goals first | contradiction | (cases hr)
  iterate 25 all_goals try first
    | with_reducible assumption
    | with_reducible exact Keeps.refl _
    | with_reducible apply fire_keeps
    | with_reducible apply State.modMacsec_keeps
    | with_reducible apply record_keeps
    | intro _
    | split
    | with_reducible apply ite_keeps
    | with_reducible apply ite2_keeps
    | with_reducible apply iteR_keeps
    | with_reducible apply next_keeps
    | with_reducible apply each_keeps
    | with_reducible apply foldl_keeps'
    | with_reducible apply foldl2_keeps
    | with_reducible apply foldl3_keeps
    | with_reducible apply foldl4_keeps
    | with_reducible apply chain_keeps
    | with_reducible apply gather_keeps
    | with_reducible apply readThen_keeps
    | dsimp only
    | (refine Keeps.of_eq (by with_reducible assumption) ?_)
    | with_reducible apply upd_keeps

theorem sendOut_keeps {o s : State} (h : Keeps o s) (a0 : Out) : Keeps o (sendOut a0 s) := by
  unfold sendOut
  iterate 25 all_goals try first
    | with_reducible assumption
    | with_reducible apply txDrop_keeps
    | exact macsecSend_keeps (by first | with_reducible assumption | with_reducible exact Keeps.refl _) (hr := by with_reducible assumption)
    | split
    | with_reducible apply next_keeps
    | with_reducible apply upd_keeps

theorem sendTo_keeps {o s : State} (h : Keeps o s) (entry : Nat) (typ : Byte) (session : Byte) (dst : W16) (arg : W64) (payload : List Byte) : Keeps o (sendTo entry typ session dst arg payload s) := by
  unfold sendTo
  iterate 25 all_goals try first
    | with_reducible assumption
    | with_reducible apply txDrop_keeps
    | with_reducible apply sendOut_keeps
    | split
    | with_reducible apply next_keeps
    | with_reducible apply upd_keeps

theorem flushInt_keeps {o s : State} (h : Keeps o s) (i : Nat) : Keeps o (flushInt s i) := by
  unfold flushInt
  iterate 25 all_goals try first
    | with_reducible assumption
    | with_reducible apply State.modSess_keeps
    | with_reducible apply sendTo_keeps
    | split
    | with_reducible apply next_keeps
    | with_reducible apply upd_keeps

theorem flushInts_keeps {o s : State} (h : Keeps o s) : Keeps o (flushInts s) := by
  unfold flushInts
  iterate 25 all_goals try first
    | with_reducible assumption
    | with_reducible exact Keeps.refl _
    | with_reducible apply flushInt_keeps
    | intro _
    | split
    | with_reducible apply ite_keeps
    | with_reducible apply ite2_keeps
    | with_reducible apply iteR_keeps
    | with_reducible apply next_keeps
    | with_reducible apply each_keeps
    | with_reducible apply foldl_keeps'
    | with_reducible apply foldl2_keeps
    | with_reducible apply foldl3_keeps
    | with_reducible apply foldl4_keeps
    | with_reducible apply chain_keeps
    | with_reducible apply gather_keeps
    | with_reducible apply readThen_keeps
    | dsimp only
    | (refine Keeps.of_eq (by with_reducible assumption) ?_)
    | with_reducible apply upd_keeps

theorem State.modReader_keeps {o s : State} (h : Keeps o s)  (i : Nat) (f : Reader → Reader) : Keeps o (State.modReader s i f) :=
  updT_keeps h id (canonical_cput _ _ _)

theorem State.modChannel_keeps {o s : State} (h : Keeps o s) (c : Nat) (f : Channel → Channel) : Keeps o (State.modChannel s c f) := by
  unfold State.modChannel
  iterate 25 all_goals try first
    | with_reducible assumption
    | split
    | with_reducible apply next_keeps
    | with_reducible apply upd_keeps

theorem State.modLink_keeps {o s : State} (h : Keeps o s) (l : Nat) (f : LinkSt → LinkSt) : Keeps o (State.modLink s l f) := by
  unfold State.modLink
  iterate 25 all_goals try first
    | with_reducible assumption
    | split
    | with_reducible apply next_keeps
    | with_reducible apply upd_keeps

theorem State.modProfile_keeps {o s : State} (h : Keeps o s) (i : Nat) (f : Profile → Profile) : Keeps o (State.modProfile s i f) := by
  unfold State.modProfile
  iterate 25 all_goals try first
    | with_reducible assumption
    | split
    | with_reducible apply next_keeps
    | with_reducible apply upd_keeps

theorem State.modQueue_keeps {o s : State} (h : Keeps o s) (i : Nat) (f : Queue → Queue) : Keeps o (State.modQueue s i f) := by
  unfold State.modQueue
  iterate 25 all_goals try first
    | with_reducible assumption
    | split
    | with_reducible apply next_keeps
    | with_reducible apply upd_keeps

theorem State.setOnPlan_keeps {o s : State} (h : Keeps o s) (p : Nat) (l : List Nat) : Keeps o (State.setOnPlan s p l) := by
  unfold State.setOnPlan
  iterate 25 all_goals try first
    | with_reducible assumption
    | split
    | with_reducible apply next_keeps
    | with_reducible apply upd_keeps

theorem State.modLive_keeps {o s : State} (h : Keeps o s) (f : StatCounts → StatCounts) : Keeps o (State.modLive s f) := by
  unfold State.modLive
  iterate 25 all_goals try first
    | with_reducible assumption
    | split
    | with_reducible apply next_keeps
    | with_reducible apply upd_keeps

theorem State.modSched_keeps {o s : State} (h : Keeps o s) (d : Nat) (f : Sched → Sched) : Keeps o (State.modSched s d f) := by
  unfold State.modSched
  iterate 25 all_goals try first
    | with_reducible assumption
    | split
    | with_reducible apply next_keeps
    | with_reducible apply upd_keeps

theorem State.modKlink_keeps {o s : State} (h : Keeps o s) (k : Nat) (f : KLink → KLink) : Keeps o (State.modKlink s k f) := by
  unfold State.modKlink
  iterate 25 all_goals try first
    | with_reducible assumption
    | split
    | with_reducible apply next_keeps
    | with_reducible apply upd_keeps

theorem State.modCounts_keeps {o s : State} (h : Keeps o s) (a1 : Nat) (f : ProtCounts → ProtCounts) : Keeps o (State.modCounts s a1 f) := by
  unfold State.modCounts
  iterate 25 all_goals try first
    | with_reducible assumption
    | split
    | with_reducible apply next_keeps
    | with_reducible apply upd_keeps

theorem State.takeFree_keeps {o s : State} (h : Keeps o s) : Keeps o (State.takeFree s).2 := by
  unfold State.takeFree
  iterate 25 all_goals try first
    | with_reducible assumption
    | split
    | with_reducible apply next_keeps
    | with_reducible apply upd_keeps

theorem State.modStream_keeps {o s : State} (h : Keeps o s) (i : Nat) (f : Stream → Stream) : Keeps o (State.modStream s i f) := by
  unfold State.modStream
  iterate 25 all_goals try first
    | with_reducible assumption
    | split
    | with_reducible apply next_keeps
    | with_reducible apply upd_keeps

theorem emit_keeps {o s : State} (h : Keeps o s) (a0 : Out) : Keeps o (emit a0 s) := by
  unfold emit
  iterate 25 all_goals try first
    | with_reducible assumption
    | split
    | with_reducible apply next_keeps
    | with_reducible apply upd_keeps

theorem State.modStage_keeps {o s : State} (h : Keeps o s) (i : Nat) (f : Stage → Stage) : Keeps o (State.modStage s i f) := by
  unfold State.modStage
  iterate 25 all_goals try first
    | with_reducible assumption
    | split
    | with_reducible apply next_keeps
    | with_reducible apply upd_keeps

theorem State.modKimg_keeps {o s : State} (h : Keeps o s) (l : Nat) (f : KImg → KImg) : Keeps o (State.modKimg s l f) := by
  unfold State.modKimg
  iterate 25 all_goals try first
    | with_reducible assumption
    | split
    | with_reducible apply next_keeps
    | with_reducible apply upd_keeps

theorem State.modSap_keeps {o s : State} (h : Keeps o s) (n : Nat) (f : Sap → Sap) : Keeps o (State.modSap s n f) := by
  unfold State.modSap
  iterate 25 all_goals try first
    | with_reducible assumption
    | split
    | with_reducible apply next_keeps
    | with_reducible apply upd_keeps

theorem State.modBureau_keeps {o s : State} (h : Keeps o s) (f : Bureau → Bureau) : Keeps o (State.modBureau s f) := by
  unfold State.modBureau
  iterate 25 all_goals try first
    | with_reducible assumption
    | split
    | with_reducible apply next_keeps
    | with_reducible apply upd_keeps

theorem pumpAll_keeps {o s : State} (h : Keeps o s) : Keeps o (pumpAll s) := by
  unfold pumpAll
  iterate 25 all_goals try first
    | with_reducible assumption
    | with_reducible apply State.modBureau_keeps
    | split
    | with_reducible apply next_keeps
    | with_reducible apply upd_keeps

theorem writeFreeze_keeps {o s : State} (h : Keeps o s) (a0 : Nat) (v : W32) : Keeps o (writeFreeze a0 v s) := by
  unfold writeFreeze
  iterate 25 all_goals try first
    | with_reducible assumption
    | with_reducible apply pumpAll_keeps
    | with_reducible apply State.modReader_keeps
    | split
    | with_reducible apply next_keeps
    | with_reducible apply upd_keeps

theorem recordNow_keeps {o s : State} (h : Keeps o s) (code : W16) (p0 : W32) (p1 : W32) (p2 : W32) (p3 : W32) : Keeps o (recordNow code p0 p1 p2 p3 s) := by
  unfold recordNow
  iterate 25 all_goals try first
    | with_reducible assumption
    | with_reducible apply State.modBureau_keeps
    | split
    | with_reducible apply next_keeps
    | with_reducible apply upd_keeps

theorem trackPeak_keeps {o s : State} (h : Keeps o s) : Keeps o (trackPeak s) := by
  unfold trackPeak
  iterate 25 all_goals try first
    | with_reducible assumption
    | split
    | with_reducible apply next_keeps
    | with_reducible apply upd_keeps

theorem readData7_keeps {o s : State} (h : Keeps o s) (a0 : Nat) : Keeps o (readData7 a0 s).2 := by
  unfold readData7
  iterate 25 all_goals try first
    | with_reducible assumption
    | with_reducible apply State.modReader_keeps
    | split
    | with_reducible apply next_keeps
    | with_reducible apply upd_keeps

theorem flushEvents_keeps {o s : State} (h : Keeps o s) : Keeps o (flushEvents s) := by
  unfold flushEvents
  iterate 25 all_goals try first
    | with_reducible assumption
    | with_reducible apply State.modBureau_keeps
    | split
    | with_reducible apply next_keeps
    | with_reducible apply upd_keeps

theorem State.settle_keeps {o s : State} (h : Keeps o s) : Keeps o (State.settle s) := by
  unfold State.settle
  iterate 25 all_goals try first
    | with_reducible assumption
    | with_reducible apply flushInts_keeps
    | with_reducible apply trackPeak_keeps
    | with_reducible apply flushEvents_keeps
    | split
    | with_reducible apply next_keeps
    | with_reducible apply upd_keeps

theorem done_keeps {o s : State} (h : Keeps o s) : KeepsR o (done s) := by
  unfold done
  iterate 25 all_goals try first
    | with_reducible assumption
    | with_reducible apply State.settle_keeps
    | split
    | with_reducible apply next_keeps
    | with_reducible apply upd_keeps

theorem execClearEraseComplete_keeps {o s : State} (h : Keeps o s) : KeepsR o (execClearEraseComplete s) := by
  unfold execClearEraseComplete
  iterate 25 all_goals try first
    | with_reducible assumption
    | with_reducible apply done_keeps
    | with_reducible apply State.modBureau_keeps
    | with_reducible apply pumpAll_keeps
    | split
    | with_reducible apply next_keeps
    | with_reducible apply upd_keeps

theorem execFreezeExpiry_keeps {o s : State} (h : Keeps o s) (a0 : Nat) : KeepsR o (execFreezeExpiry a0 s) := by
  unfold execFreezeExpiry
  iterate 25 all_goals try first
    | with_reducible assumption
    | with_reducible apply done_keeps
    | with_reducible apply pumpAll_keeps
    | with_reducible apply State.modReader_keeps
    | split
    | with_reducible apply next_keeps
    | with_reducible apply upd_keeps

theorem readData0_keeps {o s : State} (h : Keeps o s) (a0 : Nat) : Keeps o (readData0 a0 s).2 := by
  unfold readData0
  iterate 25 all_goals try first
    | with_reducible assumption
    | with_reducible apply State.modReader_keeps
    | split
    | with_reducible apply next_keeps
    | with_reducible apply upd_keeps

theorem readEvrec_keeps {o s : State} (h : Keeps o s) (a0 : Nat) (off : Nat) : Keeps o (readEvrec a0 off s).2 := by
  unfold readEvrec
  iterate 25 all_goals try first
    | with_reducible assumption
    | with_reducible apply readData0_keeps
    | with_reducible apply readData7_keeps
    | split
    | with_reducible apply next_keeps
    | with_reducible apply upd_keeps

theorem evrecErr_keeps {o s : State} (h : Keeps o s) : Keeps o (evrecErr s) := by
  unfold evrecErr
  iterate 25 all_goals try first
    | with_reducible assumption
    | with_reducible apply State.modBureau_keeps
    | split
    | with_reducible apply next_keeps
    | with_reducible apply upd_keeps

theorem denied_keeps {o s : State} (h : Keeps o s) : Keeps o (denied s) := by
  unfold denied
  iterate 25 all_goals try first
    | with_reducible assumption
    | split
    | with_reducible apply next_keeps
    | with_reducible apply upd_keeps

theorem byReader_keeps {o s : State} (h : Keeps o s) (w : Reach) (r : Nat) {f : State → State} (hf : ∀ {o s : State}, Keeps o s → Keeps o (f s)) : KeepsR o (byReader w r f s) := by
  unfold byReader
  iterate 25 all_goals try first
    | with_reducible assumption
    | with_reducible apply done_keeps
    | with_reducible apply denied_keeps
    | with_reducible apply hf
    | split
    | with_reducible apply next_keeps

theorem execEvrecCtrl_keeps {o s : State} (h : Keeps o s) (a0 : Nat) (v : W32) : KeepsR o (execEvrecCtrl a0 v s) := by
  unfold execEvrecCtrl
  iterate 25 all_goals try first
    | with_reducible assumption
    | with_reducible exact Keeps.refl _
    | with_reducible apply byReader_keeps
    | with_reducible apply writeFreeze_keeps
    | intro _
    | split
    | with_reducible apply ite_keeps
    | with_reducible apply ite2_keeps
    | with_reducible apply iteR_keeps
    | with_reducible apply next_keeps
    | with_reducible apply each_keeps
    | with_reducible apply foldl_keeps'
    | with_reducible apply foldl2_keeps
    | with_reducible apply foldl3_keeps
    | with_reducible apply foldl4_keeps
    | with_reducible apply chain_keeps
    | with_reducible apply gather_keeps
    | with_reducible apply readThen_keeps
    | dsimp only
    | (refine Keeps.of_eq (by with_reducible assumption) ?_)
    | with_reducible apply upd_keeps

theorem execMinuteTick_keeps {o s : State} (h : Keeps o s) : KeepsR o (execMinuteTick s) := by
  unfold execMinuteTick
  iterate 25 all_goals try first
    | with_reducible assumption
    | with_reducible apply done_keeps
    | with_reducible apply State.modBureau_keeps
    | split
    | with_reducible apply next_keeps
    | with_reducible apply upd_keeps

theorem writeClear_keeps {o s : State} (h : Keeps o s) (r1 : Nat) (v : W32)  : Keeps o (writeClear r1 v s) := by
  unfold writeClear
  split
  · exact updT_keeps (State.modBureau_keeps h _) id (canonical_cmap _ _)
  · exact evrecErr_keeps h

theorem execEvrecClear_keeps {o s : State} (h : Keeps o s) (a0 : Nat) (v : W32) : KeepsR o (execEvrecClear a0 v s) := by
  unfold execEvrecClear
  iterate 25 all_goals try first
    | with_reducible assumption
    | with_reducible exact Keeps.refl _
    | with_reducible apply done_keeps
    | with_reducible apply byReader_keeps
    | with_reducible apply writeClear_keeps
    | with_reducible apply denied_keeps
    | with_reducible apply evrecErr_keeps
    | intro _
    | split
    | with_reducible apply ite_keeps
    | with_reducible apply ite2_keeps
    | with_reducible apply iteR_keeps
    | with_reducible apply next_keeps
    | with_reducible apply each_keeps
    | with_reducible apply foldl_keeps'
    | with_reducible apply foldl2_keeps
    | with_reducible apply foldl3_keeps
    | with_reducible apply foldl4_keeps
    | with_reducible apply chain_keeps
    | with_reducible apply gather_keeps
    | with_reducible apply readThen_keeps
    | dsimp only
    | (refine Keeps.of_eq (by with_reducible assumption) ?_)
    | with_reducible apply upd_keeps

theorem writeEvrec_keeps {o s : State} (h : Keeps o s) (a0 : Nat) (off : Nat) (v : W32) : Keeps o (writeEvrec a0 off v s) := by
  unfold writeEvrec
  iterate 25 all_goals try first
    | with_reducible assumption
    | with_reducible apply writeClear_keeps
    | with_reducible apply writeFreeze_keeps
    | with_reducible apply State.modBureau_keeps
    | with_reducible apply State.modReader_keeps
    | split
    | with_reducible apply next_keeps
    | with_reducible apply upd_keeps

theorem execCounterPersist_keeps {o s : State} (h : Keeps o s) : KeepsR o (execCounterPersist s) := by
  unfold execCounterPersist
  iterate 25 all_goals try first
    | with_reducible assumption
    | with_reducible apply done_keeps
    | with_reducible apply State.modBureau_keeps
    | split
    | with_reducible apply next_keeps
    | with_reducible apply upd_keeps

theorem execSlotProgramComplete_keeps {o s : State} (h : Keeps o s) : KeepsR o (execSlotProgramComplete s) := by
  unfold execSlotProgramComplete
  iterate 25 all_goals try first
    | with_reducible assumption
    | with_reducible apply done_keeps
    | with_reducible apply State.modBureau_keeps
    | with_reducible apply pumpAll_keeps
    | split
    | with_reducible apply next_keeps
    | with_reducible apply upd_keeps

theorem execEvrecData0_keeps {o s : State} (h : Keeps o s) (a0 : Nat) : KeepsR o (execEvrecData0 a0 s) := by
  unfold execEvrecData0
  iterate 25 all_goals try first
    | with_reducible assumption
    | with_reducible exact Keeps.refl _
    | with_reducible apply byReader_keeps
    | with_reducible apply readData0_keeps
    | intro _
    | split
    | with_reducible apply ite_keeps
    | with_reducible apply ite2_keeps
    | with_reducible apply iteR_keeps
    | with_reducible apply next_keeps
    | with_reducible apply each_keeps
    | with_reducible apply foldl_keeps'
    | with_reducible apply foldl2_keeps
    | with_reducible apply foldl3_keeps
    | with_reducible apply foldl4_keeps
    | with_reducible apply chain_keeps
    | with_reducible apply gather_keeps
    | with_reducible apply readThen_keeps
    | dsimp only
    | (refine Keeps.of_eq (by with_reducible assumption) ?_)
    | with_reducible apply upd_keeps

theorem execSectorEraseComplete_keeps {o s : State} (h : Keeps o s) : KeepsR o (execSectorEraseComplete s) := by
  unfold execSectorEraseComplete
  iterate 25 all_goals try first
    | with_reducible assumption
    | with_reducible apply done_keeps
    | with_reducible apply State.modBureau_keeps
    | with_reducible apply pumpAll_keeps
    | split
    | with_reducible apply next_keeps
    | with_reducible apply upd_keeps

theorem execEvrecData7_keeps {o s : State} (h : Keeps o s) (a0 : Nat) : KeepsR o (execEvrecData7 a0 s) := by
  unfold execEvrecData7
  iterate 25 all_goals try first
    | with_reducible assumption
    | with_reducible exact Keeps.refl _
    | with_reducible apply byReader_keeps
    | with_reducible apply readData7_keeps
    | intro _
    | split
    | with_reducible apply ite_keeps
    | with_reducible apply ite2_keeps
    | with_reducible apply iteR_keeps
    | with_reducible apply next_keeps
    | with_reducible apply each_keeps
    | with_reducible apply foldl_keeps'
    | with_reducible apply foldl2_keeps
    | with_reducible apply foldl3_keeps
    | with_reducible apply foldl4_keeps
    | with_reducible apply chain_keeps
    | with_reducible apply gather_keeps
    | with_reducible apply readThen_keeps
    | dsimp only
    | (refine Keeps.of_eq (by with_reducible assumption) ?_)
    | with_reducible apply upd_keeps

theorem execHbmTrainingComplete_keeps {o s : State} (h : Keeps o s) (fail : W16) : KeepsR o (execHbmTrainingComplete fail s) := by
  unfold execHbmTrainingComplete
  iterate 25 all_goals try first
    | with_reducible assumption
    | with_reducible exact Keeps.refl _
    | exact fun x => x
    | assumption
    | with_reducible apply done_keeps
    | with_reducible apply record_keeps
    | with_reducible apply State.modMem_keeps
    | intro _
    | split
    | with_reducible apply ite_keeps
    | with_reducible apply ite2_keeps
    | with_reducible apply iteR_keeps
    | with_reducible apply next_keeps
    | with_reducible apply each_keeps
    | with_reducible apply foldl_keeps'
    | with_reducible apply foldl2_keeps
    | with_reducible apply foldl3_keeps
    | with_reducible apply foldl4_keeps
    | with_reducible apply chain_keeps
    | with_reducible apply gather_keeps
    | with_reducible apply readThen_keeps
    | dsimp only
    | (refine Keeps.of_eq (by with_reducible assumption) ?_)
    | with_reducible apply upd_keeps

theorem State.modDev_keeps {o s : State} (h : Keeps o s) (k : Nat) (f : MemDev → MemDev) : Keeps o (State.modDev s k f) := by
  unfold State.modDev
  iterate 25 all_goals try first
    | with_reducible assumption
    | split
    | with_reducible apply next_keeps
    | with_reducible apply upd_keeps

theorem setTag_keeps {o s : State} (h : Keeps o s) (tier : Nat) (granule : Nat) (v : W32)  : Keeps o (setTag tier granule v s) := by
  unfold setTag
  exact State.setTier_keeps h _ fun w => Tier.wf_setTag (h.tier tier w) _ _

theorem protSet_keeps {o s : State} (h : Keeps o s) (bits : BitVec 3) : Keeps o (protSet bits s) := by
  unfold protSet
  iterate 25 all_goals try first
    | with_reducible assumption
    | with_reducible apply fire_keeps
    | split
    | with_reducible apply next_keeps
    | with_reducible apply upd_keeps

theorem reportPoison_keeps {o s : State} (h : Keeps o s) (tier : Nat) (page : Nat) (words : List Nat) : Keeps o (reportPoison tier page words s) := by
  unfold reportPoison
  iterate 25 all_goals try first
    | with_reducible assumption
    | with_reducible exact Keeps.refl _
    | with_reducible apply record_keeps
    | with_reducible apply protSet_keeps
    | with_reducible apply State.modCounts_keeps
    | intro _
    | split
    | with_reducible apply ite_keeps
    | with_reducible apply ite2_keeps
    | with_reducible apply iteR_keeps
    | with_reducible apply next_keeps
    | with_reducible apply each_keeps
    | with_reducible apply foldl_keeps'
    | with_reducible apply foldl2_keeps
    | with_reducible apply foldl3_keeps
    | with_reducible apply foldl4_keeps
    | with_reducible apply chain_keeps
    | with_reducible apply gather_keeps
    | with_reducible apply readThen_keeps
    | dsimp only
    | (refine Keeps.of_eq (by with_reducible assumption) ?_)
    | with_reducible apply upd_keeps

theorem passDone_keeps {o s : State} (h : Keeps o s) (tier : Nat) (before : Nat) : Keeps o (passDone tier before s) := by
  unfold passDone
  iterate 25 all_goals try first
    | with_reducible assumption
    | with_reducible apply State.modCounts_keeps
    | split
    | with_reducible apply next_keeps
    | with_reducible apply upd_keeps

theorem repairPage_keeps {o s : State} (h : Keeps o s) (tier : Nat) (page : Nat) : Keeps o (repairPage tier page s) := by
  have w : o.mem.wf = true → (((s.tier tier).settle page).1.repair page).1.wf = true := fun w =>
    Tier.wf_repair (Tier.wf_settle (h.tier tier w) page) page
  unfold repairPage
  have k := State.setTier_keeps h tier w
  revert k
  generalize (s.tier tier).settle page = p
  obtain ⟨t, early⟩ := p
  dsimp only
  generalize t.repair page = q
  obtain ⟨t', r⟩ := q
  dsimp only
  intro k
  refine reportPoison_keeps ?_ ..
  have k' := protSet_keeps (State.modCounts_keeps (reportPoison_keeps k tier page early) tier
    fun c => { c with ce := satAdd c.ce r.ce, repair := satInc c.repair }) 2
  split
  · exact record_keeps k' ..
  · exact k'

theorem countPoison_keeps {o s : State} (h : Keeps o s) (tier : Nat) (ws : List Nat) : Keeps o (countPoison tier ws s) := by
  unfold countPoison
  iterate 25 all_goals try first
    | with_reducible assumption
    | with_reducible apply State.modCounts_keeps
    | split
    | with_reducible apply next_keeps
    | with_reducible apply upd_keeps

theorem applyUpsets_keeps {o s : State} (h : Keeps o s) (ups : List Upset)  : Keeps o (applyUpsets ups s) := by
  unfold applyUpsets
  exact each_keeps h fun u a => ite_keeps (fun _ => State.setTier_keeps (Keeps.refl _) _ fun w => Tier.wf_upset (wf_tier w _) _) fun _ => Keeps.refl _

theorem reportUe_keeps {o s : State} (h : Keeps o s) (tier : Nat) (w : Nat) (poison : Bool) (path : Nat) (cls : Nat) (stream : Nat) : Keeps o (reportUe tier w poison path cls stream s) := by
  unfold reportUe
  iterate 25 all_goals try first
    | with_reducible assumption
    | with_reducible exact Keeps.refl _
    | with_reducible apply record_keeps
    | with_reducible apply protSet_keeps
    | with_reducible apply State.modCounts_keeps
    | intro _
    | split
    | with_reducible apply ite_keeps
    | with_reducible apply ite2_keeps
    | with_reducible apply iteR_keeps
    | with_reducible apply next_keeps
    | with_reducible apply each_keeps
    | with_reducible apply foldl_keeps'
    | with_reducible apply foldl2_keeps
    | with_reducible apply foldl3_keeps
    | with_reducible apply foldl4_keeps
    | with_reducible apply chain_keeps
    | with_reducible apply gather_keeps
    | with_reducible apply readThen_keeps
    | dsimp only
    | (refine Keeps.of_eq (by with_reducible assumption) ?_)
    | with_reducible apply upd_keeps

theorem execDronePage_keeps {o s : State} (h : Keeps o s) (tier : Nat) (device : Nat) (ups : List Upset) : KeepsR o (execDronePage tier device ups s) := by
  unfold execDronePage
  iterate 25 all_goals try first
    | with_reducible assumption
    | with_reducible exact Keeps.refl _
    | with_reducible apply done_keeps
    | with_reducible apply passDone_keeps
    | with_reducible apply State.modDev_keeps
    | with_reducible apply repairPage_keeps
    | with_reducible apply countPoison_keeps
    | with_reducible apply applyUpsets_keeps
    | with_reducible apply reportUe_keeps
    | intro _
    | split
    | with_reducible apply ite_keeps
    | with_reducible apply ite2_keeps
    | with_reducible apply iteR_keeps
    | with_reducible apply next_keeps
    | with_reducible apply each_keeps
    | with_reducible apply foldl_keeps'
    | with_reducible apply foldl2_keeps
    | with_reducible apply foldl3_keeps
    | with_reducible apply foldl4_keeps
    | with_reducible apply chain_keeps
    | with_reducible apply gather_keeps
    | with_reducible apply readThen_keeps
    | dsimp only
    | (refine Keeps.of_eq (by with_reducible assumption) ?_)
    | with_reducible apply upd_keeps

theorem makeTag_keeps {o s : State} (h : Keeps o s) (tier : Nat) (granule : Nat) (stream : Nat) (noStream : Bool) (seq : Nat) : Keeps o (makeTag tier granule stream noStream seq s) := by
  unfold makeTag
  iterate 25 all_goals try first
    | with_reducible assumption
    | with_reducible apply setTag_keeps
    | split
    | with_reducible apply next_keeps
    | with_reducible apply upd_keeps

theorem countCe_keeps {o s : State} (h : Keeps o s) (tier : Nat) (ws : List Nat) : Keeps o (countCe tier ws s) := by
  unfold countCe
  iterate 25 all_goals try first
    | with_reducible assumption
    | with_reducible apply State.modCounts_keeps
    | split
    | with_reducible apply next_keeps
    | with_reducible apply upd_keeps

theorem writeMem_keeps {o s : State} (h : Keeps o s) (tier : Nat) (a : Nat) (bs : List Byte) : Keeps o (writeMem tier a bs s) := by
  have k := countCe_keeps h tier (wordsOf a bs.length)
  unfold writeMem
  generalize countCe tier (wordsOf a bs.length) s = u at k ⊢
  exact each_keeps (State.setTier_keeps k _ fun w => Tier.wf_write (k.tier tier w) _ _) fun u a => reportPoison_keeps (Keeps.refl _) ..

theorem writeTagged_keeps {o s : State} (h : Keeps o s) (tier : Nat) (a : Nat) (bs : List Byte) (stream : Nat) (noStream : Bool) (seqOf : Nat → Nat) : Keeps o (writeTagged tier a bs stream noStream seqOf s) := by
  unfold writeTagged
  iterate 25 all_goals try first
    | with_reducible assumption
    | with_reducible exact Keeps.refl _
    | with_reducible apply makeTag_keeps
    | with_reducible apply writeMem_keeps
    | intro _
    | split
    | with_reducible apply ite_keeps
    | with_reducible apply ite2_keeps
    | with_reducible apply iteR_keeps
    | with_reducible apply next_keeps
    | with_reducible apply each_keeps
    | with_reducible apply foldl_keeps'
    | with_reducible apply foldl2_keeps
    | with_reducible apply foldl3_keeps
    | with_reducible apply foldl4_keeps
    | with_reducible apply chain_keeps
    | with_reducible apply gather_keeps
    | with_reducible apply readThen_keeps
    | dsimp only
    | (refine Keeps.of_eq (by with_reducible assumption) ?_)
    | with_reducible apply upd_keeps

theorem queueRepair_keeps {o s : State} (h : Keeps o s) (tier : Nat) (page : Nat) : Keeps o (queueRepair tier page s) := by
  unfold queueRepair
  iterate 25 all_goals try first
    | with_reducible assumption
    | with_reducible apply State.modDev_keeps
    | with_reducible apply State.modCounts_keeps
    | split
    | with_reducible apply next_keeps
    | with_reducible apply upd_keeps

theorem readFixed_keeps {o s : State} (h : Keeps o s) (cls : Nat) (stream : Nat) (tier : Nat) (a : Nat) (n : Nat) : Keeps o (readFixed cls stream tier a n s).2 := by
  unfold readFixed
  iterate 25 all_goals try first
    | with_reducible assumption
    | with_reducible exact Keeps.refl _
    | with_reducible apply queueRepair_keeps
    | with_reducible apply countPoison_keeps
    | with_reducible apply countCe_keeps
    | with_reducible apply reportUe_keeps
    | intro _
    | split
    | with_reducible apply ite_keeps
    | with_reducible apply ite2_keeps
    | with_reducible apply iteR_keeps
    | with_reducible apply next_keeps
    | with_reducible apply each_keeps
    | with_reducible apply foldl_keeps'
    | with_reducible apply foldl2_keeps
    | with_reducible apply foldl3_keeps
    | with_reducible apply foldl4_keeps
    | with_reducible apply chain_keeps
    | with_reducible apply gather_keeps
    | with_reducible apply readThen_keeps
    | dsimp only
    | (refine Keeps.of_eq (by with_reducible assumption) ?_)
    | with_reducible apply upd_keeps

theorem latchTag_keeps {o s : State} (h : Keeps o s) (tier : Nat) (granule : Nat) (stream : Nat) (noStream : Bool) (seq : Nat) (checker : Nat) : Keeps o (latchTag tier granule stream noStream seq checker s) := by
  unfold latchTag
  iterate 25 all_goals try first
    | with_reducible assumption
    | split
    | with_reducible apply next_keeps
    | with_reducible apply upd_keeps

theorem setReady_keeps {o s : State} (h : Keeps o s) : Keeps o (setReady s) := by
  unfold setReady
  iterate 25 all_goals try first
    | with_reducible assumption
    | with_reducible exact Keeps.refl _
    | exact fun x => x
    | assumption
    | with_reducible apply State.modMem_keeps
    | intro _
    | split
    | with_reducible apply ite_keeps
    | with_reducible apply ite2_keeps
    | with_reducible apply iteR_keeps
    | with_reducible apply next_keeps
    | with_reducible apply each_keeps
    | with_reducible apply foldl_keeps'
    | with_reducible apply foldl2_keeps
    | with_reducible apply foldl3_keeps
    | with_reducible apply foldl4_keeps
    | with_reducible apply chain_keeps
    | with_reducible apply gather_keeps
    | with_reducible apply readThen_keeps
    | dsimp only
    | (refine Keeps.of_eq (by with_reducible assumption) ?_)
    | with_reducible apply upd_keeps

theorem execTierFillComplete_keeps {o s : State} (h : Keeps o s) (tier : Nat) : KeepsR o (execTierFillComplete tier s) := by
  unfold execTierFillComplete
  iterate 25 all_goals try first
    | with_reducible assumption
    | with_reducible exact Keeps.refl _
    | exact fun x => x
    | assumption
    | exact fun _ => rfl
    | with_reducible apply done_keeps
    | with_reducible apply State.setTier_keeps
    | with_reducible apply setReady_keeps
    | with_reducible apply State.modMem_keeps
    | intro _
    | split
    | with_reducible apply ite_keeps
    | with_reducible apply ite2_keeps
    | with_reducible apply iteR_keeps
    | with_reducible apply next_keeps
    | with_reducible apply each_keeps
    | with_reducible apply foldl_keeps'
    | with_reducible apply foldl2_keeps
    | with_reducible apply foldl3_keeps
    | with_reducible apply foldl4_keeps
    | with_reducible apply chain_keeps
    | with_reducible apply gather_keeps
    | with_reducible apply readThen_keeps
    | dsimp only
    | (refine Keeps.of_eq (by with_reducible assumption) ?_)
    | with_reducible apply upd_keeps

theorem checkGranule_keeps {o s : State} (h : Keeps o s) (cls : Nat) (tier : Nat) (granule : Nat) (stream : Nat) (noStream : Bool) (seq : Nat) : Keeps o (checkGranule cls tier granule stream noStream seq s).2 := by
  unfold checkGranule
  iterate 25 all_goals try first
    | with_reducible assumption
    | with_reducible exact Keeps.refl _
    | with_reducible apply readFixed_keeps
    | intro _
    | split
    | with_reducible apply ite_keeps
    | with_reducible apply ite2_keeps
    | with_reducible apply iteR_keeps
    | with_reducible apply next_keeps
    | with_reducible apply each_keeps
    | with_reducible apply foldl_keeps'
    | with_reducible apply foldl2_keeps
    | with_reducible apply foldl3_keeps
    | with_reducible apply foldl4_keeps
    | with_reducible apply chain_keeps
    | with_reducible apply gather_keeps
    | with_reducible apply readThen_keeps
    | dsimp only
    | (refine Keeps.of_eq (by with_reducible assumption) ?_)
    | with_reducible apply upd_keeps

theorem tagSet_keeps {o s : State} (h : Keeps o s) (bits : BitVec 3) : Keeps o (tagSet bits s) := by
  unfold tagSet
  iterate 25 all_goals try first
    | with_reducible assumption
    | with_reducible apply fire_keeps
    | split
    | with_reducible apply next_keeps
    | with_reducible apply upd_keeps

theorem tagExitFail_keeps {o s : State} (h : Keeps o s) (tier : Nat) (granule : Nat) (stream : Nat) (seq : Nat) (checker : Nat) (slot : Nat) (g : Nat) (samples : Nat) : Keeps o (tagExitFail tier granule stream seq checker slot g samples s) := by
  unfold tagExitFail
  iterate 25 all_goals try first
    | with_reducible assumption
    | with_reducible exact Keeps.refl _
    | with_reducible apply tagSet_keeps
    | with_reducible apply latchTag_keeps
    | with_reducible apply record_keeps
    | intro _
    | split
    | with_reducible apply ite_keeps
    | with_reducible apply ite2_keeps
    | with_reducible apply iteR_keeps
    | with_reducible apply next_keeps
    | with_reducible apply each_keeps
    | with_reducible apply foldl_keeps'
    | with_reducible apply foldl2_keeps
    | with_reducible apply foldl3_keeps
    | with_reducible apply foldl4_keeps
    | with_reducible apply chain_keeps
    | with_reducible apply gather_keeps
    | with_reducible apply readThen_keeps
    | dsimp only
    | (refine Keeps.of_eq (by with_reducible assumption) ?_)
    | with_reducible apply upd_keeps

theorem readFull_keeps {o s : State} (h : Keeps o s) (path : Nat) (tier : Nat) (a : Nat) (n : Nat) : Keeps o (readFull path tier a n s).2 := by
  unfold readFull
  iterate 25 all_goals try first
    | with_reducible assumption
    | with_reducible exact Keeps.refl _
    | with_reducible apply repairPage_keeps
    | with_reducible apply countPoison_keeps
    | with_reducible apply countCe_keeps
    | with_reducible apply reportUe_keeps
    | intro _
    | split
    | with_reducible apply ite_keeps
    | with_reducible apply ite2_keeps
    | with_reducible apply iteR_keeps
    | with_reducible apply next_keeps
    | with_reducible apply each_keeps
    | with_reducible apply foldl_keeps'
    | with_reducible apply foldl2_keeps
    | with_reducible apply foldl3_keeps
    | with_reducible apply foldl4_keeps
    | with_reducible apply chain_keeps
    | with_reducible apply gather_keeps
    | with_reducible apply readThen_keeps
    | dsimp only
    | (refine Keeps.of_eq (by with_reducible assumption) ?_)
    | with_reducible apply upd_keeps

theorem ingressBad_keeps {o s : State} (h : Keeps o s) : Keeps o (ingressBad s) := by
  unfold ingressBad
  iterate 25 all_goals try first
    | with_reducible assumption
    | split
    | with_reducible apply next_keeps
    | with_reducible apply upd_keeps

theorem tagConsumerFail_keeps {o s : State} (h : Keeps o s) (tier : Nat) (granule : Nat) (stream : Nat) (noStream : Bool) (seq : Nat) (checker : Nat) : Keeps o (tagConsumerFail tier granule stream noStream seq checker s) := by
  unfold tagConsumerFail
  iterate 25 all_goals try first
    | with_reducible assumption
    | with_reducible exact Keeps.refl _
    | with_reducible apply tagSet_keeps
    | with_reducible apply latchTag_keeps
    | with_reducible apply record_keeps
    | intro _
    | split
    | with_reducible apply ite_keeps
    | with_reducible apply ite2_keeps
    | with_reducible apply iteR_keeps
    | with_reducible apply next_keeps
    | with_reducible apply each_keeps
    | with_reducible apply foldl_keeps'
    | with_reducible apply foldl2_keeps
    | with_reducible apply foldl3_keeps
    | with_reducible apply foldl4_keeps
    | with_reducible apply chain_keeps
    | with_reducible apply gather_keeps
    | with_reducible apply readThen_keeps
    | dsimp only
    | (refine Keeps.of_eq (by with_reducible assumption) ?_)
    | with_reducible apply upd_keeps

theorem execDdrTrainingComplete_keeps {o s : State} (h : Keeps o s) (dimms : List Dimm) : KeepsR o (execDdrTrainingComplete dimms s) := by
  unfold execDdrTrainingComplete
  iterate 25 all_goals try first
    | with_reducible assumption
    | with_reducible exact Keeps.refl _
    | exact fun x => x
    | assumption
    | with_reducible apply done_keeps
    | with_reducible apply setReady_keeps
    | with_reducible apply record_keeps
    | with_reducible apply State.modMem_keeps
    | intro _
    | split
    | with_reducible apply ite_keeps
    | with_reducible apply ite2_keeps
    | with_reducible apply iteR_keeps
    | with_reducible apply next_keeps
    | with_reducible apply each_keeps
    | with_reducible apply foldl_keeps'
    | with_reducible apply foldl2_keeps
    | with_reducible apply foldl3_keeps
    | with_reducible apply foldl4_keeps
    | with_reducible apply chain_keeps
    | with_reducible apply gather_keeps
    | with_reducible apply readThen_keeps
    | dsimp only
    | (refine Keeps.of_eq (by with_reducible assumption) ?_)
    | with_reducible apply upd_keeps

theorem execPageRepair_keeps {o s : State} (h : Keeps o s) (tier : Nat) (device : Nat) (ups : List Upset) : KeepsR o (execPageRepair tier device ups s) := by
  unfold execPageRepair
  iterate 25 all_goals try first
    | with_reducible assumption
    | with_reducible exact Keeps.refl _
    | with_reducible apply done_keeps
    | with_reducible apply State.modDev_keeps
    | with_reducible apply repairPage_keeps
    | with_reducible apply applyUpsets_keeps
    | intro _
    | split
    | with_reducible apply ite_keeps
    | with_reducible apply ite2_keeps
    | with_reducible apply iteR_keeps
    | with_reducible apply next_keeps
    | with_reducible apply each_keeps
    | with_reducible apply foldl_keeps'
    | with_reducible apply foldl2_keeps
    | with_reducible apply foldl3_keeps
    | with_reducible apply foldl4_keeps
    | with_reducible apply chain_keeps
    | with_reducible apply gather_keeps
    | with_reducible apply readThen_keeps
    | dsimp only
    | (refine Keeps.of_eq (by with_reducible assumption) ?_)
    | with_reducible apply upd_keeps

theorem writeTag_keeps {o s : State} (h : Keeps o s) (off : Nat) (v : W32) : Keeps o (writeTag off v s) := by
  unfold writeTag
  iterate 25 all_goals try first
    | with_reducible assumption
    | split
    | with_reducible apply next_keeps
    | with_reducible apply upd_keeps

theorem writeProt_keeps {o s : State} (h : Keeps o s) (a0 : Nat) (off : Nat) (v : W32) : Keeps o (writeProt a0 off v s) := by
  unfold writeProt
  iterate 25 all_goals try first
    | with_reducible assumption
    | with_reducible apply State.modSess_keeps
    | split
    | with_reducible apply next_keeps
    | with_reducible apply upd_keeps

theorem writeMemReg_keeps {o s : State} (h : Keeps o s) (a0 : Nat) (off : Nat) (v : W32) : Keeps o (writeMemReg a0 off v s) := by
  unfold writeMemReg
  iterate 25 all_goals try first
    | with_reducible assumption
    | with_reducible apply State.modSess_keeps
    | split
    | with_reducible apply next_keeps
    | with_reducible apply upd_keeps

theorem queueSignals_keeps {o s : State} (h : Keeps o s) (k : Nat) (rs : List (List Byte)) : Keeps o (queueSignals k rs s) := by
  unfold queueSignals
  iterate 25 all_goals try first
    | with_reducible assumption
    | with_reducible apply State.modKlink_keeps
    | split
    | with_reducible apply next_keeps
    | with_reducible apply upd_keeps

theorem State.modKl_keeps {o s : State} (h : Keeps o s) (f : Kryter → Kryter) : Keeps o (State.modKl s f) := by
  unfold State.modKl
  iterate 25 all_goals try first
    | with_reducible assumption
    | split
    | with_reducible apply next_keeps
    | with_reducible apply upd_keeps

theorem takeMseq_keeps {o s : State} (h : Keeps o s) (key : Nat) : Keeps o (takeMseq key s).2 := by
  unfold takeMseq
  iterate 25 all_goals try first
    | with_reducible assumption
    | with_reducible apply State.modKl_keeps
    | split
    | with_reducible apply next_keeps
    | with_reducible apply upd_keeps

theorem sendDev_keeps {o s : State} (h : Keeps o s) (w : W32) (typ : Byte) (count : Nat) (linkId : Nat) (payload : List Byte) : Keeps o (sendDev w typ count linkId payload s) := by
  unfold sendDev
  iterate 25 all_goals try first
    | with_reducible assumption
    | with_reducible apply takeMseq_keeps
    | with_reducible apply sendTo_keeps
    | split
    | with_reducible apply next_keeps
    | with_reducible apply upd_keeps

theorem sendRing_keeps {o s : State} (h : Keeps o s) (w : W32) (msg : List Byte) : Keeps o (sendRing w msg s) := by
  unfold sendRing
  iterate 25 all_goals try first
    | with_reducible assumption
    | with_reducible apply sendDev_keeps
    | with_reducible apply queueSignals_keeps
    | split
    | with_reducible apply next_keeps
    | with_reducible apply upd_keeps

theorem sendRingAll_keeps {o s : State} (h : Keeps o s) (plan : Nat) (g : Nat) (msg : List Byte) : Keeps o (sendRingAll plan g msg s) := by
  unfold sendRingAll
  iterate 25 all_goals try first
    | with_reducible assumption
    | with_reducible exact Keeps.refl _
    | with_reducible apply sendRing_keeps
    | intro _
    | split
    | with_reducible apply ite_keeps
    | with_reducible apply ite2_keeps
    | with_reducible apply iteR_keeps
    | with_reducible apply next_keeps
    | with_reducible apply each_keeps
    | with_reducible apply foldl_keeps'
    | with_reducible apply foldl2_keeps
    | with_reducible apply foldl3_keeps
    | with_reducible apply foldl4_keeps
    | with_reducible apply chain_keeps
    | with_reducible apply gather_keeps
    | with_reducible apply readThen_keeps
    | dsimp only
    | (refine Keeps.of_eq (by with_reducible assumption) ?_)
    | with_reducible apply upd_keeps

theorem writeSlot_keeps {o s : State} (h : Keeps o s) (id : Nat) (a1 : Token) (p : PlanEnt) (bytes : List Byte) : Keeps o (writeSlot id a1 p bytes s) := by
  unfold writeSlot
  iterate 25 all_goals try first
    | with_reducible assumption
    | with_reducible apply writeTagged_keeps
    | with_reducible apply State.modStream_keeps
    | with_reducible apply State.modQueue_keeps
    | split
    | with_reducible apply next_keeps
    | with_reducible apply upd_keeps

theorem post_keeps {o s : State} (h : Keeps o s) (id : Nat) (q : Nat) (kind : Nat) (status : Nat) (cookie : W32) (pos : W64) (p0 : W32) (p1 : W32) : Keeps o (post id q kind status cookie pos p0 p1 s) := by
  unfold post
  iterate 25 all_goals try first
    | with_reducible assumption
    | with_reducible apply writeMem_keeps
    | with_reducible apply sendTo_keeps
    | with_reducible apply State.modQueue_keeps
    | split
    | with_reducible apply next_keeps
    | with_reducible apply upd_keeps

theorem postDrained_keeps {o s : State} (h : Keeps o s) (id : Nat) (pos : W64) : Keeps o (postDrained id pos s) := by
  unfold postDrained
  iterate 25 all_goals try first
    | with_reducible assumption
    | with_reducible exact Keeps.refl _
    | with_reducible apply writeSlot_keeps
    | with_reducible apply post_keeps
    | with_reducible apply State.modStream_keeps
    | with_reducible apply State.modQueue_keeps
    | intro _
    | split
    | with_reducible apply ite_keeps
    | with_reducible apply ite2_keeps
    | with_reducible apply iteR_keeps
    | with_reducible apply next_keeps
    | with_reducible apply each_keeps
    | with_reducible apply foldl_keeps'
    | with_reducible apply foldl2_keeps
    | with_reducible apply foldl3_keeps
    | with_reducible apply foldl4_keeps
    | with_reducible apply chain_keeps
    | with_reducible apply gather_keeps
    | with_reducible apply readThen_keeps
    | dsimp only
    | (refine Keeps.of_eq (by with_reducible assumption) ?_)
    | with_reducible apply upd_keeps

theorem sweepWindow_keeps {o s : State} (h : Keeps o s) (stage : Nat) : Keeps o (sweepWindow stage s) := by
  unfold sweepWindow
  iterate 25 all_goals try first
    | with_reducible assumption
    | with_reducible apply State.modLink_keeps
    | split
    | with_reducible apply next_keeps
    | with_reducible apply upd_keeps

theorem wakeStage_keeps {o s : State} (h : Keeps o s) (stage : Nat) : Keeps o (wakeStage stage s) := by
  unfold wakeStage
  iterate 25 all_goals try first
    | with_reducible assumption
    | with_reducible apply State.modStage_keeps
    | with_reducible apply sweepWindow_keeps
    | split
    | with_reducible apply next_keeps
    | with_reducible apply upd_keeps

theorem sendSignal_keeps {o s : State} (h : Keeps o s) (dst : Peer) (kind : Nat) (link : Nat) (arg : W32) : Keeps o (sendSignal dst kind link arg s) := by
  unfold sendSignal
  iterate 25 all_goals try first
    | with_reducible assumption
    | with_reducible apply sendDev_keeps
    | with_reducible apply queueSignals_keeps
    | split
    | with_reducible apply next_keeps
    | with_reducible apply upd_keeps

theorem freeHeld_keeps {o s : State} (h : Keeps o s) (x : Nat × W32) : Keeps o (freeHeld s x) := by
  unfold freeHeld
  iterate 25 all_goals try first
    | with_reducible assumption
    | with_reducible apply State.modLink_keeps
    | with_reducible apply sendSignal_keeps
    | split
    | with_reducible apply next_keeps
    | with_reducible apply upd_keeps

theorem dropSteps_keeps {o s : State} (h : Keeps o s) (f : Step → Bool) : Keeps o (dropSteps f s) := by
  unfold dropSteps
  iterate 25 all_goals try first
    | with_reducible assumption
    | with_reducible exact Keeps.refl _
    | with_reducible apply wakeStage_keeps
    | with_reducible apply freeHeld_keeps
    | intro _
    | split
    | with_reducible apply ite_keeps
    | with_reducible apply ite2_keeps
    | with_reducible apply iteR_keeps
    | with_reducible apply next_keeps
    | with_reducible apply each_keeps
    | with_reducible apply foldl_keeps'
    | with_reducible apply foldl2_keeps
    | with_reducible apply foldl3_keeps
    | with_reducible apply foldl4_keeps
    | with_reducible apply chain_keeps
    | with_reducible apply gather_keeps
    | with_reducible apply readThen_keeps
    | dsimp only
    | (refine Keeps.of_eq (by with_reducible assumption) ?_)
    | with_reducible apply upd_keeps

theorem released_keeps {o s : State} (h : Keeps o s) (p : Nat) : Keeps o (released p s) := by
  unfold released
  iterate 25 all_goals try first
    | with_reducible assumption
    | with_reducible apply State.modProfile_keeps
    | split
    | with_reducible apply next_keeps
    | with_reducible apply upd_keeps

theorem unpin_keeps {o s : State} (h : Keeps o s) (id : Nat) : Keeps o (unpin id s) := by
  unfold unpin
  iterate 25 all_goals try first
    | with_reducible assumption
    | with_reducible apply released_keeps
    | with_reducible apply State.modStream_keeps
    | split
    | with_reducible apply next_keeps
    | with_reducible apply upd_keeps

theorem releaseLoad_keeps {o s : State} (h : Keeps o s) (id : Nat) : Keeps o (releaseLoad id s) := by
  unfold releaseLoad
  iterate 25 all_goals try first
    | with_reducible assumption
    | with_reducible apply State.setOnPlan_keeps
    | with_reducible apply State.modStream_keeps
    | split
    | with_reducible apply next_keeps
    | with_reducible apply upd_keeps

theorem releaseIfSingle_keeps {o s : State} (h : Keeps o s) (id : Nat) : Keeps o (releaseIfSingle id s) := by
  unfold releaseIfSingle
  iterate 25 all_goals try first
    | with_reducible assumption
    | with_reducible apply releaseLoad_keeps
    | with_reducible apply dropSteps_keeps
    | split
    | with_reducible apply next_keeps
    | with_reducible apply upd_keeps

theorem dropDescs_keeps {o s : State} (h : Keeps o s) (id : Nat) : Keeps o (dropDescs id s) := by
  unfold dropDescs
  iterate 25 all_goals try first
    | with_reducible assumption
    | split
    | with_reducible apply next_keeps
    | with_reducible apply upd_keeps

theorem maskRows_keeps {o s : State} (h : Keeps o s) (id : Nat) : Keeps o (maskRows id s) := by
  unfold maskRows
  iterate 25 all_goals try first
    | with_reducible assumption
    | split
    | with_reducible apply next_keeps
    | with_reducible apply upd_keeps

theorem dropAttach_keeps {o s : State} (h : Keeps o s) (id : Nat) : Keeps o (dropAttach id s) := by
  unfold dropAttach
  iterate 25 all_goals try first
    | with_reducible assumption
    | with_reducible exact Keeps.refl _
    | with_reducible apply released_keeps
    | with_reducible apply State.modProfile_keeps
    | with_reducible apply State.modStream_keeps
    | intro _
    | split
    | with_reducible apply ite_keeps
    | with_reducible apply ite2_keeps
    | with_reducible apply iteR_keeps
    | with_reducible apply next_keeps
    | with_reducible apply each_keeps
    | with_reducible apply foldl_keeps'
    | with_reducible apply foldl2_keeps
    | with_reducible apply foldl3_keeps
    | with_reducible apply foldl4_keeps
    | with_reducible apply chain_keeps
    | with_reducible apply gather_keeps
    | with_reducible apply readThen_keeps
    | dsimp only
    | (refine Keeps.of_eq (by with_reducible assumption) ?_)
    | with_reducible apply upd_keeps

theorem streamErr_keeps {o s : State} (h : Keeps o s) (id : Nat) : Keeps o (streamErr id s) := by
  unfold streamErr
  iterate 25 all_goals try first
    | with_reducible assumption
    | with_reducible apply State.modStream_keeps
    | split
    | with_reducible apply next_keeps
    | with_reducible apply upd_keeps

theorem leaveSpill_keeps {o s : State} (h : Keeps o s) (id : Nat) : Keeps o (leaveSpill id s) := by
  unfold leaveSpill
  iterate 25 all_goals try first
    | with_reducible assumption
    | split
    | with_reducible apply next_keeps
    | with_reducible apply upd_keeps

theorem doClose_keeps {o s : State} (h : Keeps o s) (id : Nat) : Keeps o (doClose id s) := by
  unfold doClose
  iterate 25 all_goals try first
    | with_reducible assumption
    | with_reducible apply unpin_keeps
    | with_reducible apply releaseIfSingle_keeps
    | with_reducible apply dropDescs_keeps
    | with_reducible apply maskRows_keeps
    | with_reducible apply dropAttach_keeps
    | with_reducible apply sendRingAll_keeps
    | with_reducible apply streamErr_keeps
    | with_reducible apply State.modStream_keeps
    | with_reducible apply leaveSpill_keeps
    | split
    | with_reducible apply next_keeps
    | with_reducible apply upd_keeps

theorem lapse_keeps {o s : State} (h : Keeps o s) (id : Nat) : Keeps o (lapse id s) := by
  unfold lapse
  iterate 25 all_goals try first
    | with_reducible assumption
    | with_reducible exact Keeps.refl _
    | with_reducible apply released_keeps
    | with_reducible apply State.modProfile_keeps
    | with_reducible apply record_keeps
    | intro _
    | split
    | with_reducible apply ite_keeps
    | with_reducible apply ite2_keeps
    | with_reducible apply iteR_keeps
    | with_reducible apply next_keeps
    | with_reducible apply each_keeps
    | with_reducible apply foldl_keeps'
    | with_reducible apply foldl2_keeps
    | with_reducible apply foldl3_keeps
    | with_reducible apply foldl4_keeps
    | with_reducible apply chain_keeps
    | with_reducible apply gather_keeps
    | with_reducible apply readThen_keeps
    | dsimp only
    | (refine Keeps.of_eq (by with_reducible assumption) ?_)
    | with_reducible apply upd_keeps

theorem abortHere_keeps {o s : State} (h : Keeps o s) (id : Nat) (cause : Nat) (p0 : W32) (p1 : W32) : Keeps o (abortHere id cause p0 p1 s) := by
  unfold abortHere
  iterate 25 all_goals try first
    | with_reducible assumption
    | with_reducible exact Keeps.refl _
    | with_reducible apply unpin_keeps
    | with_reducible apply releaseIfSingle_keeps
    | with_reducible apply dropDescs_keeps
    | with_reducible apply maskRows_keeps
    | with_reducible apply dropAttach_keeps
    | with_reducible apply post_keeps
    | with_reducible apply record_keeps
    | with_reducible apply State.modStream_keeps
    | with_reducible apply lapse_keeps
    | with_reducible apply State.modLive_keeps
    | with_reducible apply leaveSpill_keeps
    | intro _
    | split
    | with_reducible apply ite_keeps
    | with_reducible apply ite2_keeps
    | with_reducible apply iteR_keeps
    | with_reducible apply next_keeps
    | with_reducible apply each_keeps
    | with_reducible apply foldl_keeps'
    | with_reducible apply foldl2_keeps
    | with_reducible apply foldl3_keeps
    | with_reducible apply foldl4_keeps
    | with_reducible apply chain_keeps
    | with_reducible apply gather_keeps
    | with_reducible apply readThen_keeps
    | dsimp only
    | (refine Keeps.of_eq (by with_reducible assumption) ?_)
    | with_reducible apply upd_keeps

end Sys2Proof.Machine
end

