-- ==== Sys2Proof/Laws/KeepsStreams.lean ====
section
/-! SUPPORT. A command leaves the queue as it waits and memory in canonical form: streams, tiles, transport. -/

namespace Sys2Proof.Machine

theorem checkDrained_keeps {o s : State} (h : Keeps o s) (id : Nat) (pos : W64) : Keeps o (checkDrained id pos s) := by
  unfold checkDrained
  iterate 25 all_goals try first
    | with_reducible assumption
    | with_reducible apply postDrained_keeps
    | split
    | with_reducible apply next_keeps
    | with_reducible apply upd_keeps

theorem doStop_keeps {o s : State} (h : Keeps o s) (id : Nat) : Keeps o (doStop id s) := by
  unfold doStop
  iterate 25 all_goals try first
    | with_reducible assumption
    | with_reducible apply postDrained_keeps
    | with_reducible apply checkDrained_keeps
    | with_reducible apply streamErr_keeps
    | with_reducible apply State.modStream_keeps
    | split
    | with_reducible apply next_keeps
    | with_reducible apply upd_keeps

theorem execStop_keeps {o s : State} (h : Keeps o s) (a0 : Nat) : KeepsR o (execStop a0 s) := by
  unfold execStop
  iterate 25 all_goals try first
    | with_reducible assumption
    | with_reducible exact Keeps.refl _
    | with_reducible apply byReader_keeps
    | with_reducible apply doStop_keeps
    | intro _
    | split
    | with_reducible apply ite_keeps
    | with_reducible apply ite2_keeps
    | with_reducible apply iteR_keeps
    | with_reducible apply next_keeps
    | with_reducible apply each_keeps
    | with_reducible apply foldl_keeps'
    | with_reducible apply foldl2_keeps
    | with_reducible apply foldl3_keeps
    | with_reducible apply foldl4_keeps
    | with_reducible apply chain_keeps
    | with_reducible apply gather_keeps
    | with_reducible apply readThen_keeps
    | dsimp only
    | (refine Keeps.of_eq (by with_reducible assumption) ?_)
    | with_reducible apply upd_keeps

theorem setResult_keeps {o s : State} (h : Keeps o s) (id : Nat) (code : Nat) (detail : Nat) : Keeps o (setResult id code detail s) := by
  unfold setResult
  iterate 25 all_goals try first
    | with_reducible assumption
    | with_reducible apply State.modStream_keeps
    | split
    | with_reducible apply next_keeps
    | with_reducible apply upd_keeps

theorem consumeHead_keeps {o s : State} (h : Keeps o s) (id : Nat) (status : Nat) (always : Bool) : Keeps o (consumeHead id status always s) := by
  unfold consumeHead
  iterate 25 all_goals try first
    | with_reducible assumption
    | with_reducible apply post_keeps
    | with_reducible apply State.modStream_keeps
    | with_reducible apply State.modQueue_keeps
    | split
    | with_reducible apply next_keeps
    | with_reducible apply upd_keeps

theorem settleHead_keeps {o s : State} (h : Keeps o s) (id : Nat) (a1 : Nat) : Keeps o (settleHead id a1 s) := by
  induction a1 generalizing s id with
  | zero =>
    unfold settleHead
    iterate 25 all_goals try first
      | with_reducible assumption
      | with_reducible exact Keeps.refl _
      | with_reducible apply consumeHead_keeps
      | intro _
      | split
      | with_reducible apply ite_keeps
      | with_reducible apply ite2_keeps
      | with_reducible apply iteR_keeps
      | with_reducible apply next_keeps
      | with_reducible apply each_keeps
      | with_reducible apply foldl_keeps'
      | with_reducible apply foldl2_keeps
      | with_reducible apply foldl3_keeps
      | with_reducible apply foldl4_keeps
      | with_reducible apply chain_keeps
      | with_reducible apply gather_keeps
      | with_reducible apply readThen_keeps
      | dsimp only
      | (refine Keeps.of_eq (by with_reducible assumption) ?_)
      | with_reducible apply upd_keeps
  | succ n ih =>
    unfold settleHead
    iterate 25 all_goals try first
      | with_reducible assumption
      | with_reducible exact Keeps.refl _
      | with_reducible apply ih
      | with_reducible apply consumeHead_keeps
      | intro _
      | split
      | with_reducible apply ite_keeps
      | with_reducible apply ite2_keeps
      | with_reducible apply iteR_keeps
      | with_reducible apply next_keeps
      | with_reducible apply each_keeps
      | with_reducible apply foldl_keeps'
      | with_reducible apply foldl2_keeps
      | with_reducible apply foldl3_keeps
      | with_reducible apply foldl4_keeps
      | with_reducible apply chain_keeps
      | with_reducible apply gather_keeps
      | with_reducible apply readThen_keeps
      | dsimp only
      | (refine Keeps.of_eq (by with_reducible assumption) ?_)
      | with_reducible apply upd_keeps

theorem takeMark_keeps {o s : State} (h : Keeps o s) (id : Nat) (cq : Nat) (cookie : W32) : Keeps o (takeMark id cq cookie s) := by
  unfold takeMark
  iterate 25 all_goals try first
    | with_reducible assumption
    | with_reducible apply post_keeps
    | with_reducible apply State.modStream_keeps
    | split
    | with_reducible apply next_keeps
    | with_reducible apply upd_keeps

theorem takeEntry_keeps {o s : State} (h : Keeps o s) (id : Nat) (e : List Byte) : Keeps o (takeEntry id e s) := by
  unfold takeEntry
  iterate 25 all_goals try first
    | with_reducible assumption
    | with_reducible apply takeMark_keeps
    | with_reducible apply consumeHead_keeps
    | with_reducible apply State.modStream_keeps
    | split
    | with_reducible apply next_keeps
    | with_reducible apply upd_keeps

theorem takeEntries_keeps {o s : State} (h : Keeps o s) (id : Nat) (a1 : Nat) : Keeps o (takeEntries id a1 s) := by
  induction a1 generalizing s id with
  | zero =>
    unfold takeEntries
    iterate 25 all_goals try first
      | with_reducible assumption
      | with_reducible exact Keeps.refl _
      | with_reducible apply settleHead_keeps
      | with_reducible apply takeEntry_keeps
      | intro _
      | split
      | with_reducible apply ite_keeps
      | with_reducible apply ite2_keeps
      | with_reducible apply iteR_keeps
      | with_reducible apply next_keeps
      | with_reducible apply each_keeps
      | with_reducible apply foldl_keeps'
      | with_reducible apply foldl2_keeps
      | with_reducible apply foldl3_keeps
      | with_reducible apply foldl4_keeps
      | with_reducible apply chain_keeps
      | with_reducible apply gather_keeps
      | with_reducible apply readThen_keeps
      | dsimp only
      | (refine Keeps.of_eq (by with_reducible assumption) ?_)
      | with_reducible apply upd_keeps
  | succ n ih =>
    unfold takeEntries
    iterate 25 all_goals try first
      | with_reducible assumption
      | with_reducible exact Keeps.refl _
      | with_reducible apply ih
      | with_reducible apply settleHead_keeps
      | with_reducible apply takeEntry_keeps
      | intro _
      | split
      | with_reducible apply ite_keeps
      | with_reducible apply ite2_keeps
      | with_reducible apply iteR_keeps
      | with_reducible apply next_keeps
      | with_reducible apply each_keeps
      | with_reducible apply foldl_keeps'
      | with_reducible apply foldl2_keeps
      | with_reducible apply foldl3_keeps
      | with_reducible apply foldl4_keeps
      | with_reducible apply chain_keeps
      | with_reducible apply gather_keeps
      | with_reducible apply readThen_keeps
      | dsimp only
      | (refine Keeps.of_eq (by with_reducible assumption) ?_)
      | with_reducible apply upd_keeps

theorem checkDrain_keeps {o s : State} (h : Keeps o s) (id : Nat) : Keeps o (checkDrain id s) := by
  unfold checkDrain
  iterate 25 all_goals try first
    | with_reducible assumption
    | with_reducible apply takeEntries_keeps
    | with_reducible apply settleHead_keeps
    | with_reducible apply consumeHead_keeps
    | with_reducible apply State.modStream_keeps
    | split
    | with_reducible apply next_keeps
    | with_reducible apply upd_keeps

theorem beginRun_keeps {o s : State} (h : Keeps o s) (id : Nat) (p : PlanEnt) (start : W64) : Keeps o (beginRun id p start s) := by
  unfold beginRun
  iterate 25 all_goals try first
    | with_reducible assumption
    | with_reducible apply checkDrain_keeps
    | with_reducible apply post_keeps
    | with_reducible apply State.modStream_keeps
    | split
    | with_reducible apply next_keeps
    | with_reducible apply upd_keeps

theorem doStart_keeps {o s : State} (h : Keeps o s) (id : Nat) : Keeps o (doStart id s) := by
  unfold doStart
  iterate 25 all_goals try first
    | with_reducible assumption
    | with_reducible apply setResult_keeps
    | with_reducible apply streamErr_keeps
    | with_reducible apply State.modStream_keeps
    | with_reducible apply beginRun_keeps
    | split
    | with_reducible apply next_keeps
    | with_reducible apply upd_keeps

theorem writeQueueHead_keeps {o s : State} (h : Keeps o s) (a0 : Nat) (v : W32) : Keeps o (writeQueueHead a0 v s) := by
  unfold writeQueueHead
  iterate 25 all_goals try first
    | with_reducible assumption
    | with_reducible apply State.modSess_keeps
    | with_reducible apply State.modQueue_keeps
    | split
    | with_reducible apply next_keeps
    | with_reducible apply upd_keeps

theorem startFetch_keeps {o s : State} (h : Keeps o s) (p : Nat) : Keeps o (startFetch p s) := by
  unfold startFetch
  iterate 25 all_goals try first
    | with_reducible assumption
    | with_reducible apply State.modProfile_keeps
    | split
    | with_reducible apply next_keeps
    | with_reducible apply upd_keeps

theorem moveVoice_keeps {o s : State} (h : Keeps o s) (id : Nat) (p : BitVec 20) : Keeps o (moveVoice id p s) := by
  unfold moveVoice
  iterate 25 all_goals try first
    | with_reducible assumption
    | with_reducible apply unpin_keeps
    | with_reducible apply startFetch_keeps
    | with_reducible apply State.modStream_keeps
    | split
    | with_reducible apply next_keeps
    | with_reducible apply upd_keeps

theorem writeSeedHi_keeps {o s : State} (h : Keeps o s) (a0 : Nat) (v : W32) : Keeps o (writeSeedHi a0 v s) := by
  unfold writeSeedHi
  iterate 25 all_goals try first
    | with_reducible assumption
    | with_reducible apply streamErr_keeps
    | with_reducible apply State.modStream_keeps
    | split
    | with_reducible apply next_keeps
    | with_reducible apply upd_keeps

theorem execStreamSeedHi_keeps {o s : State} (h : Keeps o s) (a0 : Nat) (v : W32) : KeepsR o (execStreamSeedHi a0 v s) := by
  unfold execStreamSeedHi
  iterate 25 all_goals try first
    | with_reducible assumption
    | with_reducible exact Keeps.refl _
    | with_reducible apply byReader_keeps
    | with_reducible apply writeSeedHi_keeps
    | intro _
    | split
    | with_reducible apply ite_keeps
    | with_reducible apply ite2_keeps
    | with_reducible apply iteR_keeps
    | with_reducible apply next_keeps
    | with_reducible apply each_keeps
    | with_reducible apply foldl_keeps'
    | with_reducible apply foldl2_keeps
    | with_reducible apply foldl3_keeps
    | with_reducible apply foldl4_keeps
    | with_reducible apply chain_keeps
    | with_reducible apply gather_keeps
    | with_reducible apply readThen_keeps
    | dsimp only
    | (refine Keeps.of_eq (by with_reducible assumption) ?_)
    | with_reducible apply upd_keeps

theorem dropCarried_keeps {o s : State} (h : Keeps o s) (id : Nat) : Keeps o (dropCarried id s) := by
  unfold dropCarried
  iterate 25 all_goals try first
    | with_reducible assumption
    | split
    | with_reducible apply next_keeps
    | with_reducible apply upd_keeps

theorem writeParkHi_keeps {o s : State} (h : Keeps o s) (a0 : Nat) (v : W32) : Keeps o (writeParkHi a0 v s) := by
  unfold writeParkHi
  iterate 25 all_goals try first
    | with_reducible assumption
    | with_reducible apply streamErr_keeps
    | with_reducible apply State.modStream_keeps
    | split
    | with_reducible apply next_keeps
    | with_reducible apply upd_keeps

theorem execStreamParkHi_keeps {o s : State} (h : Keeps o s) (a0 : Nat) (v : W32) : KeepsR o (execStreamParkHi a0 v s) := by
  unfold execStreamParkHi
  iterate 25 all_goals try first
    | with_reducible assumption
    | with_reducible exact Keeps.refl _
    | with_reducible apply byReader_keeps
    | with_reducible apply writeParkHi_keeps
    | intro _
    | split
    | with_reducible apply ite_keeps
    | with_reducible apply ite2_keeps
    | with_reducible apply iteR_keeps
    | with_reducible apply next_keeps
    | with_reducible apply each_keeps
    | with_reducible apply foldl_keeps'
    | with_reducible apply foldl2_keeps
    | with_reducible apply foldl3_keeps
    | with_reducible apply foldl4_keeps
    | with_reducible apply chain_keeps
    | with_reducible apply gather_keeps
    | with_reducible apply readThen_keeps
    | dsimp only
    | (refine Keeps.of_eq (by with_reducible assumption) ?_)
    | with_reducible apply upd_keeps

theorem writeInvT_keeps {o s : State} (h : Keeps o s) (a0 : Nat) (v : W32) : Keeps o (writeInvT a0 v s) := by
  unfold writeInvT
  iterate 25 all_goals try first
    | with_reducible assumption
    | with_reducible apply streamErr_keeps
    | with_reducible apply State.modStream_keeps
    | split
    | with_reducible apply next_keeps
    | with_reducible apply upd_keeps

theorem execStreamInvT_keeps {o s : State} (h : Keeps o s) (a0 : Nat) (v : W32) : KeepsR o (execStreamInvT a0 v s) := by
  unfold execStreamInvT
  iterate 25 all_goals try first
    | with_reducible assumption
    | with_reducible exact Keeps.refl _
    | with_reducible apply byReader_keeps
    | with_reducible apply writeInvT_keeps
    | intro _
    | split
    | with_reducible apply ite_keeps
    | with_reducible apply ite2_keeps
    | with_reducible apply iteR_keeps
    | with_reducible apply next_keeps
    | with_reducible apply each_keeps
    | with_reducible apply foldl_keeps'
    | with_reducible apply foldl2_keeps
    | with_reducible apply foldl3_keeps
    | with_reducible apply foldl4_keeps
    | with_reducible apply chain_keeps
    | with_reducible apply gather_keeps
    | with_reducible apply readThen_keeps
    | dsimp only
    | (refine Keeps.of_eq (by with_reducible assumption) ?_)
    | with_reducible apply upd_keeps

theorem writeLoHalf_keeps {o s : State} (h : Keeps o s) (a0 : Nat) (off : Nat) (v : W32) : Keeps o (writeLoHalf a0 off v s) := by
  unfold writeLoHalf
  iterate 25 all_goals try first
    | with_reducible assumption
    | with_reducible apply State.modSess_keeps
    | split
    | with_reducible apply next_keeps
    | with_reducible apply upd_keeps

theorem execStreamLoHalfWrite_keeps {o s : State} (h : Keeps o s) (a0 : Nat) (off : W32) (v : W32) : KeepsR o (execStreamLoHalfWrite a0 off v s) := by
  unfold execStreamLoHalfWrite
  iterate 25 all_goals try first
    | with_reducible assumption
    | with_reducible exact Keeps.refl _
    | with_reducible apply byReader_keeps
    | with_reducible apply writeLoHalf_keeps
    | intro _
    | split
    | with_reducible apply ite_keeps
    | with_reducible apply ite2_keeps
    | with_reducible apply iteR_keeps
    | with_reducible apply next_keeps
    | with_reducible apply each_keeps
    | with_reducible apply foldl_keeps'
    | with_reducible apply foldl2_keeps
    | with_reducible apply foldl3_keeps
    | with_reducible apply foldl4_keeps
    | with_reducible apply chain_keeps
    | with_reducible apply gather_keeps
    | with_reducible apply readThen_keeps
    | dsimp only
    | (refine Keeps.of_eq (by with_reducible assumption) ?_)
    | with_reducible apply upd_keeps

theorem wakeFlow_keeps {o s : State} (h : Keeps o s) (l : Nat) : Keeps o (wakeFlow l s) := by
  unfold wakeFlow
  iterate 25 all_goals try first
    | with_reducible assumption
    | with_reducible apply wakeStage_keeps
    | split
    | with_reducible apply next_keeps
    | with_reducible apply upd_keeps

theorem execClose_keeps {o s : State} (h : Keeps o s) (a0 : Nat) : KeepsR o (execClose a0 s) := by
  unfold execClose
  iterate 25 all_goals try first
    | with_reducible assumption
    | with_reducible exact Keeps.refl _
    | with_reducible apply byReader_keeps
    | with_reducible apply doClose_keeps
    | intro _
    | split
    | with_reducible apply ite_keeps
    | with_reducible apply ite2_keeps
    | with_reducible apply iteR_keeps
    | with_reducible apply next_keeps
    | with_reducible apply each_keeps
    | with_reducible apply foldl_keeps'
    | with_reducible apply foldl2_keeps
    | with_reducible apply foldl3_keeps
    | with_reducible apply foldl4_keeps
    | with_reducible apply chain_keeps
    | with_reducible apply gather_keeps
    | with_reducible apply readThen_keeps
    | dsimp only
    | (refine Keeps.of_eq (by with_reducible assumption) ?_)
    | with_reducible apply upd_keeps

theorem abortStream_keeps {o s : State} (h : Keeps o s) (id : Nat) (cause : Nat) (p0 : W32) (p1 : W32) : Keeps o (abortStream id cause p0 p1 s) := by
  unfold abortStream
  iterate 25 all_goals try first
    | with_reducible assumption
    | with_reducible apply abortHere_keeps
    | with_reducible apply sendRingAll_keeps
    | split
    | with_reducible apply next_keeps
    | with_reducible apply upd_keeps

theorem writeStartHi_keeps {o s : State} (h : Keeps o s) (a0 : Nat) (v : W32) : Keeps o (writeStartHi a0 v s) := by
  unfold writeStartHi
  iterate 25 all_goals try first
    | with_reducible assumption
    | with_reducible apply streamErr_keeps
    | with_reducible apply State.modStream_keeps
    | split
    | with_reducible apply next_keeps
    | with_reducible apply upd_keeps

theorem execStreamStartHi_keeps {o s : State} (h : Keeps o s) (a0 : Nat) (v : W32) : KeepsR o (execStreamStartHi a0 v s) := by
  unfold execStreamStartHi
  iterate 25 all_goals try first
    | with_reducible assumption
    | with_reducible exact Keeps.refl _
    | with_reducible apply byReader_keeps
    | with_reducible apply writeStartHi_keeps
    | intro _
    | split
    | with_reducible apply ite_keeps
    | with_reducible apply ite2_keeps
    | with_reducible apply iteR_keeps
    | with_reducible apply next_keeps
    | with_reducible apply each_keeps
    | with_reducible apply foldl_keeps'
    | with_reducible apply foldl2_keeps
    | with_reducible apply foldl3_keeps
    | with_reducible apply foldl4_keeps
    | with_reducible apply chain_keeps
    | with_reducible apply gather_keeps
    | with_reducible apply readThen_keeps
    | dsimp only
    | (refine Keeps.of_eq (by with_reducible assumption) ?_)
    | with_reducible apply upd_keeps

theorem doAbort_keeps {o s : State} (h : Keeps o s) (a0 : Nat) (id : Nat) : Keeps o (doAbort a0 id s) := by
  unfold doAbort
  iterate 25 all_goals try first
    | with_reducible assumption
    | with_reducible apply abortStream_keeps
    | with_reducible apply streamErr_keeps
    | split
    | with_reducible apply next_keeps
    | with_reducible apply upd_keeps

theorem execQueueHead_keeps {o s : State} (h : Keeps o s) (a0 : Nat) (v : W32) : KeepsR o (execQueueHead a0 v s) := by
  unfold execQueueHead
  iterate 25 all_goals try first
    | with_reducible assumption
    | with_reducible exact Keeps.refl _
    | with_reducible apply byReader_keeps
    | with_reducible apply writeQueueHead_keeps
    | intro _
    | split
    | with_reducible apply ite_keeps
    | with_reducible apply ite2_keeps
    | with_reducible apply iteR_keeps
    | with_reducible apply next_keeps
    | with_reducible apply each_keeps
    | with_reducible apply foldl_keeps'
    | with_reducible apply foldl2_keeps
    | with_reducible apply foldl3_keeps
    | with_reducible apply foldl4_keeps
    | with_reducible apply chain_keeps
    | with_reducible apply gather_keeps
    | with_reducible apply readThen_keeps
    | dsimp only
    | (refine Keeps.of_eq (by with_reducible assumption) ?_)
    | with_reducible apply upd_keeps

theorem execAbort_keeps {o s : State} (h : Keeps o s) (a0 : Nat) : KeepsR o (execAbort a0 s) := by
  unfold execAbort
  iterate 25 all_goals try first
    | with_reducible assumption
    | with_reducible exact Keeps.refl _
    | with_reducible apply byReader_keeps
    | with_reducible apply doAbort_keeps
    | intro _
    | split
    | with_reducible apply ite_keeps
    | with_reducible apply ite2_keeps
    | with_reducible apply iteR_keeps
    | with_reducible apply next_keeps
    | with_reducible apply each_keeps
    | with_reducible apply foldl_keeps'
    | with_reducible apply foldl2_keeps
    | with_reducible apply foldl3_keeps
    | with_reducible apply foldl4_keeps
    | with_reducible apply chain_keeps
    | with_reducible apply gather_keeps
    | with_reducible apply readThen_keeps
    | dsimp only
    | (refine Keeps.of_eq (by with_reducible assumption) ?_)
    | with_reducible apply upd_keeps

theorem State.modTxn_keeps {o s : State} (h : Keeps o s) (f : TxnUnit → TxnUnit) : Keeps o (State.modTxn s f) := by
  unfold State.modTxn
  iterate 25 all_goals try first
    | with_reducible assumption
    | split
    | with_reducible apply next_keeps
    | with_reducible apply upd_keeps

theorem setOutcome_keeps {o s : State} (h : Keeps o s) (a0 : TxnOutcome) : Keeps o (setOutcome a0 s) := by
  unfold setOutcome
  iterate 25 all_goals try first
    | with_reducible assumption
    | with_reducible apply State.modTxn_keeps
    | split
    | with_reducible apply next_keeps
    | with_reducible apply upd_keeps

theorem refreshHolds_keeps {o s : State} (h : Keeps o s) (ids : List Nat) : Keeps o (refreshHolds ids s) := by
  unfold refreshHolds
  iterate 25 all_goals try first
    | with_reducible assumption
    | with_reducible exact Keeps.refl _
    | with_reducible apply State.modStream_keeps
    | intro _
    | split
    | with_reducible apply ite_keeps
    | with_reducible apply ite2_keeps
    | with_reducible apply iteR_keeps
    | with_reducible apply next_keeps
    | with_reducible apply each_keeps
    | with_reducible apply foldl_keeps'
    | with_reducible apply foldl2_keeps
    | with_reducible apply foldl3_keeps
    | with_reducible apply foldl4_keeps
    | with_reducible apply chain_keeps
    | with_reducible apply gather_keeps
    | with_reducible apply readThen_keeps
    | dsimp only
    | (refine Keeps.of_eq (by with_reducible assumption) ?_)
    | with_reducible apply upd_keeps

theorem finishTxn_keeps {o s : State} (h : Keeps o s) (a0 : Txn) (st : TxnState) (code : Nat) (idx : Nat) : Keeps o (finishTxn a0 st code idx s) := by
  unfold finishTxn
  iterate 25 all_goals try first
    | with_reducible assumption
    | with_reducible apply State.modTxn_keeps
    | with_reducible apply setOutcome_keeps
    | with_reducible apply refreshHolds_keeps
    | split
    | with_reducible apply next_keeps
    | with_reducible apply upd_keeps

theorem doneTxn_keeps {o s : State} (h : Keeps o s) (a0 : Txn) : Keeps o (doneTxn a0 s) := by
  unfold doneTxn
  iterate 25 all_goals try first
    | with_reducible assumption
    | with_reducible apply fire_keeps
    | with_reducible apply finishTxn_keeps
    | split
    | with_reducible apply next_keeps
    | with_reducible apply upd_keeps

theorem settleTxns_keeps {o s : State} (h : Keeps o s) : Keeps o (settleTxns s) := by
  unfold settleTxns
  iterate 25 all_goals try first
    | with_reducible assumption
    | with_reducible exact Keeps.refl _
    | with_reducible apply doneTxn_keeps
    | intro _
    | split
    | with_reducible apply ite_keeps
    | with_reducible apply ite2_keeps
    | with_reducible apply iteR_keeps
    | with_reducible apply next_keeps
    | with_reducible apply each_keeps
    | with_reducible apply foldl_keeps'
    | with_reducible apply foldl2_keeps
    | with_reducible apply foldl3_keeps
    | with_reducible apply foldl4_keeps
    | with_reducible apply chain_keeps
    | with_reducible apply gather_keeps
    | with_reducible apply readThen_keeps
    | dsimp only
    | (refine Keeps.of_eq (by with_reducible assumption) ?_)
    | with_reducible apply upd_keeps

theorem markUnpaced_keeps {o s : State} (h : Keeps o s) (id : Nat) : Keeps o (markUnpaced id s) := by
  unfold markUnpaced
  iterate 25 all_goals try first
    | with_reducible assumption
    | with_reducible apply State.modTxn_keeps
    | with_reducible apply settleTxns_keeps
    | split
    | with_reducible apply next_keeps
    | with_reducible apply upd_keeps

theorem newOutcome_keeps {o s : State} (h : Keeps o s) (a0 : TxnOutcome) : Keeps o (newOutcome a0 s) := by
  unfold newOutcome
  iterate 25 all_goals try first
    | with_reducible assumption
    | with_reducible apply State.modTxn_keeps
    | split
    | with_reducible apply next_keeps
    | with_reducible apply upd_keeps

theorem putTxn_keeps {o s : State} (h : Keeps o s) (a0 : Txn) : Keeps o (putTxn a0 s) := by
  unfold putTxn
  iterate 25 all_goals try first
    | with_reducible assumption
    | with_reducible apply State.modTxn_keeps
    | split
    | with_reducible apply next_keeps
    | with_reducible apply upd_keeps

theorem attachAll_keeps {o s : State} (h : Keeps o s) (id : Nat) : Keeps o (attachAll id s).2 := by
  unfold attachAll
  iterate 25 all_goals try first
    | with_reducible assumption
    | with_reducible exact Keeps.refl _
    | with_reducible apply State.modProfile_keeps
    | with_reducible apply takeEntries_keeps
    | with_reducible apply moveVoice_keeps
    | with_reducible apply State.modStream_keeps
    | intro _
    | split
    | with_reducible apply ite_keeps
    | with_reducible apply ite2_keeps
    | with_reducible apply iteR_keeps
    | with_reducible apply next_keeps
    | with_reducible apply each_keeps
    | with_reducible apply foldl_keeps'
    | with_reducible apply foldl2_keeps
    | with_reducible apply foldl3_keeps
    | with_reducible apply foldl4_keeps
    | with_reducible apply chain_keeps
    | with_reducible apply gather_keeps
    | with_reducible apply readThen_keeps
    | dsimp only
    | (refine Keeps.of_eq (by with_reducible assumption) ?_)
    | with_reducible apply upd_keeps

theorem queueText_keeps {o s : State} (h : Keeps o s) (a0 : Step) (g : ProgEnt) : Keeps o (queueText a0 g s) := by
  unfold queueText
  iterate 25 all_goals try first
    | with_reducible assumption
    | with_reducible exact Keeps.refl _
    | with_reducible apply State.modChannel_keeps
    | intro _
    | split
    | with_reducible apply ite_keeps
    | with_reducible apply ite2_keeps
    | with_reducible apply iteR_keeps
    | with_reducible apply next_keeps
    | with_reducible apply each_keeps
    | with_reducible apply foldl_keeps'
    | with_reducible apply foldl2_keeps
    | with_reducible apply foldl3_keeps
    | with_reducible apply foldl4_keeps
    | with_reducible apply chain_keeps
    | with_reducible apply gather_keeps
    | with_reducible apply readThen_keeps
    | dsimp only
    | (refine Keeps.of_eq (by with_reducible assumption) ?_)
    | with_reducible apply upd_keeps

theorem sweepHalted_keeps {o s : State} (h : Keeps o s) : Keeps o (sweepHalted s) := by
  unfold sweepHalted
  iterate 25 all_goals try first
    | with_reducible assumption
    | with_reducible exact Keeps.refl _
    | with_reducible apply abortStream_keeps
    | intro _
    | split
    | with_reducible apply ite_keeps
    | with_reducible apply ite2_keeps
    | with_reducible apply iteR_keeps
    | with_reducible apply next_keeps
    | with_reducible apply each_keeps
    | with_reducible apply foldl_keeps'
    | with_reducible apply foldl2_keeps
    | with_reducible apply foldl3_keeps
    | with_reducible apply foldl4_keeps
    | with_reducible apply chain_keeps
    | with_reducible apply gather_keeps
    | with_reducible apply readThen_keeps
    | dsimp only
    | (refine Keeps.of_eq (by with_reducible assumption) ?_)
    | with_reducible apply upd_keeps

theorem createToken_keeps {o s : State} (h : Keeps o s) (id : Nat) (round : Nat) (p : PlanEnt) : Keeps o (createToken id round p s) := by
  unfold createToken
  iterate 25 all_goals try first
    | with_reducible assumption
    | with_reducible apply attachAll_keeps
    | with_reducible apply State.modStream_keeps
    | with_reducible apply State.modLive_keeps
    | split
    | with_reducible apply next_keeps
    | with_reducible apply upd_keeps

theorem putStep_keeps {o s : State} (h : Keeps o s) (stage : Nat) (g : ProgEnt) (a2 : Step) : Keeps o (putStep stage g a2 s) := by
  unfold putStep
  iterate 25 all_goals try first
    | with_reducible assumption
    | with_reducible apply State.modStage_keeps
    | with_reducible apply queueText_keeps
    | split
    | with_reducible apply next_keeps
    | with_reducible apply upd_keeps

theorem addSteps_keeps {o s : State} (h : Keeps o s) (p : PlanEnt) (kidx : Nat) (kind : Nat) (round : Nat) (run : Nat) (rows : List (Nat × Row)) : Keeps o (addSteps p kidx kind round run rows s) := by
  unfold addSteps
  iterate 25 all_goals try first
    | with_reducible assumption
    | with_reducible exact Keeps.refl _
    | with_reducible apply wakeStage_keeps
    | with_reducible apply putStep_keeps
    | intro _
    | split
    | with_reducible apply ite_keeps
    | with_reducible apply ite2_keeps
    | with_reducible apply iteR_keeps
    | with_reducible apply next_keeps
    | with_reducible apply each_keeps
    | with_reducible apply foldl_keeps'
    | with_reducible apply foldl2_keeps
    | with_reducible apply foldl3_keeps
    | with_reducible apply foldl4_keeps
    | with_reducible apply chain_keeps
    | with_reducible apply gather_keeps
    | with_reducible apply readThen_keeps
    | dsimp only
    | (refine Keeps.of_eq (by with_reducible assumption) ?_)
    | with_reducible apply upd_keeps

theorem addLevels_keeps {o s : State} (h : Keeps o s) (p : PlanEnt) (round : Nat) (run : Nat) (rowsAt : Nat → List (Nat × Row)) : Keeps o (addLevels p round run rowsAt s) := by
  unfold addLevels
  iterate 25 all_goals try first
    | with_reducible assumption
    | with_reducible exact Keeps.refl _
    | with_reducible apply addSteps_keeps
    | intro _
    | split
    | with_reducible apply ite_keeps
    | with_reducible apply ite2_keeps
    | with_reducible apply iteR_keeps
    | with_reducible apply next_keeps
    | with_reducible apply each_keeps
    | with_reducible apply foldl_keeps'
    | with_reducible apply foldl2_keeps
    | with_reducible apply foldl3_keeps
    | with_reducible apply foldl4_keeps
    | with_reducible apply chain_keeps
    | with_reducible apply gather_keeps
    | with_reducible apply readThen_keeps
    | dsimp only
    | (refine Keeps.of_eq (by with_reducible assumption) ?_)
    | with_reducible apply upd_keeps

theorem haltRun_keeps {o s : State} (h : Keeps o s) (id : Nat) : Keeps o (haltRun id s) := by
  unfold haltRun
  iterate 25 all_goals try first
    | with_reducible assumption
    | with_reducible apply State.modStream_keeps
    | split
    | with_reducible apply next_keeps
    | with_reducible apply upd_keeps

theorem advanceSingle_keeps {o s : State} (h : Keeps o s) (id : Nat) (p : PlanEnt) : Keeps o (advanceSingle id p s) := by
  unfold advanceSingle
  iterate 25 all_goals try first
    | with_reducible assumption
    | with_reducible exact Keeps.refl _
    | with_reducible apply startFetch_keeps
    | with_reducible apply markUnpaced_keeps
    | with_reducible apply createToken_keeps
    | with_reducible apply addLevels_keeps
    | with_reducible apply haltRun_keeps
    | with_reducible apply State.modStream_keeps
    | intro _
    | split
    | with_reducible apply ite_keeps
    | with_reducible apply ite2_keeps
    | with_reducible apply iteR_keeps
    | with_reducible apply next_keeps
    | with_reducible apply each_keeps
    | with_reducible apply foldl_keeps'
    | with_reducible apply foldl2_keeps
    | with_reducible apply foldl3_keeps
    | with_reducible apply foldl4_keeps
    | with_reducible apply chain_keeps
    | with_reducible apply gather_keeps
    | with_reducible apply readThen_keeps
    | dsimp only
    | (refine Keeps.of_eq (by with_reducible assumption) ?_)
    | with_reducible apply upd_keeps

theorem progress_keeps {o s : State} (h : Keeps o s) (id : Nat) : Keeps o (progress id s) := by
  unfold progress
  iterate 25 all_goals try first
    | with_reducible assumption
    | with_reducible apply sweepHalted_keeps
    | with_reducible apply checkDrained_keeps
    | with_reducible apply checkDrain_keeps
    | with_reducible apply advanceSingle_keeps
    | split
    | with_reducible apply next_keeps
    | with_reducible apply upd_keeps

theorem writeSched_keeps {o s : State} (h : Keeps o s) (a0 : Nat) (off : Nat) (v : W32) : Keeps o (writeSched a0 off v s) := by
  unfold writeSched
  iterate 25 all_goals try first
    | with_reducible assumption
    | with_reducible apply State.modSess_keeps
    | with_reducible apply State.modSched_keeps
    | split
    | with_reducible apply next_keeps
    | with_reducible apply upd_keeps

theorem emptySlot_keeps {o s : State} (h : Keeps o s) (id : Nat) (round : Nat) (p : PlanEnt) : Keeps o (emptySlot id round p s) := by
  unfold emptySlot
  iterate 25 all_goals try first
    | with_reducible assumption
    | with_reducible apply startFetch_keeps
    | with_reducible apply post_keeps
    | with_reducible apply State.modStream_keeps
    | with_reducible apply State.modLive_keeps
    | split
    | with_reducible apply next_keeps
    | with_reducible apply upd_keeps

theorem roundStream_keeps {o s : State} (h : Keeps o s) (p : PlanEnt) (a1 : Nat) (id : Nat) : Keeps o (roundStream p a1 s id) := by
  unfold roundStream
  iterate 25 all_goals try first
    | with_reducible assumption
    | with_reducible apply releaseLoad_keeps
    | with_reducible apply emptySlot_keeps
    | with_reducible apply createToken_keeps
    | with_reducible apply haltRun_keeps
    | split
    | with_reducible apply next_keeps
    | with_reducible apply upd_keeps

theorem createRound_keeps {o s : State} (h : Keeps o s) (p : PlanEnt) (a1 : Nat) : Keeps o (createRound p a1 s) := by
  unfold createRound
  iterate 25 all_goals try first
    | with_reducible assumption
    | with_reducible exact Keeps.refl _
    | with_reducible apply writeSlot_keeps
    | with_reducible apply roundStream_keeps
    | with_reducible apply addLevels_keeps
    | intro _
    | split
    | with_reducible apply ite_keeps
    | with_reducible apply ite2_keeps
    | with_reducible apply iteR_keeps
    | with_reducible apply next_keeps
    | with_reducible apply each_keeps
    | with_reducible apply foldl_keeps'
    | with_reducible apply foldl2_keeps
    | with_reducible apply foldl3_keeps
    | with_reducible apply foldl4_keeps
    | with_reducible apply chain_keeps
    | with_reducible apply gather_keeps
    | with_reducible apply readThen_keeps
    | dsimp only
    | (refine Keeps.of_eq (by with_reducible assumption) ?_)
    | with_reducible apply upd_keeps

theorem createRounds_keeps {o s : State} (h : Keeps o s) : Keeps o (createRounds s) := by
  unfold createRounds
  iterate 25 all_goals try first
    | with_reducible assumption
    | with_reducible exact Keeps.refl _
    | with_reducible apply sweepHalted_keeps
    | with_reducible apply createRound_keeps
    | intro _
    | split
    | with_reducible apply ite_keeps
    | with_reducible apply ite2_keeps
    | with_reducible apply iteR_keeps
    | with_reducible apply next_keeps
    | with_reducible apply each_keeps
    | with_reducible apply foldl_keeps'
    | with_reducible apply foldl2_keeps
    | with_reducible apply foldl3_keeps
    | with_reducible apply foldl4_keeps
    | with_reducible apply chain_keeps
    | with_reducible apply gather_keeps
    | with_reducible apply readThen_keeps
    | dsimp only
    | (refine Keeps.of_eq (by with_reducible assumption) ?_)
    | with_reducible apply upd_keeps

theorem joinRound_keeps {o s : State} (h : Keeps o s) (id : Nat) : Keeps o (joinRound id s) := by
  unfold joinRound
  iterate 25 all_goals try first
    | with_reducible assumption
    | with_reducible exact Keeps.refl _
    | with_reducible apply writeSlot_keeps
    | with_reducible apply sweepHalted_keeps
    | with_reducible apply roundStream_keeps
    | with_reducible apply addLevels_keeps
    | intro _
    | split
    | with_reducible apply ite_keeps
    | with_reducible apply ite2_keeps
    | with_reducible apply iteR_keeps
    | with_reducible apply next_keeps
    | with_reducible apply each_keeps
    | with_reducible apply foldl_keeps'
    | with_reducible apply foldl2_keeps
    | with_reducible apply foldl3_keeps
    | with_reducible apply foldl4_keeps
    | with_reducible apply chain_keeps
    | with_reducible apply gather_keeps
    | with_reducible apply readThen_keeps
    | dsimp only
    | (refine Keeps.of_eq (by with_reducible assumption) ?_)
    | with_reducible apply upd_keeps

theorem startNow_keeps {o s : State} (h : Keeps o s) (a0 : Nat) : Keeps o (startNow a0 s) := by
  unfold startNow
  iterate 25 all_goals try first
    | with_reducible assumption
    | with_reducible apply doStart_keeps
    | with_reducible apply joinRound_keeps
    | with_reducible apply progress_keeps
    | split
    | with_reducible apply next_keeps
    | with_reducible apply upd_keeps

theorem execStart_keeps {o s : State} (h : Keeps o s) (a0 : Nat) : KeepsR o (execStart a0 s) := by
  unfold execStart
  iterate 25 all_goals try first
    | with_reducible assumption
    | with_reducible exact Keeps.refl _
    | with_reducible apply startNow_keeps
    | with_reducible apply byReader_keeps
    | intro _
    | split
    | with_reducible apply ite_keeps
    | with_reducible apply ite2_keeps
    | with_reducible apply iteR_keeps
    | with_reducible apply next_keeps
    | with_reducible apply each_keeps
    | with_reducible apply foldl_keeps'
    | with_reducible apply foldl2_keeps
    | with_reducible apply foldl3_keeps
    | with_reducible apply foldl4_keeps
    | with_reducible apply chain_keeps
    | with_reducible apply gather_keeps
    | with_reducible apply readThen_keeps
    | dsimp only
    | (refine Keeps.of_eq (by with_reducible assumption) ?_)
    | with_reducible apply upd_keeps

theorem haltWith_keeps {o s : State} (h : Keeps o s) (own : List Nat) (c : Nat) (code : Nat) (addr : W64) (stream : Nat) (link : Nat) : Keeps o (haltWith own c code addr stream link s) := by
  unfold haltWith
  iterate 25 all_goals try first
    | with_reducible assumption
    | with_reducible exact Keeps.refl _
    | with_reducible apply abortStream_keeps
    | with_reducible apply fire_keeps
    | with_reducible apply State.modChannel_keeps
    | with_reducible apply sweepHalted_keeps
    | with_reducible apply record_keeps
    | intro _
    | split
    | with_reducible apply ite_keeps
    | with_reducible apply ite2_keeps
    | with_reducible apply iteR_keeps
    | with_reducible apply next_keeps
    | with_reducible apply each_keeps
    | with_reducible apply foldl_keeps'
    | with_reducible apply foldl2_keeps
    | with_reducible apply foldl3_keeps
    | with_reducible apply foldl4_keeps
    | with_reducible apply chain_keeps
    | with_reducible apply gather_keeps
    | with_reducible apply readThen_keeps
    | dsimp only
    | (refine Keeps.of_eq (by with_reducible assumption) ?_)
    | with_reducible apply upd_keeps

theorem dropBranch_keeps {o s : State} (h : Keeps o s) (e : LinkEnt) (pos : Nat) : Keeps o (dropBranch e pos s) := by
  unfold dropBranch
  iterate 25 all_goals try first
    | with_reducible assumption
    | with_reducible apply fire_keeps
    | with_reducible apply record_keeps
    | with_reducible apply State.modKimg_keeps
    | split
    | with_reducible apply next_keeps
    | with_reducible apply upd_keeps

theorem haltChannel_keeps {o s : State} (h : Keeps o s) (c : Nat) (code : Nat) (addr : W64) (stream : Nat) (link : Nat) : Keeps o (haltChannel c code addr stream link s) := by
  unfold haltChannel
  iterate 25 all_goals try first
    | with_reducible assumption
    | with_reducible apply haltWith_keeps
    | split
    | with_reducible apply next_keeps
    | with_reducible apply upd_keeps

theorem haltChain_keeps {o s : State} (h : Keeps o s) (link : Nat) : Keeps o (haltChain link s) := by
  unfold haltChain
  iterate 25 all_goals try first
    | with_reducible assumption
    | with_reducible apply State.takeFree_keeps
    | with_reducible apply haltChannel_keeps
    | split
    | with_reducible apply next_keeps
    | with_reducible apply upd_keeps

theorem fillBuffer_keeps {o s : State} (h : Keeps o s) (e : LinkEnt) (a1 : W32) : Keeps o (fillBuffer e a1 s).2 := by
  unfold fillBuffer
  iterate 25 all_goals try first
    | with_reducible assumption
    | with_reducible apply State.modLink_keeps
    | with_reducible apply wakeFlow_keeps
    | with_reducible apply haltChain_keeps
    | split
    | with_reducible apply next_keeps
    | with_reducible apply upd_keeps

theorem arriveBuffer_keeps {o s : State} (h : Keeps o s) (e : LinkEnt) (a1 : W32) (gap : Bool) (src : Peer) : Keeps o (arriveBuffer e a1 gap src s) := by
  unfold arriveBuffer
  iterate 25 all_goals try first
    | with_reducible assumption
    | with_reducible apply State.modLink_keeps
    | with_reducible apply haltChain_keeps
    | with_reducible apply State.modKimg_keeps
    | with_reducible apply fillBuffer_keeps
    | split
    | with_reducible apply next_keeps
    | with_reducible apply upd_keeps

theorem writeTile_keeps {o s : State} (h : Keeps o s) (e : LinkEnt) (a1 : W32) (bytes : List Byte) (tags : List W32) : Keeps o (writeTile e a1 bytes tags s) := by
  unfold writeTile
  iterate 25 all_goals try first
    | with_reducible assumption
    | with_reducible exact Keeps.refl _
    | with_reducible apply writeMem_keeps
    | with_reducible apply setTag_keeps
    | intro _
    | split
    | with_reducible apply ite_keeps
    | with_reducible apply ite2_keeps
    | with_reducible apply iteR_keeps
    | with_reducible apply next_keeps
    | with_reducible apply each_keeps
    | with_reducible apply foldl_keeps'
    | with_reducible apply foldl2_keeps
    | with_reducible apply foldl3_keeps
    | with_reducible apply foldl4_keeps
    | with_reducible apply chain_keeps
    | with_reducible apply gather_keeps
    | with_reducible apply readThen_keeps
    | dsimp only
    | (refine Keeps.of_eq (by with_reducible assumption) ?_)
    | with_reducible apply upd_keeps

theorem startTile_keeps {o s : State} (h : Keeps o s) (e : LinkEnt) (m : TileMsg) (b : Branch) : Keeps o (startTile e m s b) := by
  unfold startTile
  iterate 25 all_goals try first
    | with_reducible assumption
    | with_reducible apply arriveBuffer_keeps
    | with_reducible apply sendDev_keeps
    | with_reducible apply writeTile_keeps
    | with_reducible apply State.modKimg_keeps
    | split
    | with_reducible apply next_keeps
    | with_reducible apply upd_keeps

theorem fillTiles_keeps {o s : State} (h : Keeps o s) (e : LinkEnt) (a1 : Nat) : Keeps o (fillTiles e a1 s) := by
  induction a1 generalizing s e with
  | zero =>
    unfold fillTiles
    iterate 25 all_goals try first
      | with_reducible assumption
      | with_reducible exact Keeps.refl _
      | with_reducible apply State.modLink_keeps
      | with_reducible apply startTile_keeps
      | with_reducible apply State.modKimg_keeps
      | intro _
      | split
      | with_reducible apply ite_keeps
      | with_reducible apply ite2_keeps
      | with_reducible apply iteR_keeps
      | with_reducible apply next_keeps
      | with_reducible apply each_keeps
      | with_reducible apply foldl_keeps'
      | with_reducible apply foldl2_keeps
      | with_reducible apply foldl3_keeps
      | with_reducible apply foldl4_keeps
      | with_reducible apply chain_keeps
      | with_reducible apply gather_keeps
      | with_reducible apply readThen_keeps
      | dsimp only
      | (refine Keeps.of_eq (by with_reducible assumption) ?_)
      | with_reducible apply upd_keeps
  | succ n ih =>
    unfold fillTiles
    iterate 25 all_goals try first
      | with_reducible assumption
      | with_reducible exact Keeps.refl _
      | with_reducible apply ih
      | with_reducible apply State.modLink_keeps
      | with_reducible apply startTile_keeps
      | with_reducible apply State.modKimg_keeps
      | intro _
      | split
      | with_reducible apply ite_keeps
      | with_reducible apply ite2_keeps
      | with_reducible apply iteR_keeps
      | with_reducible apply next_keeps
      | with_reducible apply each_keeps
      | with_reducible apply foldl_keeps'
      | with_reducible apply foldl2_keeps
      | with_reducible apply foldl3_keeps
      | with_reducible apply foldl4_keeps
      | with_reducible apply chain_keeps
      | with_reducible apply gather_keeps
      | with_reducible apply readThen_keeps
      | dsimp only
      | (refine Keeps.of_eq (by with_reducible assumption) ?_)
      | with_reducible apply upd_keeps

theorem fillAll_keeps {o s : State} (h : Keeps o s) (link : Nat) : Keeps o (fillAll link s) := by
  unfold fillAll
  iterate 25 all_goals try first
    | with_reducible assumption
    | with_reducible apply wakeFlow_keeps
    | with_reducible apply fillTiles_keeps
    | split
    | with_reducible apply next_keeps
    | with_reducible apply upd_keeps

theorem produceTile_keeps {o s : State} (h : Keeps o s) (link : Nat) (a1 : OutTile) : Keeps o (produceTile link a1 s) := by
  unfold produceTile
  iterate 25 all_goals try first
    | with_reducible assumption
    | with_reducible apply fillAll_keeps
    | with_reducible apply State.modKimg_keeps
    | split
    | with_reducible apply next_keeps
    | with_reducible apply upd_keeps

theorem readGranule_keeps {o s : State} (h : Keeps o s) (cls : Nat) (tier : Nat) (granule : Nat) (stream : Nat) (noStream : Bool) (seq : Nat) : Keeps o (readGranule cls tier granule stream noStream seq s).2 := by
  unfold readGranule
  iterate 25 all_goals try first
    | with_reducible assumption
    | with_reducible exact Keeps.refl _
    | with_reducible apply readFixed_keeps
    | intro _
    | split
    | with_reducible apply ite_keeps
    | with_reducible apply ite2_keeps
    | with_reducible apply iteR_keeps
    | with_reducible apply next_keeps
    | with_reducible apply each_keeps
    | with_reducible apply foldl_keeps'
    | with_reducible apply foldl2_keeps
    | with_reducible apply foldl3_keeps
    | with_reducible apply foldl4_keeps
    | with_reducible apply chain_keeps
    | with_reducible apply gather_keeps
    | with_reducible apply readThen_keeps
    | dsimp only
    | (refine Keeps.of_eq (by with_reducible assumption) ?_)
    | with_reducible apply upd_keeps

theorem creditBranch_keeps {o s : State} (h : Keeps o s) (e : LinkEnt) (fits : Branch → Bool) (n : Nat) : Keeps o (creditBranch e fits n s) := by
  unfold creditBranch
  iterate 25 all_goals try first
    | with_reducible assumption
    | with_reducible apply fillAll_keeps
    | with_reducible apply haltChain_keeps
    | with_reducible apply State.modKimg_keeps
    | split
    | with_reducible apply next_keeps
    | with_reducible apply upd_keeps

theorem raiseEmpty_keeps {o s : State} (h : Keeps o s) (e : LinkEnt) (n : Nat) : Keeps o (raiseEmpty e n s).2 := by
  unfold raiseEmpty
  iterate 25 all_goals try first
    | with_reducible assumption
    | with_reducible apply State.modLink_keeps
    | with_reducible apply wakeFlow_keeps
    | with_reducible apply haltChain_keeps
    | split
    | with_reducible apply next_keeps
    | with_reducible apply upd_keeps

theorem returnHandle_keeps {o s : State} (h : Keeps o s) (link : Nat) (a1 : W32) : Keeps o (returnHandle link a1 s).2 := by
  unfold returnHandle
  iterate 25 all_goals try first
    | with_reducible assumption
    | with_reducible exact Keeps.refl _
    | with_reducible apply State.modLink_keeps
    | with_reducible apply wakeFlow_keeps
    | with_reducible apply haltChain_keeps
    | with_reducible apply record_keeps
    | intro _
    | split
    | with_reducible apply ite_keeps
    | with_reducible apply ite2_keeps
    | with_reducible apply iteR_keeps
    | with_reducible apply next_keeps
    | with_reducible apply each_keeps
    | with_reducible apply foldl_keeps'
    | with_reducible apply foldl2_keeps
    | with_reducible apply foldl3_keeps
    | with_reducible apply foldl4_keeps
    | with_reducible apply chain_keeps
    | with_reducible apply gather_keeps
    | with_reducible apply readThen_keeps
    | dsimp only
    | (refine Keeps.of_eq (by with_reducible assumption) ?_)
    | with_reducible apply upd_keeps

theorem releaseBuffer_keeps {o s : State} (h : Keeps o s) (e : LinkEnt) (a1 : W32) : Keeps o (releaseBuffer e a1 s).2 := by
  unfold releaseBuffer
  iterate 25 all_goals try first
    | with_reducible assumption
    | with_reducible exact Keeps.refl _
    | with_reducible apply State.modLink_keeps
    | with_reducible apply creditBranch_keeps
    | with_reducible apply fillAll_keeps
    | with_reducible apply raiseEmpty_keeps
    | with_reducible apply returnHandle_keeps
    | with_reducible apply sendSignal_keeps
    | intro _
    | split
    | with_reducible apply ite_keeps
    | with_reducible apply ite2_keeps
    | with_reducible apply iteR_keeps
    | with_reducible apply next_keeps
    | with_reducible apply each_keeps
    | with_reducible apply foldl_keeps'
    | with_reducible apply foldl2_keeps
    | with_reducible apply foldl3_keeps
    | with_reducible apply foldl4_keeps
    | with_reducible apply chain_keeps
    | with_reducible apply gather_keeps
    | with_reducible apply readThen_keeps
    | dsimp only
    | (refine Keeps.of_eq (by with_reducible assumption) ?_)
    | with_reducible apply upd_keeps

theorem takeBuffer_keeps {o s : State} (h : Keeps o s) (e : LinkEnt) {r : _ × State} (hr : (takeBuffer e s) = some r) : Keeps o r.2 := by
  unfold takeBuffer at hr
  dsimp only at hr
  repeat' split at hr
  all_goals first | contradiction | (cases hr)
  iterate 25 all_goals try first
    | with_reducible assumption
    | with_reducible apply State.modLink_keeps
    | split
    | with_reducible apply next_keeps
    | with_reducible apply upd_keeps

theorem takeFull_keeps {o s : State} (h : Keeps o s) (e : LinkEnt) {r : _ × State} (hr : (takeFull e s) = some r) : Keeps o r.2 := by
  unfold takeFull at hr
  dsimp only at hr
  repeat' split at hr
  all_goals first | contradiction | (cases hr)
  iterate 25 all_goals try first
    | with_reducible assumption
    | with_reducible apply State.modLink_keeps
    | split
    | with_reducible apply next_keeps
    | with_reducible apply upd_keeps

theorem readGranules_keeps {o s : State} (h : Keeps o s) (cls : Nat) (a1 : List (Nat × Nat × Nat × Bool × Nat)) : Keeps o (readGranules cls a1 s).2 := by
  induction a1 generalizing s cls with
  | nil =>
    unfold readGranules
    iterate 25 all_goals try first
      | with_reducible assumption
      | with_reducible exact Keeps.refl _
      | with_reducible apply readGranule_keeps
      | intro _
      | split
      | with_reducible apply ite_keeps
      | with_reducible apply ite2_keeps
      | with_reducible apply iteR_keeps
      | with_reducible apply next_keeps
      | with_reducible apply each_keeps
      | with_reducible apply foldl_keeps'
      | with_reducible apply foldl2_keeps
      | with_reducible apply foldl3_keeps
      | with_reducible apply foldl4_keeps
      | with_reducible apply chain_keeps
      | with_reducible apply gather_keeps
      | with_reducible apply readThen_keeps
      | dsimp only
      | (refine Keeps.of_eq (by with_reducible assumption) ?_)
      | with_reducible apply upd_keeps
  | cons a l ih =>
    unfold readGranules
    iterate 25 all_goals try first
      | with_reducible assumption
      | with_reducible exact Keeps.refl _
      | with_reducible apply ih
      | with_reducible apply readGranule_keeps
      | intro _
      | split
      | with_reducible apply ite_keeps
      | with_reducible apply ite2_keeps
      | with_reducible apply iteR_keeps
      | with_reducible apply next_keeps
      | with_reducible apply each_keeps
      | with_reducible apply foldl_keeps'
      | with_reducible apply foldl2_keeps
      | with_reducible apply foldl3_keeps
      | with_reducible apply foldl4_keeps
      | with_reducible apply chain_keeps
      | with_reducible apply gather_keeps
      | with_reducible apply readThen_keeps
      | dsimp only
      | (refine Keeps.of_eq (by with_reducible assumption) ?_)
      | with_reducible apply upd_keeps

theorem blockArrived_keeps {o s : State} (h : Keeps o s) (link : Nat) : Keeps o (blockArrived link s) := by
  unfold blockArrived
  iterate 25 all_goals try first
    | with_reducible assumption
    | with_reducible apply State.modChannel_keeps
    | split
    | with_reducible apply next_keeps
    | with_reducible apply upd_keeps

theorem execTileArrival_keeps {o s : State} (h : Keeps o s) (link : Nat) : KeepsR o (execTileArrival link s) := by
  unfold execTileArrival
  iterate 25 all_goals try first
    | with_reducible assumption
    | with_reducible apply done_keeps
    | with_reducible apply State.modLink_keeps
    | with_reducible apply blockArrived_keeps
    | with_reducible apply fillBuffer_keeps
    | split
    | with_reducible apply next_keeps
    | with_reducible apply upd_keeps

theorem checkEntries_keeps {o s : State} (h : Keeps o s) (id : Nat) (n : Nat) : Keeps o (checkEntries id n s).2 := by
  unfold checkEntries
  iterate 25 all_goals try first
    | with_reducible assumption
    | with_reducible exact Keeps.refl _
    | with_reducible apply readGranule_keeps
    | intro _
    | split
    | with_reducible apply ite_keeps
    | with_reducible apply ite2_keeps
    | with_reducible apply iteR_keeps
    | with_reducible apply next_keeps
    | with_reducible apply each_keeps
    | with_reducible apply foldl_keeps'
    | with_reducible apply foldl2_keeps
    | with_reducible apply foldl3_keeps
    | with_reducible apply foldl4_keeps
    | with_reducible apply chain_keeps
    | with_reducible apply gather_keeps
    | with_reducible apply readThen_keeps
    | dsimp only
    | (refine Keeps.of_eq (by with_reducible assumption) ?_)
    | with_reducible apply upd_keeps

theorem checkSource_keeps {o s : State} (h : Keeps o s) (a0 : Head) (link : Option LinkEnt) (hb : W32) (g : Leg) (a4 : List Nat) (a5 : Desc) : Keeps o (checkSource a0 link hb g a4 a5 s).2 := by
  induction a4 generalizing s a0 link hb g a5 with
  | nil =>
    unfold checkSource
    iterate 25 all_goals try first
      | with_reducible assumption
      | with_reducible exact Keeps.refl _
      | with_reducible apply readGranule_keeps
      | intro _
      | split
      | with_reducible apply ite_keeps
      | with_reducible apply ite2_keeps
      | with_reducible apply iteR_keeps
      | with_reducible apply next_keeps
      | with_reducible apply each_keeps
      | with_reducible apply foldl_keeps'
      | with_reducible apply foldl2_keeps
      | with_reducible apply foldl3_keeps
      | with_reducible apply foldl4_keeps
      | with_reducible apply chain_keeps
      | with_reducible apply gather_keeps
      | with_reducible apply readThen_keeps
      | dsimp only
      | (refine Keeps.of_eq (by with_reducible assumption) ?_)
      | with_reducible apply upd_keeps
  | cons a l ih =>
    unfold checkSource
    iterate 25 all_goals try first
      | with_reducible assumption
      | with_reducible exact Keeps.refl _
      | with_reducible apply ih
      | with_reducible apply readGranule_keeps
      | intro _
      | split
      | with_reducible apply ite_keeps
      | with_reducible apply ite2_keeps
      | with_reducible apply iteR_keeps
      | with_reducible apply next_keeps
      | with_reducible apply each_keeps
      | with_reducible apply foldl_keeps'
      | with_reducible apply foldl2_keeps
      | with_reducible apply foldl3_keeps
      | with_reducible apply foldl4_keeps
      | with_reducible apply chain_keeps
      | with_reducible apply gather_keeps
      | with_reducible apply readThen_keeps
      | dsimp only
      | (refine Keeps.of_eq (by with_reducible assumption) ?_)
      | with_reducible apply upd_keeps

theorem noteLeg_keeps {o s : State} (h : Keeps o s) (c : Nat) (data : Bool) (linear : Bool) (tag : Nat) (g : Leg) : Keeps o (noteLeg c data linear tag g s) := by
  unfold noteLeg
  iterate 25 all_goals try first
    | with_reducible assumption
    | with_reducible apply State.modChannel_keeps
    | split
    | with_reducible apply next_keeps
    | with_reducible apply upd_keeps

theorem readLeg_keeps {o s : State} (h : Keeps o s) (c : Nat) (data : Bool) (a2 : Head) (ps : List Piece) (p : Piece) (link : Option LinkEnt) (hb : W32) (g : Leg) (d : Desc) : Keeps o (readLeg c data a2 ps p link hb g d s).2 := by
  unfold readLeg
  iterate 25 all_goals try first
    | with_reducible assumption
    | with_reducible exact Keeps.refl _
    | with_reducible apply checkSource_keeps
    | with_reducible apply readFixed_keeps
    | with_reducible apply noteLeg_keeps
    | intro _
    | split
    | with_reducible apply ite_keeps
    | with_reducible apply ite2_keeps
    | with_reducible apply iteR_keeps
    | with_reducible apply next_keeps
    | with_reducible apply each_keeps
    | with_reducible apply foldl_keeps'
    | with_reducible apply foldl2_keeps
    | with_reducible apply foldl3_keeps
    | with_reducible apply foldl4_keeps
    | with_reducible apply chain_keeps
    | with_reducible apply gather_keeps
    | with_reducible apply readThen_keeps
    | dsimp only
    | (refine Keeps.of_eq (by with_reducible assumption) ?_)
    | with_reducible apply upd_keeps

theorem gatherTile_keeps {o s : State} (h : Keeps o s) (c : Nat) (e : LinkEnt) (a2 : Head) (ps : List Piece) (hb : W32) (a5 : Nat) (a6 : Desc) (a7 : List Byte) : Keeps o (gatherTile c e a2 ps hb a5 a6 a7 s).2 := by
  induction a5 generalizing s c e a2 ps hb a6 a7 with
  | zero =>
    unfold gatherTile
    iterate 25 all_goals try first
      | with_reducible assumption
      | with_reducible exact Keeps.refl _
      | with_reducible apply readLeg_keeps
      | intro _
      | split
      | with_reducible apply ite_keeps
      | with_reducible apply ite2_keeps
      | with_reducible apply iteR_keeps
      | with_reducible apply next_keeps
      | with_reducible apply each_keeps
      | with_reducible apply foldl_keeps'
      | with_reducible apply foldl2_keeps
      | with_reducible apply foldl3_keeps
      | with_reducible apply foldl4_keeps
      | with_reducible apply chain_keeps
      | with_reducible apply gather_keeps
      | with_reducible apply readThen_keeps
      | dsimp only
      | (refine Keeps.of_eq (by with_reducible assumption) ?_)
      | with_reducible apply upd_keeps
  | succ n ih =>
    unfold gatherTile
    iterate 25 all_goals try first
      | with_reducible assumption
      | with_reducible exact Keeps.refl _
      | with_reducible apply ih
      | with_reducible apply readLeg_keeps
      | intro _
      | split
      | with_reducible apply ite_keeps
      | with_reducible apply ite2_keeps
      | with_reducible apply iteR_keeps
      | with_reducible apply next_keeps
      | with_reducible apply each_keeps
      | with_reducible apply foldl_keeps'
      | with_reducible apply foldl2_keeps
      | with_reducible apply foldl3_keeps
      | with_reducible apply foldl4_keeps
      | with_reducible apply chain_keeps
      | with_reducible apply gather_keeps
      | with_reducible apply readThen_keeps
      | dsimp only
      | (refine Keeps.of_eq (by with_reducible assumption) ?_)
      | with_reducible apply upd_keeps

theorem modBlock_keeps {o s : State} (h : Keeps o s) (c : Nat) (link : Nat) (f : Desc → Option Desc) : Keeps o (modBlock c link f s) := by
  unfold modBlock
  iterate 25 all_goals try first
    | with_reducible assumption
    | with_reducible apply State.modChannel_keeps
    | split
    | with_reducible apply next_keeps
    | with_reducible apply upd_keeps

theorem closeTile_keeps {o s : State} (h : Keeps o s) (c : Nat) (link : Nat) (d : Desc) : Keeps o (closeTile c link d s) := by
  unfold closeTile
  iterate 25 all_goals try first
    | with_reducible assumption
    | with_reducible apply State.modLink_keeps
    | with_reducible apply modBlock_keeps
    | split
    | with_reducible apply next_keeps
    | with_reducible apply upd_keeps

theorem moveWeights_keeps {o s : State} (h : Keeps o s) (c : Nat) (stage : Nat) (base : Nat) (x : (Nat × Nat) × Nat) : Keeps o (moveWeights c stage base s x) := by
  unfold moveWeights
  iterate 25 all_goals try first
    | with_reducible assumption
    | with_reducible exact Keeps.refl _
    | with_reducible apply abortStream_keeps
    | with_reducible apply writeMem_keeps
    | with_reducible apply haltWith_keeps
    | with_reducible apply noteLeg_keeps
    | with_reducible apply tagConsumerFail_keeps
    | with_reducible apply setTag_keeps
    | with_reducible apply readGranule_keeps
    | intro _
    | split
    | with_reducible apply ite_keeps
    | with_reducible apply ite2_keeps
    | with_reducible apply iteR_keeps
    | with_reducible apply next_keeps
    | with_reducible apply each_keeps
    | with_reducible apply foldl_keeps'
    | with_reducible apply foldl2_keeps
    | with_reducible apply foldl3_keeps
    | with_reducible apply foldl4_keeps
    | with_reducible apply chain_keeps
    | with_reducible apply gather_keeps
    | with_reducible apply readThen_keeps
    | dsimp only
    | (refine Keeps.of_eq (by with_reducible assumption) ?_)
    | with_reducible apply upd_keeps

theorem tileTags_keeps {o s : State} (h : Keeps o s) (a0 : Head) (ps : List Piece) (tile : Nat) (b : List Byte) : Keeps o (tileTags a0 ps tile b s).2 := by
  unfold tileTags
  iterate 25 all_goals try first
    | with_reducible assumption
    | split
    | with_reducible apply next_keeps
    | with_reducible apply upd_keeps

theorem readBlock_keeps {o s : State} (h : Keeps o s) (d : Desc) : Keeps o (readBlock d s).2 := by
  unfold readBlock
  iterate 25 all_goals try first
    | with_reducible assumption
    | with_reducible exact Keeps.refl _
    | with_reducible apply readFixed_keeps
    | intro _
    | split
    | with_reducible apply ite_keeps
    | with_reducible apply ite2_keeps
    | with_reducible apply iteR_keeps
    | with_reducible apply next_keeps
    | with_reducible apply each_keeps
    | with_reducible apply foldl_keeps'
    | with_reducible apply foldl2_keeps
    | with_reducible apply foldl3_keeps
    | with_reducible apply foldl4_keeps
    | with_reducible apply chain_keeps
    | with_reducible apply gather_keeps
    | with_reducible apply readThen_keeps
    | dsimp only
    | (refine Keeps.of_eq (by with_reducible assumption) ?_)
    | with_reducible apply upd_keeps

theorem setHead_keeps {o s : State} (h : Keeps o s) (c : Nat) (d : Desc) : Keeps o (setHead c d s) := by
  unfold setHead
  iterate 25 all_goals try first
    | with_reducible assumption
    | with_reducible apply State.modChannel_keeps
    | split
    | with_reducible apply next_keeps
    | with_reducible apply upd_keeps

theorem endControl_keeps {o s : State} (h : Keeps o s) (c : Nat) (st : Nat) : Keeps o (endControl c st s) := by
  unfold endControl
  iterate 25 all_goals try first
    | with_reducible assumption
    | with_reducible apply State.modChannel_keeps
    | split
    | with_reducible apply next_keeps
    | with_reducible apply upd_keeps

theorem endHalted_keeps {o s : State} (h : Keeps o s) (c : Nat) (addr : W64) (stream : Nat) (link : Nat) : Keeps o (endHalted c addr stream link s) := by
  unfold endHalted
  iterate 25 all_goals try first
    | with_reducible assumption
    | with_reducible apply haltWith_keeps
    | with_reducible apply endControl_keeps
    | split
    | with_reducible apply next_keeps
    | with_reducible apply upd_keeps

theorem execDescriptorCheck_keeps {o s : State} (h : Keeps o s) (c : Nat) : KeepsR o (execDescriptorCheck c s) := by
  unfold execDescriptorCheck
  iterate 25 all_goals try first
    | with_reducible assumption
    | with_reducible exact Keeps.refl _
    | with_reducible apply done_keeps
    | with_reducible apply readBlock_keeps
    | with_reducible apply setHead_keeps
    | with_reducible apply endControl_keeps
    | with_reducible apply endHalted_keeps
    | intro _
    | split
    | with_reducible apply ite_keeps
    | with_reducible apply ite2_keeps
    | with_reducible apply iteR_keeps
    | with_reducible apply next_keeps
    | with_reducible apply each_keeps
    | with_reducible apply foldl_keeps'
    | with_reducible apply foldl2_keeps
    | with_reducible apply foldl3_keeps
    | with_reducible apply foldl4_keeps
    | with_reducible apply chain_keeps
    | with_reducible apply gather_keeps
    | with_reducible apply readThen_keeps
    | dsimp only
    | (refine Keeps.of_eq (by with_reducible assumption) ?_)
    | with_reducible apply upd_keeps

theorem chRestart_keeps {o s : State} (h : Keeps o s) (c : Nat) : Keeps o (chRestart c s) := by
  unfold chRestart
  iterate 25 all_goals try first
    | with_reducible assumption
    | with_reducible exact Keeps.refl _
    | with_reducible apply State.modLink_keeps
    | with_reducible apply wakeFlow_keeps
    | with_reducible apply State.modChannel_keeps
    | with_reducible apply record_keeps
    | with_reducible apply State.modKimg_keeps
    | intro _
    | split
    | with_reducible apply ite_keeps
    | with_reducible apply ite2_keeps
    | with_reducible apply iteR_keeps
    | with_reducible apply next_keeps
    | with_reducible apply each_keeps
    | with_reducible apply foldl_keeps'
    | with_reducible apply foldl2_keeps
    | with_reducible apply foldl3_keeps
    | with_reducible apply foldl4_keeps
    | with_reducible apply chain_keeps
    | with_reducible apply gather_keeps
    | with_reducible apply readThen_keeps
    | dsimp only
    | (refine Keeps.of_eq (by with_reducible assumption) ?_)
    | with_reducible apply upd_keeps

theorem tagBuffer_keeps {o s : State} (h : Keeps o s) (a0 : Head) (e : LinkEnt) (hb : W32) (g : Leg) (d : Desc) (x : Nat) : Keeps o (tagBuffer a0 e hb g d s x) := by
  unfold tagBuffer
  iterate 25 all_goals try first
    | with_reducible assumption
    | with_reducible apply State.modLink_keeps
    | with_reducible apply makeTag_keeps
    | with_reducible apply setTag_keeps
    | split
    | with_reducible apply next_keeps
    | with_reducible apply upd_keeps

theorem tagLeg_keeps {o s : State} (h : Keeps o s) (a0 : Head) (ps : List Piece) (link : Option LinkEnt) (hb : W32) (g : Leg) (d : Desc) : Keeps o (tagLeg a0 ps link hb g d s).2 := by
  unfold tagLeg
  iterate 25 all_goals try first
    | with_reducible assumption
    | with_reducible exact Keeps.refl _
    | with_reducible apply makeTag_keeps
    | with_reducible apply tagBuffer_keeps
    | with_reducible apply setTag_keeps
    | intro _
    | split
    | with_reducible apply ite_keeps
    | with_reducible apply ite2_keeps
    | with_reducible apply iteR_keeps
    | with_reducible apply next_keeps
    | with_reducible apply each_keeps
    | with_reducible apply foldl_keeps'
    | with_reducible apply foldl2_keeps
    | with_reducible apply foldl3_keeps
    | with_reducible apply foldl4_keeps
    | with_reducible apply chain_keeps
    | with_reducible apply gather_keeps
    | with_reducible apply readThen_keeps
    | dsimp only
    | (refine Keeps.of_eq (by with_reducible assumption) ?_)
    | with_reducible apply upd_keeps

theorem moveLeg_keeps {o s : State} (h : Keeps o s) (c : Nat) (data : Bool) (a2 : Head) (ps : List Piece) (p : Piece) (link : Option LinkEnt) (hb : W32) (d : Desc) : Keeps o (moveLeg c data a2 ps p link hb d s).2 := by
  unfold moveLeg
  iterate 25 all_goals try first
    | with_reducible assumption
    | with_reducible exact Keeps.refl _
    | with_reducible apply writeMem_keeps
    | with_reducible apply readLeg_keeps
    | with_reducible apply tagLeg_keeps
    | intro _
    | split
    | with_reducible apply ite_keeps
    | with_reducible apply ite2_keeps
    | with_reducible apply iteR_keeps
    | with_reducible apply next_keeps
    | with_reducible apply each_keeps
    | with_reducible apply foldl_keeps'
    | with_reducible apply foldl2_keeps
    | with_reducible apply foldl3_keeps
    | with_reducible apply foldl4_keeps
    | with_reducible apply chain_keeps
    | with_reducible apply gather_keeps
    | with_reducible apply readThen_keeps
    | dsimp only
    | (refine Keeps.of_eq (by with_reducible assumption) ?_)
    | with_reducible apply upd_keeps

theorem moveTile_keeps {o s : State} (h : Keeps o s) (c : Nat) (e : LinkEnt) (a2 : Head) (ps : List Piece) (hb : W32) (a5 : Nat) (a6 : Desc) : Keeps o (moveTile c e a2 ps hb a5 a6 s).2 := by
  induction a5 generalizing s c e a2 ps hb a6 with
  | zero =>
    unfold moveTile
    iterate 25 all_goals try first
      | with_reducible assumption
      | with_reducible exact Keeps.refl _
      | with_reducible apply moveLeg_keeps
      | intro _
      | split
      | with_reducible apply ite_keeps
      | with_reducible apply ite2_keeps
      | with_reducible apply iteR_keeps
      | with_reducible apply next_keeps
      | with_reducible apply each_keeps
      | with_reducible apply foldl_keeps'
      | with_reducible apply foldl2_keeps
      | with_reducible apply foldl3_keeps
      | with_reducible apply foldl4_keeps
      | with_reducible apply chain_keeps
      | with_reducible apply gather_keeps
      | with_reducible apply readThen_keeps
      | dsimp only
      | (refine Keeps.of_eq (by with_reducible assumption) ?_)
      | with_reducible apply upd_keeps
  | succ n ih =>
    unfold moveTile
    iterate 25 all_goals try first
      | with_reducible assumption
      | with_reducible exact Keeps.refl _
      | with_reducible apply ih
      | with_reducible apply moveLeg_keeps
      | intro _
      | split
      | with_reducible apply ite_keeps
      | with_reducible apply ite2_keeps
      | with_reducible apply iteR_keeps
      | with_reducible apply next_keeps
      | with_reducible apply each_keeps
      | with_reducible apply foldl_keeps'
      | with_reducible apply foldl2_keeps
      | with_reducible apply foldl3_keeps
      | with_reducible apply foldl4_keeps
      | with_reducible apply chain_keeps
      | with_reducible apply gather_keeps
      | with_reducible apply readThen_keeps
      | dsimp only
      | (refine Keeps.of_eq (by with_reducible assumption) ?_)
      | with_reducible apply upd_keeps

theorem chSubmit_keeps {o s : State} (h : Keeps o s) (a0 : Nat) : Keeps o (chSubmit a0 s) := by
  unfold chSubmit
  iterate 25 all_goals try first
    | with_reducible assumption
    | with_reducible apply State.modChannel_keeps
    | split
    | with_reducible apply next_keeps
    | with_reducible apply upd_keeps

theorem execChSubmit_keeps {o s : State} (h : Keeps o s) (a0 : Nat) : KeepsR o (execChSubmit a0 s) := by
  unfold execChSubmit
  iterate 25 all_goals try first
    | with_reducible assumption
    | with_reducible exact Keeps.refl _
    | with_reducible apply chSubmit_keeps
    | with_reducible apply byReader_keeps
    | intro _
    | split
    | with_reducible apply ite_keeps
    | with_reducible apply ite2_keeps
    | with_reducible apply iteR_keeps
    | with_reducible apply next_keeps
    | with_reducible apply each_keeps
    | with_reducible apply foldl_keeps'
    | with_reducible apply foldl2_keeps
    | with_reducible apply foldl3_keeps
    | with_reducible apply foldl4_keeps
    | with_reducible apply chain_keeps
    | with_reducible apply gather_keeps
    | with_reducible apply readThen_keeps
    | dsimp only
    | (refine Keeps.of_eq (by with_reducible assumption) ?_)
    | with_reducible apply upd_keeps

theorem startTileOf_keeps {o s : State} (h : Keeps o s) (c : Nat) (link : Nat) (d : Desc) : Keeps o (startTileOf c link d s) := by
  unfold startTileOf
  iterate 25 all_goals try first
    | with_reducible assumption
    | with_reducible apply State.modLink_keeps
    | with_reducible apply modBlock_keeps
    | split
    | with_reducible apply next_keeps
    | with_reducible apply upd_keeps

theorem fetchWeights_keeps {o s : State} (h : Keeps o s) (c : Nat) (e : LinkEnt) (d : Desc) : Keeps o (fetchWeights c e d s) := by
  unfold fetchWeights
  iterate 25 all_goals try first
    | with_reducible assumption
    | with_reducible exact Keeps.refl _
    | with_reducible apply State.modLink_keeps
    | with_reducible apply moveWeights_keeps
    | exact takeBuffer_keeps (by first | with_reducible assumption | with_reducible exact Keeps.refl _) (hr := by with_reducible assumption)
    | with_reducible apply startTileOf_keeps
    | with_reducible apply modBlock_keeps
    | intro _
    | split
    | with_reducible apply ite_keeps
    | with_reducible apply ite2_keeps
    | with_reducible apply iteR_keeps
    | with_reducible apply next_keeps
    | with_reducible apply each_keeps
    | with_reducible apply foldl_keeps'
    | with_reducible apply foldl2_keeps
    | with_reducible apply foldl3_keeps
    | with_reducible apply foldl4_keeps
    | with_reducible apply chain_keeps
    | with_reducible apply gather_keeps
    | with_reducible apply readThen_keeps
    | dsimp only
    | (refine Keeps.of_eq (by with_reducible assumption) ?_)
    | with_reducible apply upd_keeps

theorem leaveBuffer_keeps {o s : State} (h : Keeps o s) (link : Option LinkEnt) (dir : Nat) (a2 : W32) : Keeps o (leaveBuffer link dir a2 s).2 := by
  unfold leaveBuffer
  iterate 25 all_goals try first
    | with_reducible assumption
    | with_reducible apply releaseBuffer_keeps
    | with_reducible apply fillBuffer_keeps
    | split
    | with_reducible apply next_keeps
    | with_reducible apply upd_keeps

theorem haltBlock_keeps {o s : State} (h : Keeps o s) (c : Nat) (link : Nat) (d : Desc) (tier : Nat) (a : Nat) : Keeps o (haltBlock c link d tier a s) := by
  unfold haltBlock
  iterate 25 all_goals try first
    | with_reducible assumption
    | with_reducible apply haltWith_keeps
    | with_reducible apply modBlock_keeps
    | split
    | with_reducible apply next_keeps
    | with_reducible apply upd_keeps

theorem failLoad_keeps {o s : State} (h : Keeps o s) (e : LinkEnt) (tier : Nat) (g : Nat) (stream : Nat) (noStream : Bool) (seq : Nat) : Keeps o (failLoad e tier g stream noStream seq s) := by
  unfold failLoad
  iterate 25 all_goals try first
    | with_reducible assumption
    | with_reducible exact Keeps.refl _
    | with_reducible apply abortStream_keeps
    | with_reducible apply tagConsumerFail_keeps
    | intro _
    | split
    | with_reducible apply ite_keeps
    | with_reducible apply ite2_keeps
    | with_reducible apply iteR_keeps
    | with_reducible apply next_keeps
    | with_reducible apply each_keeps
    | with_reducible apply foldl_keeps'
    | with_reducible apply foldl2_keeps
    | with_reducible apply foldl3_keeps
    | with_reducible apply foldl4_keeps
    | with_reducible apply chain_keeps
    | with_reducible apply gather_keeps
    | with_reducible apply readThen_keeps
    | dsimp only
    | (refine Keeps.of_eq (by with_reducible assumption) ?_)
    | with_reducible apply upd_keeps

theorem fetchTile_keeps {o s : State} (h : Keeps o s) (c : Nat) (e : LinkEnt) (x : Head) (d : Desc) : Keeps o (fetchTile c e x d s) := by
  have fetched : ∀ {r : W32 × State}, (if x.dir = 0 then takeBuffer e s else takeFull e s) = some r → Keeps o r.2 := by
    intro r hr
    split at hr
    · exact takeBuffer_keeps h _ hr
    · exact takeFull_keeps h _ hr
  unfold fetchTile
  dsimp only
  split
  · have k := gatherTile_keeps h c e x (blockPieces d.block)
      (BitVec.ofNat 32 (((s.linkSt e.link).fillIdx + (s.kimg e.link).tiles.length) % max 1 e.buffers)) 1026 d []
    split
    · exact haltBlock_keeps (Keeps.of_eq (by assumption) k) ..
    · exact failLoad_keeps (modBlock_keeps (Keeps.of_eq (by assumption) k) ..) ..
    · exact produceTile_keeps (closeTile_keeps (tileTags_keeps (Keeps.of_eq (by assumption) k) ..) ..) ..
  · split
    · exact h
    · have k := moveTile_keeps (fetched (by assumption)) c e x (blockPieces d.block) ‹_› 1026 d
      split
      · exact haltBlock_keeps (Keeps.of_eq (by assumption) k) ..
      · exact failLoad_keeps (modBlock_keeps (Keeps.of_eq (by assumption) k) ..) ..
      · have k := Keeps.of_eq (by assumption) k
        split
        · exact State.modLink_keeps (startTileOf_keeps k ..) ..
        · exact releaseBuffer_keeps (closeTile_keeps k ..) ..

theorem endChain_keeps {o s : State} (h : Keeps o s) (c : Nat) (d : Desc) (before : W16) : Keeps o (endChain c d before s) := by
  unfold endChain
  iterate 25 all_goals try first
    | with_reducible assumption
    | with_reducible apply State.modChannel_keeps
    | with_reducible apply endControl_keeps
    | split
    | with_reducible apply next_keeps
    | with_reducible apply upd_keeps

theorem failCheck_keeps {o s : State} (h : Keeps o s) (c : Nat) (a1 : Head) (tier : Nat) (g : Nat) (seq : Nat) : Keeps o (failCheck c a1 tier g seq s) := by
  unfold failCheck
  iterate 25 all_goals try first
    | with_reducible assumption
    | with_reducible apply abortStream_keeps
    | with_reducible apply endControl_keeps
    | with_reducible apply tagConsumerFail_keeps
    | split
    | with_reducible apply next_keeps
    | with_reducible apply upd_keeps

theorem linkBuffer_keeps {o s : State} (h : Keeps o s) (e : LinkEnt) (dir : Nat) (d : Desc) {r : W32 × State} (hr : linkBuffer e dir d s = some r) : Keeps o r.2 := by
  unfold linkBuffer at hr
  split at hr
  · cases hr
    exact h
  · split at hr
    · exact takeBuffer_keeps h _ hr
    · exact takeFull_keeps h _ hr

theorem moveUnit_keeps {o s : State} (h : Keeps o s) (c : Nat) (d0 : Desc) (x : Head) (ps : List Piece) (p : Piece) : Keeps o (moveUnit c d0 x ps p s) := by
  have got : ∀ {r : W32 × State}, (match s.img.link? x.link with
      | none => some ((0 : W32), s)
      | some e => linkBuffer e x.dir d0 s) = some r → Keeps o r.2 := by
    intro r hr
    split at hr
    · cases hr
      exact h
    · exact linkBuffer_keeps h _ _ _ hr
  unfold moveUnit
  dsimp only
  split
  · exact State.modChannel_keeps h ..
  · have k := moveLeg_keeps (got (by assumption)) c false x ps p (s.img.link? x.link) ‹_› d0
    split
    · exact endHalted_keeps (Keeps.of_eq (by assumption) k) ..
    · exact failCheck_keeps (Keeps.of_eq (by assumption) k) ..
    · have k := State.modChannel_keeps (Keeps.of_eq (by assumption) k) c fun x => { x with state := .idle }
      repeat' split
      all_goals first
        | exact endChain_keeps (leaveBuffer_keeps k ..) ..
        | exact setHead_keeps (leaveBuffer_keeps k ..) ..
        | exact endControl_keeps (leaveBuffer_keeps k ..) ..
        | exact endChain_keeps k ..
        | exact setHead_keeps k ..
        | exact endControl_keeps k ..

end Sys2Proof.Machine
end

