-- ==== Sys2Proof/Laws/KeepsTiming.lean ====
section
/-! SUPPORT. A command leaves the queue as it waits and memory in canonical form: steps and contexts. -/

namespace Sys2Proof.Machine

theorem fetchText_keeps {o s : State} (h : Keeps o s) (c : Nat) (e : LinkEnt) (d : Desc) : Keeps o (fetchText c e d s) := by
  have take : ∀ (u : Option (List Byte × Nat) × State) (id : Nat), Keeps u.2 (takeText c e.link u id).2 := by
    intro u id
    unfold takeText
    split
    · exact Keeps.refl _
    · dsimp only
      split
      · exact Keeps.refl _
      · split
        · exact haltWith_keeps (Keeps.of_eq (by assumption) (checkEntries_keeps (Keeps.refl _) ..)) ..
        · exact abortStream_keeps (tagConsumerFail_keeps (Keeps.of_eq (by assumption) (checkEntries_keeps (Keeps.refl _) ..)) ..) ..
        · dsimp only
          exact State.modStream_keeps (State.modChannel_keeps (Keeps.of_eq (by assumption) (checkEntries_keeps (Keeps.refl _) ..)) ..) ..
  unfold fetchText
  dsimp only
  split
  · exact h
  · next got hb t ht =>
    have k : Keeps o t := takeBuffer_keeps h _ ht
    have k := foldl2_keeps (p := (some (([] : List Byte), 4096), t)) (l := ((((s.stage e.cons).steps.find? fun t => t.key == d.tid).map Step.streams).getD [])) k take
    split
    · exact modBlock_keeps (Keeps.of_eq (by assumption) k) ..
    · exact State.modLink_keeps (startTileOf_keeps (writeTile_keeps (Keeps.of_eq (by assumption) k) ..) ..) ..

theorem execBellowsUnitTransfer_keeps {o s : State} (h : Keeps o s) (c : Nat) (ups : List Upset) : KeepsR o (execBellowsUnitTransfer c ups s) := by
  unfold execBellowsUnitTransfer
  iterate 25 all_goals try first
    | with_reducible assumption
    | with_reducible exact Keeps.refl _
    | with_reducible apply done_keeps
    | with_reducible apply endControl_keeps
    | with_reducible apply moveUnit_keeps
    | with_reducible apply applyUpsets_keeps
    | intro _
    | split
    | with_reducible apply ite_keeps
    | with_reducible apply ite2_keeps
    | with_reducible apply iteR_keeps
    | with_reducible apply next_keeps
    | with_reducible apply each_keeps
    | with_reducible apply foldl_keeps'
    | with_reducible apply foldl2_keeps
    | with_reducible apply foldl3_keeps
    | with_reducible apply foldl4_keeps
    | with_reducible apply chain_keeps
    | with_reducible apply gather_keeps
    | with_reducible apply readThen_keeps
    | dsimp only
    | (refine Keeps.of_eq (by with_reducible assumption) ?_)
    | with_reducible apply upd_keeps

theorem execWaitLimit_keeps {o s : State} (h : Keeps o s) (c : Nat) (waited : Nat) : KeepsR o (execWaitLimit c waited s) := by
  unfold execWaitLimit
  iterate 25 all_goals try first
    | with_reducible assumption
    | with_reducible exact Keeps.refl _
    | with_reducible apply done_keeps
    | with_reducible apply endControl_keeps
    | intro _
    | split
    | with_reducible apply ite_keeps
    | with_reducible apply ite2_keeps
    | with_reducible apply iteR_keeps
    | with_reducible apply next_keeps
    | with_reducible apply each_keeps
    | with_reducible apply foldl_keeps'
    | with_reducible apply foldl2_keeps
    | with_reducible apply foldl3_keeps
    | with_reducible apply foldl4_keeps
    | with_reducible apply chain_keeps
    | with_reducible apply gather_keeps
    | with_reducible apply readThen_keeps
    | dsimp only
    | (refine Keeps.of_eq (by with_reducible assumption) ?_)
    | with_reducible apply upd_keeps

theorem startMove_keeps {o s : State} (h : Keeps o s) (c : Nat) (e : LinkEnt) (d : Desc) (list : List Byte) : Keeps o (startMove c e d list s) := by
  unfold startMove
  iterate 25 all_goals try first
    | with_reducible assumption
    | with_reducible apply fetchTile_keeps
    | with_reducible apply modBlock_keeps
    | split
    | with_reducible apply next_keeps
    | with_reducible apply upd_keeps

theorem execTileFetchStart_keeps {o s : State} (h : Keeps o s) (link : Nat) (head entries : List Byte) (ups : List Upset) : KeepsR o (execTileFetchStart link head entries ups s) := by
  unfold execTileFetchStart
  iterate 25 all_goals try first
    | with_reducible assumption
    | with_reducible exact Keeps.refl _
    | with_reducible apply done_keeps
    | with_reducible apply fetchWeights_keeps
    | with_reducible apply fetchText_keeps
    | with_reducible apply applyUpsets_keeps
    | with_reducible apply startMove_keeps
    | intro _
    | split
    | with_reducible apply ite_keeps
    | with_reducible apply ite2_keeps
    | with_reducible apply iteR_keeps
    | with_reducible apply next_keeps
    | with_reducible apply each_keeps
    | with_reducible apply foldl_keeps'
    | with_reducible apply foldl2_keeps
    | with_reducible apply foldl3_keeps
    | with_reducible apply foldl4_keeps
    | with_reducible apply chain_keeps
    | with_reducible apply gather_keeps
    | with_reducible apply readThen_keeps
    | dsimp only
    | (refine Keeps.of_eq (by with_reducible assumption) ?_)
    | with_reducible apply upd_keeps

theorem writeBellows_keeps {o s : State} (h : Keeps o s) (a0 : Nat) (off : Nat) (v : W32) : Keeps o (writeBellows a0 off v s) := by
  unfold writeBellows
  iterate 25 all_goals try first
    | with_reducible assumption
    | with_reducible apply chSubmit_keeps
    | with_reducible apply State.modSess_keeps
    | with_reducible apply State.modChannel_keeps
    | with_reducible apply chRestart_keeps
    | split
    | with_reducible apply next_keeps
    | with_reducible apply upd_keeps

theorem execChRestart_keeps {o s : State} (h : Keeps o s) (a0 : Nat) : KeepsR o (execChRestart a0 s) := by
  unfold execChRestart
  iterate 25 all_goals try first
    | with_reducible assumption
    | with_reducible exact Keeps.refl _
    | with_reducible apply byReader_keeps
    | with_reducible apply chRestart_keeps
    | intro _
    | split
    | with_reducible apply ite_keeps
    | with_reducible apply ite2_keeps
    | with_reducible apply iteR_keeps
    | with_reducible apply next_keeps
    | with_reducible apply each_keeps
    | with_reducible apply foldl_keeps'
    | with_reducible apply foldl2_keeps
    | with_reducible apply foldl3_keeps
    | with_reducible apply foldl4_keeps
    | with_reducible apply chain_keeps
    | with_reducible apply gather_keeps
    | with_reducible apply readThen_keeps
    | dsimp only
    | (refine Keeps.of_eq (by with_reducible assumption) ?_)
    | with_reducible apply upd_keeps

theorem State.modImage_keeps {o s : State} (h : Keeps o s) (f : ImageBlk → ImageBlk) : Keeps o (State.modImage s f) := by
  unfold State.modImage
  iterate 25 all_goals try first
    | with_reducible assumption
    | split
    | with_reducible apply next_keeps
    | with_reducible apply upd_keeps

theorem imageResult_keeps {o s : State} (h : Keeps o s) (f : Option ImgFail) : Keeps o (imageResult f s) := by
  unfold imageResult
  iterate 25 all_goals try first
    | with_reducible assumption
    | with_reducible apply State.modImage_keeps
    | split
    | with_reducible apply next_keeps
    | with_reducible apply upd_keeps

theorem imageErr_keeps {o s : State} (h : Keeps o s) : Keeps o (imageErr s) := by
  unfold imageErr
  iterate 25 all_goals try first
    | with_reducible assumption
    | with_reducible apply State.modImage_keeps
    | split
    | with_reducible apply next_keeps
    | with_reducible apply upd_keeps

theorem imageActivate_keeps {o s : State} (h : Keeps o s) : Keeps o (imageActivate s) := by
  unfold imageActivate
  iterate 25 all_goals try first
    | with_reducible assumption
    | with_reducible apply imageErr_keeps
    | with_reducible apply State.modImage_keeps
    | split
    | with_reducible apply next_keeps
    | with_reducible apply upd_keeps

theorem writeImageLen_keeps {o s : State} (h : Keeps o s) (v : W32) : Keeps o (writeImageLen v s) := by
  unfold writeImageLen
  iterate 25 all_goals try first
    | with_reducible assumption
    | with_reducible apply imageErr_keeps
    | with_reducible apply State.modImage_keeps
    | split
    | with_reducible apply next_keeps
    | with_reducible apply upd_keeps

theorem execImageLen_keeps {o s : State} (h : Keeps o s) (a0 : Nat) (v : W32) : KeepsR o (execImageLen a0 v s) := by
  unfold execImageLen
  iterate 25 all_goals try first
    | with_reducible assumption
    | with_reducible exact Keeps.refl _
    | with_reducible apply byReader_keeps
    | with_reducible apply writeImageLen_keeps
    | intro _
    | split
    | with_reducible apply ite_keeps
    | with_reducible apply ite2_keeps
    | with_reducible apply iteR_keeps
    | with_reducible apply next_keeps
    | with_reducible apply each_keeps
    | with_reducible apply foldl_keeps'
    | with_reducible apply foldl2_keeps
    | with_reducible apply foldl3_keeps
    | with_reducible apply foldl4_keeps
    | with_reducible apply chain_keeps
    | with_reducible apply gather_keeps
    | with_reducible apply readThen_keeps
    | dsimp only
    | (refine Keeps.of_eq (by with_reducible assumption) ?_)
    | with_reducible apply upd_keeps

theorem readSection_keeps {o s : State} (h : Keeps o s) (m : Image) (sec : Nat) : Keeps o (readSection m sec s).2 := by
  unfold readSection
  split
  · exact h
  · show Keeps o (List.foldl _ (0, _, none, s) _).2.2.2
    refine foldl4_keeps h fun u n => ?_
    dsimp only
    split
    · exact Keeps.refl _
    · split <;> exact Keeps.of_eq (by assumption) (readFull_keeps (Keeps.refl _) ..)

theorem readSections_keeps {o s : State} (h : Keeps o s) (m : Image) (a1 : List Nat) : Keeps o (readSections m a1 s).2 := by
  induction a1 generalizing s m with
  | nil =>
    unfold readSections
    iterate 25 all_goals try first
      | with_reducible assumption
      | with_reducible exact Keeps.refl _
      | with_reducible apply readSection_keeps
      | intro _
      | split
      | with_reducible apply ite_keeps
      | with_reducible apply ite2_keeps
      | with_reducible apply iteR_keeps
      | with_reducible apply next_keeps
      | with_reducible apply each_keeps
      | with_reducible apply foldl_keeps'
      | with_reducible apply foldl2_keeps
      | with_reducible apply foldl3_keeps
      | with_reducible apply foldl4_keeps
      | with_reducible apply chain_keeps
      | with_reducible apply gather_keeps
      | with_reducible apply readThen_keeps
      | dsimp only
      | (refine Keeps.of_eq (by with_reducible assumption) ?_)
      | with_reducible apply upd_keeps
  | cons a l ih =>
    unfold readSections
    iterate 25 all_goals try first
      | with_reducible assumption
      | with_reducible exact Keeps.refl _
      | with_reducible apply ih
      | with_reducible apply readSection_keeps
      | intro _
      | split
      | with_reducible apply ite_keeps
      | with_reducible apply ite2_keeps
      | with_reducible apply iteR_keeps
      | with_reducible apply next_keeps
      | with_reducible apply each_keeps
      | with_reducible apply foldl_keeps'
      | with_reducible apply foldl2_keeps
      | with_reducible apply foldl3_keeps
      | with_reducible apply foldl4_keeps
      | with_reducible apply chain_keeps
      | with_reducible apply gather_keeps
      | with_reducible apply readThen_keeps
      | dsimp only
      | (refine Keeps.of_eq (by with_reducible assumption) ?_)
      | with_reducible apply upd_keeps

theorem setUp_keeps {o s : State} (h : Keeps o s) (m : Image) : Keeps o (setUp m s) := by
  unfold setUp
  iterate 25 all_goals try first
    | with_reducible assumption
    | split
    | with_reducible apply next_keeps
    | with_reducible apply upd_keeps

theorem carryGranule_keeps {o s : State} (h : Keeps o s) (srcTier src dst : Nat) {r : Option State} {t u : State} (hr : carryGranule srcTier src dst s = (r, t)) : Keeps o t ∧ (r = some u → Keeps o u) := by
  unfold carryGranule at hr
  dsimp only at hr
  have k := readFull_keeps h 2 srcTier (512 * src) 512
  split at hr
  · cases hr
    exact ⟨k, fun x => nomatch x⟩
  · cases hr
    refine ⟨k, fun x => ?_⟩
    cases x
    exact setTag_keeps (writeMem_keeps k ..) ..

theorem carryAll_keeps {o s : State} (h : Keeps o s) (a : List (Nat × Nat × Nat)) : Keeps o (carryAll a s).2 := by
  induction a generalizing s with
  | nil => exact h
  | cons x l ih =>
    obtain ⟨t, a, b⟩ := x
    unfold carryAll
    split
    · exact ih ((carryGranule_keeps h _ _ _ (by assumption)).2 rfl)
    · exact (carryGranule_keeps (u := s) h _ _ _ (by assumption)).1

theorem readTensor_keeps {o s : State} (h : Keeps o s) (a0 : TensorEnt) : Keeps o (readTensor a0 s).2 := by
  unfold readTensor
  iterate 25 all_goals try first
    | with_reducible assumption
    | with_reducible exact Keeps.refl _
    | with_reducible apply readFull_keeps
    | intro _
    | split
    | with_reducible apply ite_keeps
    | with_reducible apply ite2_keeps
    | with_reducible apply iteR_keeps
    | with_reducible apply next_keeps
    | with_reducible apply each_keeps
    | with_reducible apply foldl_keeps'
    | with_reducible apply foldl2_keeps
    | with_reducible apply foldl3_keeps
    | with_reducible apply foldl4_keeps
    | with_reducible apply chain_keeps
    | with_reducible apply gather_keeps
    | with_reducible apply readThen_keeps
    | dsimp only
    | (refine Keeps.of_eq (by with_reducible assumption) ?_)
    | with_reducible apply upd_keeps

theorem checkDigests_keeps {o s : State} (h : Keeps o s) (a0 : List (TensorEnt × Nat)) : Keeps o (checkDigests a0 s).2 := by
  induction a0 generalizing s  with
  | nil =>
    unfold checkDigests
    iterate 25 all_goals try first
      | with_reducible assumption
      | with_reducible exact Keeps.refl _
      | with_reducible apply readTensor_keeps
      | intro _
      | split
      | with_reducible apply ite_keeps
      | with_reducible apply ite2_keeps
      | with_reducible apply iteR_keeps
      | with_reducible apply next_keeps
      | with_reducible apply each_keeps
      | with_reducible apply foldl_keeps'
      | with_reducible apply foldl2_keeps
      | with_reducible apply foldl3_keeps
      | with_reducible apply foldl4_keeps
      | with_reducible apply chain_keeps
      | with_reducible apply gather_keeps
      | with_reducible apply readThen_keeps
      | dsimp only
      | (refine Keeps.of_eq (by with_reducible assumption) ?_)
      | with_reducible apply upd_keeps
  | cons a l ih =>
    unfold checkDigests
    iterate 25 all_goals try first
      | with_reducible assumption
      | with_reducible exact Keeps.refl _
      | with_reducible apply ih
      | with_reducible apply readTensor_keeps
      | intro _
      | split
      | with_reducible apply ite_keeps
      | with_reducible apply ite2_keeps
      | with_reducible apply iteR_keeps
      | with_reducible apply next_keeps
      | with_reducible apply each_keeps
      | with_reducible apply foldl_keeps'
      | with_reducible apply foldl2_keeps
      | with_reducible apply foldl3_keeps
      | with_reducible apply foldl4_keeps
      | with_reducible apply chain_keeps
      | with_reducible apply gather_keeps
      | with_reducible apply readThen_keeps
      | dsimp only
      | (refine Keeps.of_eq (by with_reducible assumption) ?_)
      | with_reducible apply upd_keeps

theorem fillCaches_keeps {o s : State} (h : Keeps o s) (m : Image) (a1 : List (TensorEnt × Nat)) : Keeps o (fillCaches m a1 s).2 := by
  induction a1 generalizing s m with
  | nil =>
    unfold fillCaches
    iterate 25 all_goals try first
      | with_reducible assumption
      | with_reducible exact Keeps.refl _
      | with_reducible apply carryAll_keeps
      | intro _
      | split
      | with_reducible apply ite_keeps
      | with_reducible apply ite2_keeps
      | with_reducible apply iteR_keeps
      | with_reducible apply next_keeps
      | with_reducible apply each_keeps
      | with_reducible apply foldl_keeps'
      | with_reducible apply foldl2_keeps
      | with_reducible apply foldl3_keeps
      | with_reducible apply foldl4_keeps
      | with_reducible apply chain_keeps
      | with_reducible apply gather_keeps
      | with_reducible apply readThen_keeps
      | dsimp only
      | (refine Keeps.of_eq (by with_reducible assumption) ?_)
      | with_reducible apply upd_keeps
  | cons a l ih =>
    unfold fillCaches
    iterate 25 all_goals try first
      | with_reducible assumption
      | with_reducible exact Keeps.refl _
      | with_reducible apply ih
      | with_reducible apply carryAll_keeps
      | intro _
      | split
      | with_reducible apply ite_keeps
      | with_reducible apply ite2_keeps
      | with_reducible apply iteR_keeps
      | with_reducible apply next_keeps
      | with_reducible apply each_keeps
      | with_reducible apply foldl_keeps'
      | with_reducible apply foldl2_keeps
      | with_reducible apply foldl3_keeps
      | with_reducible apply foldl4_keeps
      | with_reducible apply chain_keeps
      | with_reducible apply gather_keeps
      | with_reducible apply readThen_keeps
      | dsimp only
      | (refine Keeps.of_eq (by with_reducible assumption) ?_)
      | with_reducible apply upd_keeps

theorem imageFailed_keeps {o s : State} (h : Keeps o s) (f : ImgFail) : Keeps o (imageFailed f s) := by
  unfold imageFailed
  iterate 25 all_goals try first
    | with_reducible assumption
    | with_reducible apply record_keeps
    | with_reducible apply imageResult_keeps
    | split
    | with_reducible apply next_keeps
    | with_reducible apply upd_keeps

theorem copyTables_keeps {o s : State} (h : Keeps o s) (m : Image) : Keeps o (copyTables m s) := by
  unfold copyTables
  iterate 25 all_goals try first
    | with_reducible assumption
    | with_reducible exact Keeps.refl _
    | with_reducible apply writeMem_keeps
    | intro _
    | split
    | with_reducible apply ite_keeps
    | with_reducible apply ite2_keeps
    | with_reducible apply iteR_keeps
    | with_reducible apply next_keeps
    | with_reducible apply each_keeps
    | with_reducible apply foldl_keeps'
    | with_reducible apply foldl2_keeps
    | with_reducible apply foldl3_keeps
    | with_reducible apply foldl4_keeps
    | with_reducible apply chain_keeps
    | with_reducible apply gather_keeps
    | with_reducible apply readThen_keeps
    | dsimp only
    | (refine Keeps.of_eq (by with_reducible assumption) ?_)
    | with_reducible apply upd_keeps

theorem execActivateComplete_keeps {o s : State} (h : Keeps o s) (ups : List Upset) : KeepsR o (execActivateComplete ups s) := by
  have fail : ∀ {t : State}, Keeps o t → ∀ f : ImgFail, KeepsR o (done (imageFailed f (t.modImage fun x =>
      { x with state := .verified, active := none }))) := fun k f => done_keeps (imageFailed_keeps (State.modImage_keeps k _) _)
  unfold execActivateComplete
  split
  · exact next_keeps h
  · next m hm =>
    split
    · exact next_keeps h
    · have k := applyUpsets_keeps h ups
      have k := readSections_keeps (State.setTier_keeps k 0 fun w => wf_zeroRegions m (k.tier 0 w)) m [3, 6]
      dsimp only
      split
      · exact fail (Keeps.of_eq (by assumption) k) _
      · have k := checkDigests_keeps (copyTables_keeps (Keeps.of_eq (by assumption) k) m) m.tensorsByTid
        split
        · exact fail (Keeps.of_eq (by assumption) k) _
        · have k := fillCaches_keeps (Keeps.of_eq (by assumption) k) m m.tensorsByTid
          split
          · exact fail (Keeps.of_eq (by assumption) k) _
          · have k := readSections_keeps (Keeps.of_eq (by assumption) k) m [2, 4, 7, 8, 9, 10]
            split
            · exact fail (Keeps.of_eq (by assumption) k) _
            · exact done_keeps (record_keeps (setUp_keeps (imageResult_keeps (State.modImage_keeps
                (Keeps.of_eq (by assumption) k) _) ..) _) ..)

theorem verifyRead_keeps {o s : State} (h : Keeps o s) (len : Nat) : Keeps o (verifyRead len s).2 := by
  unfold verifyRead
  iterate 25 all_goals try first
    | with_reducible assumption
    | with_reducible exact Keeps.refl _
    | with_reducible apply State.takeFree_keeps
    | with_reducible apply countCe_keeps
    | intro _
    | split
    | with_reducible apply ite_keeps
    | with_reducible apply ite2_keeps
    | with_reducible apply iteR_keeps
    | with_reducible apply next_keeps
    | with_reducible apply each_keeps
    | with_reducible apply foldl_keeps'
    | with_reducible apply foldl2_keeps
    | with_reducible apply foldl3_keeps
    | with_reducible apply foldl4_keeps
    | with_reducible apply chain_keeps
    | with_reducible apply gather_keeps
    | with_reducible apply readThen_keeps
    | dsimp only
    | (refine Keeps.of_eq (by with_reducible assumption) ?_)
    | with_reducible apply upd_keeps

theorem execVerifyComplete_keeps {o s : State} (h : Keeps o s) : KeepsR o (execVerifyComplete s) := by
  unfold execVerifyComplete
  iterate 25 all_goals try first
    | with_reducible assumption
    | with_reducible exact Keeps.refl _
    | with_reducible apply done_keeps
    | with_reducible apply imageFailed_keeps
    | with_reducible apply verifyRead_keeps
    | with_reducible apply State.modImage_keeps
    | with_reducible apply imageResult_keeps
    | intro _
    | split
    | with_reducible apply ite_keeps
    | with_reducible apply ite2_keeps
    | with_reducible apply iteR_keeps
    | with_reducible apply next_keeps
    | with_reducible apply each_keeps
    | with_reducible apply foldl_keeps'
    | with_reducible apply foldl2_keeps
    | with_reducible apply foldl3_keeps
    | with_reducible apply foldl4_keeps
    | with_reducible apply chain_keeps
    | with_reducible apply gather_keeps
    | with_reducible apply readThen_keeps
    | dsimp only
    | (refine Keeps.of_eq (by with_reducible assumption) ?_)
    | with_reducible apply upd_keeps

theorem clearFabric_keeps {o s : State} (h : Keeps o s) : Keeps o (clearFabric s) := by
  unfold clearFabric
  iterate 25 all_goals try first
    | with_reducible assumption
    | split
    | with_reducible apply next_keeps
    | with_reducible apply upd_keeps

theorem imageDeactivate_keeps {o s : State} (h : Keeps o s) : Keeps o (imageDeactivate s) := by
  unfold imageDeactivate
  iterate 25 all_goals try first
    | with_reducible assumption
    | with_reducible apply imageErr_keeps
    | with_reducible apply clearFabric_keeps
    | with_reducible apply record_keeps
    | with_reducible apply State.modImage_keeps
    | with_reducible apply imageResult_keeps
    | split
    | with_reducible apply next_keeps
    | with_reducible apply upd_keeps

theorem imageDiscard_keeps {o s : State} (h : Keeps o s) : Keeps o (imageDiscard s) := by
  unfold imageDiscard
  iterate 25 all_goals try first
    | with_reducible assumption
    | with_reducible apply imageErr_keeps
    | with_reducible apply State.modImage_keeps
    | with_reducible apply imageResult_keeps
    | split
    | with_reducible apply next_keeps
    | with_reducible apply upd_keeps

theorem execDiscard_keeps {o s : State} (h : Keeps o s) (a0 : Nat) : KeepsR o (execDiscard a0 s) := by
  unfold execDiscard
  iterate 25 all_goals try first
    | with_reducible assumption
    | with_reducible apply byReader_keeps
    | with_reducible apply imageDiscard_keeps
    | split
    | with_reducible apply next_keeps
    | with_reducible apply upd_keeps

theorem imageVerify_keeps {o s : State} (h : Keeps o s) : Keeps o (imageVerify s) := by
  unfold imageVerify
  iterate 25 all_goals try first
    | with_reducible assumption
    | with_reducible apply imageErr_keeps
    | with_reducible apply State.modImage_keeps
    | split
    | with_reducible apply next_keeps
    | with_reducible apply upd_keeps

theorem execDeactivate_keeps {o s : State} (h : Keeps o s) (a0 : Nat) : KeepsR o (execDeactivate a0 s) := by
  unfold execDeactivate
  iterate 25 all_goals try first
    | with_reducible assumption
    | with_reducible apply byReader_keeps
    | with_reducible apply imageDeactivate_keeps
    | split
    | with_reducible apply next_keeps
    | with_reducible apply upd_keeps

theorem execVerify_keeps {o s : State} (h : Keeps o s) (a0 : Nat) : KeepsR o (execVerify a0 s) := by
  unfold execVerify
  iterate 25 all_goals try first
    | with_reducible assumption
    | with_reducible apply byReader_keeps
    | with_reducible apply imageVerify_keeps
    | split
    | with_reducible apply next_keeps
    | with_reducible apply upd_keeps

theorem writeImageReg_keeps {o s : State} (h : Keeps o s) (off : Nat) (v : W32) : Keeps o (writeImageReg off v s) := by
  unfold writeImageReg
  iterate 25 all_goals try first
    | with_reducible assumption
    | with_reducible apply imageErr_keeps
    | with_reducible apply imageActivate_keeps
    | with_reducible apply imageVerify_keeps
    | with_reducible apply imageDiscard_keeps
    | with_reducible apply State.modImage_keeps
    | with_reducible apply writeImageLen_keeps
    | with_reducible apply imageDeactivate_keeps
    | split
    | with_reducible apply next_keeps
    | with_reducible apply upd_keeps

theorem execActivate_keeps {o s : State} (h : Keeps o s) (a0 : Nat) : KeepsR o (execActivate a0 s) := by
  unfold execActivate
  iterate 25 all_goals try first
    | with_reducible assumption
    | with_reducible apply imageActivate_keeps
    | with_reducible apply byReader_keeps
    | split
    | with_reducible apply next_keeps
    | with_reducible apply upd_keeps

theorem State.modProf_keeps {o s : State} (h : Keeps o s) (a1 : Nat) (f : SessProf → SessProf) : Keeps o (State.modProf s a1 f) := by
  unfold State.modProf
  iterate 25 all_goals try first
    | with_reducible assumption
    | with_reducible apply State.modSess_keeps
    | split
    | with_reducible apply next_keeps
    | with_reducible apply upd_keeps

theorem startProfileCmd_keeps {o s : State} (h : Keeps o s) (r cmd p : Nat) {f : State → State} (hf : ∀ {o s : State}, Keeps o s → Keeps o (f s)) : Keeps o (startProfileCmd r cmd p f s) := by
  unfold startProfileCmd
  iterate 25 all_goals try first
    | with_reducible assumption
    | with_reducible apply State.modProf_keeps
    | with_reducible apply hf
    | split

theorem endProfileCmd_keeps {o s : State} (h : Keeps o s) (a0 : Nat) (code : Nat) : Keeps o (endProfileCmd a0 code s) := by
  unfold endProfileCmd
  iterate 25 all_goals try first
    | with_reducible assumption
    | with_reducible apply State.modProf_keeps
    | split
    | with_reducible apply next_keeps
    | with_reducible apply upd_keeps

theorem doPrefetch_keeps {o s : State} (h : Keeps o s) (a0 : Nat) (p : Nat) : Keeps o (doPrefetch a0 p s) := by
  unfold doPrefetch
  iterate 25 all_goals try first
    | with_reducible assumption
    | with_reducible exact Keeps.refl _
    | with_reducible apply startFetch_keeps
    | with_reducible apply startProfileCmd_keeps
    | with_reducible apply endProfileCmd_keeps
    | intro _
    | split
    | with_reducible apply ite_keeps
    | with_reducible apply ite2_keeps
    | with_reducible apply iteR_keeps
    | with_reducible apply next_keeps
    | with_reducible apply each_keeps
    | with_reducible apply foldl_keeps'
    | with_reducible apply foldl2_keeps
    | with_reducible apply foldl3_keeps
    | with_reducible apply foldl4_keeps
    | with_reducible apply chain_keeps
    | with_reducible apply gather_keeps
    | with_reducible apply readThen_keeps
    | dsimp only
    | (refine Keeps.of_eq (by with_reducible assumption) ?_)
    | with_reducible apply upd_keeps

theorem openProfile_keeps {o s : State} (h : Keeps o s) (p : Nat)  : Keeps o (openProfile p s).2 := by
  unfold openProfile
  refine readThen_keeps (readFixed_keeps h ..) fun b t k => ?_
  dsimp only
  split
  · exact k
  · exact readThen_keeps (readFixed_keeps k ..) fun c t k => k

theorem doStore_keeps {o s : State} (h : Keeps o s) (a0 : Nat) (p : Nat) : Keeps o (doStore a0 p s) := by
  unfold doStore
  iterate 25 all_goals try first
    | with_reducible assumption
    | with_reducible exact Keeps.refl _
    | with_reducible apply startProfileCmd_keeps
    | with_reducible apply endProfileCmd_keeps
    | intro _
    | split
    | with_reducible apply ite_keeps
    | with_reducible apply ite2_keeps
    | with_reducible apply iteR_keeps
    | with_reducible apply next_keeps
    | with_reducible apply each_keeps
    | with_reducible apply foldl_keeps'
    | with_reducible apply foldl2_keeps
    | with_reducible apply foldl3_keeps
    | with_reducible apply foldl4_keeps
    | with_reducible apply chain_keeps
    | with_reducible apply gather_keeps
    | with_reducible apply readThen_keeps
    | dsimp only
    | (refine Keeps.of_eq (by with_reducible assumption) ?_)
    | with_reducible apply upd_keeps

theorem endPrefetches_keeps {o s : State} (h : Keeps o s) (p : Nat) (code : Nat) : Keeps o (endPrefetches p code s) := by
  unfold endPrefetches
  iterate 25 all_goals try first
    | with_reducible assumption
    | with_reducible exact Keeps.refl _
    | with_reducible apply endProfileCmd_keeps
    | intro _
    | split
    | with_reducible apply ite_keeps
    | with_reducible apply ite2_keeps
    | with_reducible apply iteR_keeps
    | with_reducible apply next_keeps
    | with_reducible apply each_keeps
    | with_reducible apply foldl_keeps'
    | with_reducible apply foldl2_keeps
    | with_reducible apply foldl3_keeps
    | with_reducible apply foldl4_keeps
    | with_reducible apply chain_keeps
    | with_reducible apply gather_keeps
    | with_reducible apply readThen_keeps
    | dsimp only
    | (refine Keeps.of_eq (by with_reducible assumption) ?_)
    | with_reducible apply upd_keeps

theorem doDelete_keeps {o s : State} (h : Keeps o s) (a0 : Nat) (p : Nat) : Keeps o (doDelete a0 p s) := by
  unfold doDelete
  iterate 25 all_goals try first
    | with_reducible assumption
    | with_reducible exact Keeps.refl _
    | with_reducible apply writeMem_keeps
    | with_reducible apply State.modProfile_keeps
    | with_reducible apply startProfileCmd_keeps
    | with_reducible apply endPrefetches_keeps
    | with_reducible apply endProfileCmd_keeps
    | intro _
    | split
    | with_reducible apply ite_keeps
    | with_reducible apply ite2_keeps
    | with_reducible apply iteR_keeps
    | with_reducible apply next_keeps
    | with_reducible apply each_keeps
    | with_reducible apply foldl_keeps'
    | with_reducible apply foldl2_keeps
    | with_reducible apply foldl3_keeps
    | with_reducible apply foldl4_keeps
    | with_reducible apply chain_keeps
    | with_reducible apply gather_keeps
    | with_reducible apply readThen_keeps
    | dsimp only
    | (refine Keeps.of_eq (by with_reducible assumption) ?_)
    | with_reducible apply upd_keeps

theorem writeProfileCmd_keeps {o s : State} (h : Keeps o s) (a0 : Nat) (v : W32) : Keeps o (writeProfileCmd a0 v s) := by
  unfold writeProfileCmd
  iterate 25 all_goals try first
    | with_reducible assumption
    | with_reducible apply doStore_keeps
    | with_reducible apply doDelete_keeps
    | with_reducible apply doPrefetch_keeps
    | with_reducible apply State.modProf_keeps
    | split
    | with_reducible apply next_keeps
    | with_reducible apply upd_keeps

theorem State.modSec_keeps {o s : State} (h : Keeps o s) (f : Sec → Sec) : Keeps o (State.modSec s f) := by
  unfold State.modSec
  iterate 25 all_goals try first
    | with_reducible assumption
    | split
    | with_reducible apply next_keeps
    | with_reducible apply upd_keeps

theorem testFailed_keeps {o s : State} (h : Keeps o s) (code : BitVec 8) : Keeps o (testFailed code s) := by
  unfold testFailed
  iterate 25 all_goals try first
    | with_reducible assumption
    | with_reducible apply fire_keeps
    | with_reducible apply State.modSec_keeps
    | with_reducible apply record_keeps
    | split
    | with_reducible apply next_keeps
    | with_reducible apply upd_keeps

theorem endTests_keeps {o s : State} (h : Keeps o s) (codes : List (BitVec 8)) (fails : Option Nat) : Keeps o (endTests codes fails s) := by
  unfold endTests
  iterate 25 all_goals try first
    | with_reducible assumption
    | with_reducible apply testFailed_keeps
    | split
    | with_reducible apply next_keeps
    | with_reducible apply upd_keeps

theorem useTest_keeps {o s : State} (h : Keeps o s) (codes : List (BitVec 8)) : Keeps o (useTest codes s) := by
  unfold useTest
  iterate 25 all_goals try first
    | with_reducible assumption
    | with_reducible apply endTests_keeps
    | split
    | with_reducible apply next_keeps
    | with_reducible apply upd_keeps

theorem takeDraw_keeps {o s : State} (h : Keeps o s) : Keeps o (takeDraw s).2 := by
  unfold takeDraw
  iterate 25 all_goals try first
    | with_reducible assumption
    | with_reducible apply State.modSec_keeps
    | with_reducible apply useTest_keeps
    | split
    | with_reducible apply next_keeps
    | with_reducible apply upd_keeps

theorem runTests_keeps {o s : State} (h : Keeps o s) (codes : List (BitVec 8)) : Keeps o (runTests codes s) := by
  unfold runTests
  iterate 25 all_goals try first
    | with_reducible assumption
    | with_reducible apply endTests_keeps
    | split
    | with_reducible apply next_keeps
    | with_reducible apply upd_keeps

theorem storeProfile_keeps {o s : State} (h : Keeps o s) (a0 : Nat) (p : Nat) : Keeps o (storeProfile a0 p s) := by
  unfold storeProfile
  iterate 25 all_goals try first
    | with_reducible assumption
    | with_reducible apply writeMem_keeps
    | with_reducible apply State.modProfile_keeps
    | with_reducible apply State.modProf_keeps
    | with_reducible apply State.modSec_keeps
    | with_reducible apply useTest_keeps
    | split
    | with_reducible apply next_keeps
    | with_reducible apply upd_keeps

theorem fetchFailed_keeps {o s : State} (h : Keeps o s) (p : Nat) : Keeps o (fetchFailed p s) := by
  unfold fetchFailed
  iterate 25 all_goals try first
    | with_reducible assumption
    | with_reducible exact Keeps.refl _
    | with_reducible apply abortStream_keeps
    | with_reducible apply State.modProfile_keeps
    | with_reducible apply record_keeps
    | with_reducible apply endPrefetches_keeps
    | intro _
    | split
    | with_reducible apply ite_keeps
    | with_reducible apply ite2_keeps
    | with_reducible apply iteR_keeps
    | with_reducible apply next_keeps
    | with_reducible apply each_keeps
    | with_reducible apply foldl_keeps'
    | with_reducible apply foldl2_keeps
    | with_reducible apply foldl3_keeps
    | with_reducible apply foldl4_keeps
    | with_reducible apply chain_keeps
    | with_reducible apply gather_keeps
    | with_reducible apply readThen_keeps
    | dsimp only
    | (refine Keeps.of_eq (by with_reducible assumption) ?_)
    | with_reducible apply upd_keeps

theorem profileCmdEnd_keeps {o s : State} (h : Keeps o s) (a0 : Nat) : Keeps o (profileCmdEnd a0 s) := by
  unfold profileCmdEnd
  iterate 25 all_goals try first
    | with_reducible assumption
    | with_reducible apply storeProfile_keeps
    | with_reducible apply endProfileCmd_keeps
    | split
    | with_reducible apply next_keeps
    | with_reducible apply upd_keeps

theorem execProfileCmdEnd_keeps {o s : State} (h : Keeps o s) (a0 : Nat) : KeepsR o (execProfileCmdEnd a0 s) := by
  unfold execProfileCmdEnd
  iterate 25 all_goals try first
    | with_reducible assumption
    | with_reducible apply done_keeps
    | with_reducible apply profileCmdEnd_keeps
    | split
    | with_reducible apply next_keeps
    | with_reducible apply upd_keeps

theorem execProfileFetchComplete_keeps {o s : State} (h : Keeps o s) (profile : Nat) (ups : List Upset) : KeepsR o (execProfileFetchComplete profile ups s) := by
  unfold execProfileFetchComplete
  iterate 25 all_goals try first
    | with_reducible assumption
    | with_reducible exact Keeps.refl _
    | with_reducible apply done_keeps
    | with_reducible apply released_keeps
    | with_reducible apply State.modProfile_keeps
    | with_reducible apply writeTagged_keeps
    | with_reducible apply progress_keeps
    | with_reducible apply endPrefetches_keeps
    | with_reducible apply applyUpsets_keeps
    | with_reducible apply openProfile_keeps
    | with_reducible apply fetchFailed_keeps
    | intro _
    | split
    | with_reducible apply ite_keeps
    | with_reducible apply ite2_keeps
    | with_reducible apply iteR_keeps
    | with_reducible apply next_keeps
    | with_reducible apply each_keeps
    | with_reducible apply foldl_keeps'
    | with_reducible apply foldl2_keeps
    | with_reducible apply foldl3_keeps
    | with_reducible apply foldl4_keeps
    | with_reducible apply chain_keeps
    | with_reducible apply gather_keeps
    | with_reducible apply readThen_keeps
    | dsimp only
    | (refine Keeps.of_eq (by with_reducible assumption) ?_)
    | with_reducible apply upd_keeps

theorem execStore_keeps {o s : State} (h : Keeps o s) (a0 : Nat) (profile : Nat) : KeepsR o (execStore a0 profile s) := by
  unfold execStore
  iterate 25 all_goals try first
    | with_reducible assumption
    | with_reducible exact Keeps.refl _
    | with_reducible apply doStore_keeps
    | with_reducible apply byReader_keeps
    | intro _
    | split
    | with_reducible apply ite_keeps
    | with_reducible apply ite2_keeps
    | with_reducible apply iteR_keeps
    | with_reducible apply next_keeps
    | with_reducible apply each_keeps
    | with_reducible apply foldl_keeps'
    | with_reducible apply foldl2_keeps
    | with_reducible apply foldl3_keeps
    | with_reducible apply foldl4_keeps
    | with_reducible apply chain_keeps
    | with_reducible apply gather_keeps
    | with_reducible apply readThen_keeps
    | dsimp only
    | (refine Keeps.of_eq (by with_reducible assumption) ?_)
    | with_reducible apply upd_keeps

theorem execDelete_keeps {o s : State} (h : Keeps o s) (a0 : Nat) (profile : Nat) : KeepsR o (execDelete a0 profile s) := by
  unfold execDelete
  iterate 25 all_goals try first
    | with_reducible assumption
    | with_reducible exact Keeps.refl _
    | with_reducible apply byReader_keeps
    | with_reducible apply doDelete_keeps
    | intro _
    | split
    | with_reducible apply ite_keeps
    | with_reducible apply ite2_keeps
    | with_reducible apply iteR_keeps
    | with_reducible apply next_keeps
    | with_reducible apply each_keeps
    | with_reducible apply foldl_keeps'
    | with_reducible apply foldl2_keeps
    | with_reducible apply foldl3_keeps
    | with_reducible apply foldl4_keeps
    | with_reducible apply chain_keeps
    | with_reducible apply gather_keeps
    | with_reducible apply readThen_keeps
    | dsimp only
    | (refine Keeps.of_eq (by with_reducible assumption) ?_)
    | with_reducible apply upd_keeps

theorem execPrefetch_keeps {o s : State} (h : Keeps o s) (a0 : Nat) (profile : Nat) : KeepsR o (execPrefetch a0 profile s) := by
  unfold execPrefetch
  iterate 25 all_goals try first
    | with_reducible assumption
    | with_reducible exact Keeps.refl _
    | with_reducible apply byReader_keeps
    | with_reducible apply doPrefetch_keeps
    | intro _
    | split
    | with_reducible apply ite_keeps
    | with_reducible apply ite2_keeps
    | with_reducible apply iteR_keeps
    | with_reducible apply next_keeps
    | with_reducible apply each_keeps
    | with_reducible apply foldl_keeps'
    | with_reducible apply foldl2_keeps
    | with_reducible apply foldl3_keeps
    | with_reducible apply foldl4_keeps
    | with_reducible apply chain_keeps
    | with_reducible apply gather_keeps
    | with_reducible apply readThen_keeps
    | dsimp only
    | (refine Keeps.of_eq (by with_reducible assumption) ?_)
    | with_reducible apply upd_keeps

theorem writeDevAddr_keeps {o s : State} (h : Keeps o s) (v : W32) : Keeps o (writeDevAddr v s) := by
  unfold writeDevAddr
  iterate 25 all_goals try first
    | with_reducible assumption
    | with_reducible exact Keeps.refl _
    | with_reducible apply State.modEth_keeps
    | with_reducible apply queueSignals_keeps
    | intro _
    | split
    | with_reducible apply ite_keeps
    | with_reducible apply ite2_keeps
    | with_reducible apply iteR_keeps
    | with_reducible apply next_keeps
    | with_reducible apply each_keeps
    | with_reducible apply foldl_keeps'
    | with_reducible apply foldl2_keeps
    | with_reducible apply foldl3_keeps
    | with_reducible apply foldl4_keeps
    | with_reducible apply chain_keeps
    | with_reducible apply gather_keeps
    | with_reducible apply readThen_keeps
    | dsimp only
    | (refine Keeps.of_eq (by with_reducible assumption) ?_)
    | with_reducible apply upd_keeps

theorem rxBad_keeps {o s : State} (h : Keeps o s) : Keeps o (rxBad s) := by
  unfold rxBad
  iterate 25 all_goals try first
    | with_reducible assumption
    | with_reducible apply State.modEth_keeps
    | split
    | with_reducible apply next_keeps
    | with_reducible apply upd_keeps

theorem rxDrop_keeps {o s : State} (h : Keeps o s) : Keeps o (rxDrop s) := by
  unfold rxDrop
  iterate 25 all_goals try first
    | with_reducible assumption
    | with_reducible apply State.modEth_keeps
    | split
    | with_reducible apply next_keeps
    | with_reducible apply upd_keeps

theorem answer_keeps {o s : State} (h : Keeps o s) (typ : Byte) (q : Req) (y : Reply) : Keeps o (answer typ q y s) := by
  unfold answer
  iterate 25 all_goals try first
    | with_reducible assumption
    | with_reducible apply State.modSess_keeps
    | with_reducible apply sendOut_keeps
    | split
    | with_reducible apply next_keeps
    | with_reducible apply upd_keeps

theorem serveOpt_keeps {o s : State} (h : Keeps o s) (typ : Byte) (q : Req) {f : State → Option Reply × State} (hf : ∀ {o s : State}, Keeps o s → Keeps o (f s).2) : Keeps o (serveOpt typ q f s) := by
  unfold serveOpt
  iterate 25 all_goals try first
    | with_reducible assumption
    | with_reducible apply State.modSess_keeps
    | with_reducible apply rxBad_keeps
    | with_reducible apply rxDrop_keeps
    | with_reducible apply answer_keeps
    | with_reducible apply sendOut_keeps
    | with_reducible apply State.modLive_keeps
    | with_reducible apply hf
    | split
    | dsimp only
    | (refine Keeps.of_eq (by with_reducible assumption) ?_)

theorem serve_keeps {o s : State} (h : Keeps o s) (typ : Byte) (q : Req) {f : State → Reply × State} (hf : ∀ {o s : State}, Keeps o s → Keeps o (f s).2) : Keeps o (serve typ q f s) := by
  unfold serve
  iterate 25 all_goals try first
    | with_reducible assumption
    | with_reducible apply serveOpt_keeps

theorem execEthDevAddr_keeps {o s : State} (h : Keeps o s) (a0 : Nat) (v : W32) : KeepsR o (execEthDevAddr a0 v s) := by
  unfold execEthDevAddr
  iterate 25 all_goals try first
    | with_reducible assumption
    | with_reducible exact Keeps.refl _
    | with_reducible apply byReader_keeps
    | with_reducible apply writeDevAddr_keeps
    | intro _
    | split
    | with_reducible apply ite_keeps
    | with_reducible apply ite2_keeps
    | with_reducible apply iteR_keeps
    | with_reducible apply next_keeps
    | with_reducible apply each_keeps
    | with_reducible apply foldl_keeps'
    | with_reducible apply foldl2_keeps
    | with_reducible apply foldl3_keeps
    | with_reducible apply foldl4_keeps
    | with_reducible apply chain_keeps
    | with_reducible apply gather_keeps
    | with_reducible apply readThen_keeps
    | dsimp only
    | (refine Keeps.of_eq (by with_reducible assumption) ?_)
    | with_reducible apply upd_keeps

theorem closeSess_keeps {o s : State} (h : Keeps o s) (i : Nat) : Keeps o (closeSess i s) := by
  unfold closeSess
  iterate 25 all_goals try first
    | with_reducible assumption
    | with_reducible apply State.setSess_keeps
    | with_reducible apply State.modEth_keeps
    | with_reducible apply pumpAll_keeps
    | with_reducible apply State.modReader_keeps
    | split
    | with_reducible apply next_keeps
    | with_reducible apply upd_keeps

theorem execSessionClose_keeps {o s : State} (h : Keeps o s) (q : Req) : KeepsR o (execSessionClose q s) := by
  unfold execSessionClose
  iterate 25 all_goals try first
    | with_reducible assumption
    | with_reducible exact Keeps.refl _
    | with_reducible apply done_keeps
    | with_reducible apply serve_keeps
    | with_reducible apply closeSess_keeps
    | intro _
    | split
    | with_reducible apply ite_keeps
    | with_reducible apply ite2_keeps
    | with_reducible apply iteR_keeps
    | with_reducible apply next_keeps
    | with_reducible apply each_keeps
    | with_reducible apply foldl_keeps'
    | with_reducible apply foldl2_keeps
    | with_reducible apply foldl3_keeps
    | with_reducible apply foldl4_keeps
    | with_reducible apply chain_keeps
    | with_reducible apply gather_keeps
    | with_reducible apply readThen_keeps
    | dsimp only
    | (refine Keeps.of_eq (by with_reducible assumption) ?_)
    | with_reducible apply upd_keeps

theorem execNeighbourSolicitation_keeps {o s : State} (h : Keeps o s) (source : BitVec 128) (target : BitVec 128) : KeepsR o (execNeighbourSolicitation source target s) := by
  unfold execNeighbourSolicitation
  iterate 25 all_goals try first
    | with_reducible assumption
    | with_reducible apply done_keeps
    | with_reducible apply sendOut_keeps
    | split
    | with_reducible apply next_keeps
    | with_reducible apply upd_keeps

theorem execEthLinkUp_keeps {o s : State} (h : Keeps o s) (at16 : Bool) (fails : Nat) : KeepsR o (execEthLinkUp at16 fails s) := by
  unfold execEthLinkUp
  iterate 25 all_goals try first
    | with_reducible assumption
    | with_reducible exact Keeps.refl _
    | with_reducible apply done_keeps
    | with_reducible apply fire_keeps
    | with_reducible apply record_keeps
    | with_reducible apply State.modEth_keeps
    | intro _
    | split
    | with_reducible apply ite_keeps
    | with_reducible apply ite2_keeps
    | with_reducible apply iteR_keeps
    | with_reducible apply next_keeps
    | with_reducible apply each_keeps
    | with_reducible apply foldl_keeps'
    | with_reducible apply foldl2_keeps
    | with_reducible apply foldl3_keeps
    | with_reducible apply foldl4_keeps
    | with_reducible apply chain_keeps
    | with_reducible apply gather_keeps
    | with_reducible apply readThen_keeps
    | dsimp only
    | (refine Keeps.of_eq (by with_reducible assumption) ?_)
    | with_reducible apply upd_keeps

theorem execDestRead_keeps {o s : State} (h : Keeps o s) (q : Req) : KeepsR o (execDestRead q s) := by
  unfold execDestRead
  iterate 25 all_goals try first
    | with_reducible assumption
    | with_reducible exact Keeps.refl _
    | with_reducible apply done_keeps
    | with_reducible apply serve_keeps
    | intro _
    | split
    | with_reducible apply ite_keeps
    | with_reducible apply ite2_keeps
    | with_reducible apply iteR_keeps
    | with_reducible apply next_keeps
    | with_reducible apply each_keeps
    | with_reducible apply foldl_keeps'
    | with_reducible apply foldl2_keeps
    | with_reducible apply foldl3_keeps
    | with_reducible apply foldl4_keeps
    | with_reducible apply chain_keeps
    | with_reducible apply gather_keeps
    | with_reducible apply readThen_keeps
    | dsimp only
    | (refine Keeps.of_eq (by with_reducible assumption) ?_)
    | with_reducible apply upd_keeps

theorem execDestWrite_keeps {o s : State} (h : Keeps o s) (q : Req) : KeepsR o (execDestWrite q s) := by
  unfold execDestWrite
  iterate 25 all_goals try first
    | with_reducible assumption
    | with_reducible exact Keeps.refl _
    | with_reducible apply done_keeps
    | with_reducible apply sendOut_keeps
    | with_reducible apply serve_keeps
    | with_reducible apply State.modEth_keeps
    | intro _
    | split
    | with_reducible apply ite_keeps
    | with_reducible apply ite2_keeps
    | with_reducible apply iteR_keeps
    | with_reducible apply next_keeps
    | with_reducible apply each_keeps
    | with_reducible apply foldl_keeps'
    | with_reducible apply foldl2_keeps
    | with_reducible apply foldl3_keeps
    | with_reducible apply foldl4_keeps
    | with_reducible apply chain_keeps
    | with_reducible apply gather_keeps
    | with_reducible apply readThen_keeps
    | dsimp only
    | (refine Keeps.of_eq (by with_reducible assumption) ?_)
    | with_reducible apply upd_keeps

theorem execAddressResolution_keeps {o s : State} (h : Keeps o s) (entry : Nat) (found : Option (BitVec 48)) : KeepsR o (execAddressResolution entry found s) := by
  unfold execAddressResolution
  iterate 25 all_goals try first
    | with_reducible assumption
    | with_reducible exact Keeps.refl _
    | with_reducible apply done_keeps
    | with_reducible apply sendOut_keeps
    | with_reducible apply State.modEth_keeps
    | intro _
    | split
    | with_reducible apply ite_keeps
    | with_reducible apply ite2_keeps
    | with_reducible apply iteR_keeps
    | with_reducible apply next_keeps
    | with_reducible apply each_keeps
    | with_reducible apply foldl_keeps'
    | with_reducible apply foldl2_keeps
    | with_reducible apply foldl3_keeps
    | with_reducible apply foldl4_keeps
    | with_reducible apply chain_keeps
    | with_reducible apply gather_keeps
    | with_reducible apply readThen_keeps
    | dsimp only
    | (refine Keeps.of_eq (by with_reducible assumption) ?_)
    | with_reducible apply upd_keeps

theorem writePtpCfg_keeps {o s : State} (h : Keeps o s) (v : W32) : Keeps o (writePtpCfg v s) := by
  unfold writePtpCfg
  iterate 25 all_goals try first
    | with_reducible assumption
    | with_reducible apply State.modEth_keeps
    | split
    | with_reducible apply next_keeps
    | with_reducible apply upd_keeps

theorem execEthPtpCfg_keeps {o s : State} (h : Keeps o s) (a0 : Nat) (v : W32) : KeepsR o (execEthPtpCfg a0 v s) := by
  unfold execEthPtpCfg
  iterate 25 all_goals try first
    | with_reducible assumption
    | with_reducible exact Keeps.refl _
    | with_reducible apply writePtpCfg_keeps
    | with_reducible apply byReader_keeps
    | intro _
    | split
    | with_reducible apply ite_keeps
    | with_reducible apply ite2_keeps
    | with_reducible apply iteR_keeps
    | with_reducible apply next_keeps
    | with_reducible apply each_keeps
    | with_reducible apply foldl_keeps'
    | with_reducible apply foldl2_keeps
    | with_reducible apply foldl3_keeps
    | with_reducible apply foldl4_keeps
    | with_reducible apply chain_keeps
    | with_reducible apply gather_keeps
    | with_reducible apply readThen_keeps
    | dsimp only
    | (refine Keeps.of_eq (by with_reducible assumption) ?_)
    | with_reducible apply upd_keeps

theorem execSessionLeaseExpiry_keeps {o s : State} (h : Keeps o s) (sess : Nat) : KeepsR o (execSessionLeaseExpiry sess s) := by
  unfold execSessionLeaseExpiry
  iterate 25 all_goals try first
    | with_reducible assumption
    | with_reducible apply done_keeps
    | with_reducible apply fire_keeps
    | with_reducible apply record_keeps
    | with_reducible apply closeSess_keeps
    | split
    | with_reducible apply next_keeps
    | with_reducible apply upd_keeps

theorem linkDown_keeps {o s : State} (h : Keeps o s) : Keeps o (linkDown s) := by
  unfold linkDown
  iterate 25 all_goals try first
    | with_reducible assumption
    | with_reducible apply fire_keeps
    | with_reducible apply record_keeps
    | with_reducible apply State.modEth_keeps
    | split
    | with_reducible apply next_keeps
    | with_reducible apply upd_keeps

theorem openSess_keeps {o s : State} (h : Keeps o s) (i : Nat) (role : Bool) : Keeps o (openSess i role s) := by
  unfold openSess
  iterate 25 all_goals try first
    | with_reducible assumption
    | with_reducible apply State.setSess_keeps
    | with_reducible apply State.modReader_keeps
    | split
    | with_reducible apply next_keeps
    | with_reducible apply upd_keeps

theorem execStMessageRefused_keeps {o s : State} (h : Keeps o s) (ip : BitVec 128) (port : W16) (raw : List Byte) : KeepsR o (execStMessageRefused ip port raw s) := by
  unfold execStMessageRefused
  iterate 25 all_goals try first
    | with_reducible assumption
    | with_reducible exact Keeps.refl _
    | with_reducible apply done_keeps
    | with_reducible apply rxBad_keeps
    | with_reducible apply rxDrop_keeps
    | with_reducible apply sendOut_keeps
    | with_reducible apply ingressBad_keeps
    | intro _
    | split
    | with_reducible apply ite_keeps
    | with_reducible apply ite2_keeps
    | with_reducible apply iteR_keeps
    | with_reducible apply next_keeps
    | with_reducible apply each_keeps
    | with_reducible apply foldl_keeps'
    | with_reducible apply foldl2_keeps
    | with_reducible apply foldl3_keeps
    | with_reducible apply foldl4_keeps
    | with_reducible apply chain_keeps
    | with_reducible apply gather_keeps
    | with_reducible apply readThen_keeps
    | dsimp only
    | (refine Keeps.of_eq (by with_reducible assumption) ?_)
    | with_reducible apply upd_keeps

theorem execIgmpMldReport_keeps {o s : State} (h : Keeps o s) (v6 : Bool) (query : Bool) : KeepsR o (execIgmpMldReport v6 query s) := by
  unfold execIgmpMldReport
  iterate 25 all_goals try first
    | with_reducible assumption
    | with_reducible exact Keeps.refl _
    | with_reducible apply done_keeps
    | with_reducible apply sendOut_keeps
    | intro _
    | split
    | with_reducible apply ite_keeps
    | with_reducible apply ite2_keeps
    | with_reducible apply iteR_keeps
    | with_reducible apply next_keeps
    | with_reducible apply each_keeps
    | with_reducible apply foldl_keeps'
    | with_reducible apply foldl2_keeps
    | with_reducible apply foldl3_keeps
    | with_reducible apply foldl4_keeps
    | with_reducible apply chain_keeps
    | with_reducible apply gather_keeps
    | with_reducible apply readThen_keeps
    | dsimp only
    | (refine Keeps.of_eq (by with_reducible assumption) ?_)
    | with_reducible apply upd_keeps

theorem execUdpOtherPort_keeps {o s : State} (h : Keeps o s) (dport : W16) : KeepsR o (execUdpOtherPort dport s) := by
  unfold execUdpOtherPort
  iterate 25 all_goals try first
    | with_reducible assumption
    | with_reducible apply done_keeps
    | with_reducible apply rxDrop_keeps
    | split
    | with_reducible apply next_keeps
    | with_reducible apply upd_keeps

theorem writeEth_keeps {o s : State} (h : Keeps o s) (off : Nat) (v : W32) : Keeps o (writeEth off v s) := by
  unfold writeEth
  iterate 25 all_goals try first
    | with_reducible assumption
    | with_reducible apply writePtpCfg_keeps
    | with_reducible apply linkDown_keeps
    | with_reducible apply State.modMacsec_keeps
    | with_reducible apply State.modEth_keeps
    | with_reducible apply writeDevAddr_keeps
    | split
    | with_reducible apply next_keeps
    | with_reducible apply upd_keeps

theorem execArp_keeps {o s : State} (h : Keeps o s) (senderMac : BitVec 48) (senderIp : W32) (targetIp : W32) : KeepsR o (execArp senderMac senderIp targetIp s) := by
  unfold execArp
  iterate 25 all_goals try first
    | with_reducible assumption
    | with_reducible apply done_keeps
    | with_reducible apply sendOut_keeps
    | split
    | with_reducible apply next_keeps
    | with_reducible apply upd_keeps

theorem execMacsecDrop_keeps {o s : State} (h : Keeps o s) (sc : Nat) (an : Nat) (isProtected : Bool) (icvOk : Bool) (pn : Nat) : KeepsR o (execMacsecDrop sc an isProtected icvOk pn s) := by
  unfold execMacsecDrop
  iterate 25 all_goals try first
    | with_reducible assumption
    | with_reducible exact Keeps.refl _
    | with_reducible apply done_keeps
    | with_reducible apply State.modMacsec_keeps
    | intro _
    | split
    | with_reducible apply ite_keeps
    | with_reducible apply ite2_keeps
    | with_reducible apply iteR_keeps
    | with_reducible apply next_keeps
    | with_reducible apply each_keeps
    | with_reducible apply foldl_keeps'
    | with_reducible apply foldl2_keeps
    | with_reducible apply foldl3_keeps
    | with_reducible apply foldl4_keeps
    | with_reducible apply chain_keeps
    | with_reducible apply gather_keeps
    | with_reducible apply readThen_keeps
    | dsimp only
    | (refine Keeps.of_eq (by with_reducible assumption) ?_)
    | with_reducible apply upd_keeps

theorem execEchoRequest_keeps {o s : State} (h : Keeps o s) (source : BitVec 128) (dest : BitVec 128) (v6 : Bool) (data : List Byte) : KeepsR o (execEchoRequest source dest v6 data s) := by
  unfold execEchoRequest
  iterate 25 all_goals try first
    | with_reducible assumption
    | with_reducible exact Keeps.refl _
    | with_reducible apply done_keeps
    | with_reducible apply sendOut_keeps
    | intro _
    | split
    | with_reducible apply ite_keeps
    | with_reducible apply ite2_keeps
    | with_reducible apply iteR_keeps
    | with_reducible apply next_keeps
    | with_reducible apply each_keeps
    | with_reducible apply foldl_keeps'
    | with_reducible apply foldl2_keeps
    | with_reducible apply foldl3_keeps
    | with_reducible apply foldl4_keeps
    | with_reducible apply chain_keeps
    | with_reducible apply gather_keeps
    | with_reducible apply readThen_keeps
    | dsimp only
    | (refine Keeps.of_eq (by with_reducible assumption) ?_)
    | with_reducible apply upd_keeps

theorem execNop_keeps {o s : State} (h : Keeps o s) (q : Req) : KeepsR o (execNop q s) := by
  unfold execNop
  iterate 25 all_goals try first
    | with_reducible assumption
    | with_reducible exact Keeps.refl _
    | with_reducible apply done_keeps
    | with_reducible apply serve_keeps
    | intro _
    | split
    | with_reducible apply ite_keeps
    | with_reducible apply ite2_keeps
    | with_reducible apply iteR_keeps
    | with_reducible apply next_keeps
    | with_reducible apply each_keeps
    | with_reducible apply foldl_keeps'
    | with_reducible apply foldl2_keeps
    | with_reducible apply foldl3_keeps
    | with_reducible apply foldl4_keeps
    | with_reducible apply chain_keeps
    | with_reducible apply gather_keeps
    | with_reducible apply readThen_keeps
    | dsimp only
    | (refine Keeps.of_eq (by with_reducible assumption) ?_)
    | with_reducible apply upd_keeps

theorem execEthLinkDown_keeps {o s : State} (h : Keeps o s) : KeepsR o (execEthLinkDown s) := by
  unfold execEthLinkDown
  iterate 25 all_goals try first
    | with_reducible assumption
    | with_reducible apply done_keeps
    | with_reducible apply linkDown_keeps
    | split
    | with_reducible apply next_keeps
    | with_reducible apply upd_keeps

theorem execSessionOpen_keeps {o s : State} (h : Keeps o s) (q : Req) : KeepsR o (execSessionOpen q s) := by
  unfold execSessionOpen
  iterate 25 all_goals try first
    | with_reducible assumption
    | with_reducible apply done_keeps
    | with_reducible apply rxDrop_keeps
    | with_reducible apply sendOut_keeps
    | with_reducible apply openSess_keeps
    | with_reducible apply State.modEth_keeps
    | with_reducible apply State.modLive_keeps
    | split
    | with_reducible apply next_keeps
    | with_reducible apply upd_keeps

theorem exitGranules_keeps {o s : State} (h : Keeps o s) (checker : Nat) (id : Nat) (i : Nat) (j : Nat) (p : PlanEnt) : Keeps o (exitGranules checker id i j p s).2 := by
  unfold exitGranules
  iterate 25 all_goals try first
    | with_reducible assumption
    | with_reducible exact Keeps.refl _
    | with_reducible apply checkGranule_keeps
    | with_reducible apply tagExitFail_keeps
    | intro _
    | split
    | with_reducible apply ite_keeps
    | with_reducible apply ite2_keeps
    | with_reducible apply iteR_keeps
    | with_reducible apply next_keeps
    | with_reducible apply each_keeps
    | with_reducible apply foldl_keeps'
    | with_reducible apply foldl2_keeps
    | with_reducible apply foldl3_keeps
    | with_reducible apply foldl4_keeps
    | with_reducible apply chain_keeps
    | with_reducible apply gather_keeps
    | with_reducible apply readThen_keeps
    | dsimp only
    | (refine Keeps.of_eq (by with_reducible assumption) ?_)
    | with_reducible apply upd_keeps

theorem exitSample_keeps {o s : State} (h : Keeps o s) (exit : Nat) (checker : Nat) (id : Nat) (pos : Nat) : Keeps o (exitSample exit checker id pos s).2 := by
  unfold exitSample
  iterate 25 all_goals try first
    | with_reducible assumption
    | with_reducible apply exitGranules_keeps
    | with_reducible apply State.modStream_keeps
    | split
    | with_reducible apply next_keeps
    | with_reducible apply upd_keeps

theorem blockKey.fresh_keeps {o s : State} (h : Keeps o s) (exit : Nat) (id : Nat) (block : Nat) : Keeps o (blockKey.fresh exit id block s).2 := by
  unfold blockKey.fresh
  iterate 25 all_goals try first
    | with_reducible assumption
    | split
    | with_reducible apply next_keeps
    | with_reducible apply upd_keeps

theorem blockKey_keeps {o s : State} (h : Keeps o s) (exit : Nat) (id : Nat) (block : Nat) : Keeps o (blockKey exit id block s).2 := by
  unfold blockKey
  iterate 25 all_goals try first
    | with_reducible assumption
    | with_reducible apply blockKey.fresh_keeps
    | split
    | with_reducible apply next_keeps
    | with_reducible apply upd_keeps

theorem markWord_keeps {o s : State} (h : Keeps o s) (on : Bool) (exit : Nat) (id : Nat) (k : Nat) (v : Nat) : Keeps o (markWord on exit id k v s).2 := by
  unfold markWord
  iterate 25 all_goals try first
    | with_reducible assumption
    | with_reducible exact Keeps.refl _
    | with_reducible apply blockKey_keeps
    | intro _
    | split
    | with_reducible apply ite_keeps
    | with_reducible apply ite2_keeps
    | with_reducible apply iteR_keeps
    | with_reducible apply next_keeps
    | with_reducible apply each_keeps
    | with_reducible apply foldl_keeps'
    | with_reducible apply foldl2_keeps
    | with_reducible apply foldl3_keeps
    | with_reducible apply foldl4_keeps
    | with_reducible apply chain_keeps
    | with_reducible apply gather_keeps
    | with_reducible apply readThen_keeps
    | dsimp only
    | (refine Keeps.of_eq (by with_reducible assumption) ?_)
    | with_reducible apply upd_keeps

theorem State.modLiveSlot_keeps {o s : State} (h : Keeps o s) (slot : Nat) (f : QuantSlot → QuantSlot) : Keeps o (State.modLiveSlot s slot f) := by
  unfold State.modLiveSlot
  iterate 25 all_goals try first
    | with_reducible assumption
    | split
    | with_reducible apply next_keeps
    | with_reducible apply upd_keeps

theorem toWire_keeps {o s : State} (h : Keeps o s) (w : Nat) (plan : Nat) (x : W32) : Keeps o (toWire w plan x s).2 := by
  unfold toWire
  iterate 25 all_goals try first
    | with_reducible assumption
    | with_reducible apply State.modLiveSlot_keeps
    | split
    | with_reducible apply next_keeps
    | with_reducible apply upd_keeps

theorem rtpSample_keeps {o s : State} (h : Keeps o s) (mark : Bool) (format : Nat) (plan : Nat) (id : Nat) (k : Nat) (x : W32) : Keeps o (rtpSample mark format plan id k x s).2 := by
  unfold rtpSample
  iterate 25 all_goals try first
    | with_reducible assumption
    | with_reducible exact Keeps.refl _
    | with_reducible apply markWord_keeps
    | with_reducible apply toWire_keeps
    | intro _
    | split
    | with_reducible apply ite_keeps
    | with_reducible apply ite2_keeps
    | with_reducible apply iteR_keeps
    | with_reducible apply next_keeps
    | with_reducible apply each_keeps
    | with_reducible apply foldl_keeps'
    | with_reducible apply foldl2_keeps
    | with_reducible apply foldl3_keeps
    | with_reducible apply foldl4_keeps
    | with_reducible apply chain_keeps
    | with_reducible apply gather_keeps
    | with_reducible apply readThen_keeps
    | dsimp only
    | (refine Keeps.of_eq (by with_reducible assumption) ?_)
    | with_reducible apply upd_keeps

theorem flushRtp_keeps {o s : State} (h : Keeps o s) (id : Nat) : Keeps o (flushRtp id s) := by
  unfold flushRtp
  iterate 25 all_goals try first
    | with_reducible assumption
    | with_reducible exact Keeps.refl _
    | with_reducible apply txDrop_keeps
    | with_reducible apply rtpSample_keeps
    | with_reducible apply sendOut_keeps
    | with_reducible apply State.modStream_keeps
    | with_reducible apply State.modLive_keeps
    | intro _
    | split
    | with_reducible apply ite_keeps
    | with_reducible apply ite2_keeps
    | with_reducible apply iteR_keeps
    | with_reducible apply next_keeps
    | with_reducible apply each_keeps
    | with_reducible apply foldl_keeps'
    | with_reducible apply foldl2_keeps
    | with_reducible apply foldl3_keeps
    | with_reducible apply foldl4_keeps
    | with_reducible apply chain_keeps
    | with_reducible apply gather_keeps
    | with_reducible apply readThen_keeps
    | dsimp only
    | (refine Keeps.of_eq (by with_reducible assumption) ?_)
    | with_reducible apply upd_keeps

theorem rtpTick_keeps {o s : State} (h : Keeps o s) (id : Nat) : Keeps o (rtpTick id s) := by
  unfold rtpTick
  iterate 25 all_goals try first
    | with_reducible assumption
    | with_reducible exact Keeps.refl _
    | with_reducible apply exitSample_keeps
    | with_reducible apply State.modStream_keeps
    | with_reducible apply flushRtp_keeps
    | intro _
    | split
    | with_reducible apply ite_keeps
    | with_reducible apply ite2_keeps
    | with_reducible apply iteR_keeps
    | with_reducible apply next_keeps
    | with_reducible apply each_keeps
    | with_reducible apply foldl_keeps'
    | with_reducible apply foldl2_keeps
    | with_reducible apply foldl3_keeps
    | with_reducible apply foldl4_keeps
    | with_reducible apply chain_keeps
    | with_reducible apply gather_keeps
    | with_reducible apply readThen_keeps
    | dsimp only
    | (refine Keeps.of_eq (by with_reducible assumption) ?_)
    | with_reducible apply upd_keeps

theorem leaveSlot_keeps {o s : State} (h : Keeps o s) (id : Nat) (a1 : Token) (after : W64) : Keeps o (leaveSlot id a1 after s) := by
  unfold leaveSlot
  iterate 25 all_goals try first
    | with_reducible assumption
    | with_reducible exact Keeps.refl _
    | with_reducible apply checkDrained_keeps
    | with_reducible apply post_keeps
    | with_reducible apply State.modStream_keeps
    | with_reducible apply State.modQueue_keeps
    | intro _
    | split
    | with_reducible apply ite_keeps
    | with_reducible apply ite2_keeps
    | with_reducible apply iteR_keeps
    | with_reducible apply next_keeps
    | with_reducible apply each_keeps
    | with_reducible apply foldl_keeps'
    | with_reducible apply foldl2_keeps
    | with_reducible apply foldl3_keeps
    | with_reducible apply foldl4_keeps
    | with_reducible apply chain_keeps
    | with_reducible apply gather_keeps
    | with_reducible apply readThen_keeps
    | dsimp only
    | (refine Keeps.of_eq (by with_reducible assumption) ?_)
    | with_reducible apply upd_keeps

theorem sendAudio_keeps {o s : State} (h : Keeps o s) (id : Nat) (entry : Nat) (i : Nat) (slot : Nat) (p : PlanEnt) (posOf : Nat → W64) : Keeps o (sendAudio id entry i slot p posOf s) := by
  unfold sendAudio
  iterate 25 all_goals try first
    | with_reducible assumption
    | with_reducible exact Keeps.refl _
    | with_reducible apply exitGranules_keeps
    | with_reducible apply sendTo_keeps
    | with_reducible apply State.modLive_keeps
    | intro _
    | split
    | with_reducible apply ite_keeps
    | with_reducible apply ite2_keeps
    | with_reducible apply iteR_keeps
    | with_reducible apply next_keeps
    | with_reducible apply each_keeps
    | with_reducible apply foldl_keeps'
    | with_reducible apply foldl2_keeps
    | with_reducible apply foldl3_keeps
    | with_reducible apply foldl4_keeps
    | with_reducible apply chain_keeps
    | with_reducible apply gather_keeps
    | with_reducible apply readThen_keeps
    | dsimp only
    | (refine Keeps.of_eq (by with_reducible assumption) ?_)
    | with_reducible apply upd_keeps

theorem execCloseComplete_keeps {o s : State} (h : Keeps o s) (id : Nat) : KeepsR o (execCloseComplete id s) := by
  unfold execCloseComplete
  iterate 25 all_goals try first
    | with_reducible assumption
    | with_reducible exact Keeps.refl _
    | with_reducible apply done_keeps
    | with_reducible apply post_keeps
    | with_reducible apply State.modStream_keeps
    | with_reducible apply dropCarried_keeps
    | with_reducible apply flushRtp_keeps
    | intro _
    | split
    | with_reducible apply ite_keeps
    | with_reducible apply ite2_keeps
    | with_reducible apply iteR_keeps
    | with_reducible apply next_keeps
    | with_reducible apply each_keeps
    | with_reducible apply foldl_keeps'
    | with_reducible apply foldl2_keeps
    | with_reducible apply foldl3_keeps
    | with_reducible apply foldl4_keeps
    | with_reducible apply chain_keeps
    | with_reducible apply gather_keeps
    | with_reducible apply readThen_keeps
    | dsimp only
    | (refine Keeps.of_eq (by with_reducible assumption) ?_)
    | with_reducible apply upd_keeps

theorem sendUnpaced_keeps {o s : State} (h : Keeps o s) (id : Nat) (a1 : Nat) : Keeps o (sendUnpaced id a1 s) := by
  induction a1 generalizing s id with
  | zero =>
    unfold sendUnpaced
    iterate 25 all_goals try first
      | with_reducible assumption
      | with_reducible exact Keeps.refl _
      | with_reducible apply sendAudio_keeps
      | with_reducible apply leaveSlot_keeps
      | intro _
      | split
      | with_reducible apply ite_keeps
      | with_reducible apply ite2_keeps
      | with_reducible apply iteR_keeps
      | with_reducible apply next_keeps
      | with_reducible apply each_keeps
      | with_reducible apply foldl_keeps'
      | with_reducible apply foldl2_keeps
      | with_reducible apply foldl3_keeps
      | with_reducible apply foldl4_keeps
      | with_reducible apply chain_keeps
      | with_reducible apply gather_keeps
      | with_reducible apply readThen_keeps
      | dsimp only
      | (refine Keeps.of_eq (by with_reducible assumption) ?_)
      | with_reducible apply upd_keeps
  | succ n ih =>
    unfold sendUnpaced
    iterate 25 all_goals try first
      | with_reducible assumption
      | with_reducible exact Keeps.refl _
      | with_reducible apply ih
      | with_reducible apply sendAudio_keeps
      | with_reducible apply leaveSlot_keeps
      | intro _
      | split
      | with_reducible apply ite_keeps
      | with_reducible apply ite2_keeps
      | with_reducible apply iteR_keeps
      | with_reducible apply next_keeps
      | with_reducible apply each_keeps
      | with_reducible apply foldl_keeps'
      | with_reducible apply foldl2_keeps
      | with_reducible apply foldl3_keeps
      | with_reducible apply foldl4_keeps
      | with_reducible apply chain_keeps
      | with_reducible apply gather_keeps
      | with_reducible apply readThen_keeps
      | dsimp only
      | (refine Keeps.of_eq (by with_reducible assumption) ?_)
      | with_reducible apply upd_keeps

theorem execStreamBind_keeps {o s : State} (h : Keeps o s) (q : Req) : KeepsR o (execStreamBind q s) := by
  unfold execStreamBind
  iterate 25 all_goals try first
    | with_reducible assumption
    | with_reducible exact Keeps.refl _
    | with_reducible apply done_keeps
    | with_reducible apply progress_keeps
    | with_reducible apply serve_keeps
    | with_reducible apply sendUnpaced_keeps
    | with_reducible apply State.modStream_keeps
    | intro _
    | split
    | with_reducible apply ite_keeps
    | with_reducible apply ite2_keeps
    | with_reducible apply iteR_keeps
    | with_reducible apply next_keeps
    | with_reducible apply each_keeps
    | with_reducible apply foldl_keeps'
    | with_reducible apply foldl2_keeps
    | with_reducible apply foldl3_keeps
    | with_reducible apply foldl4_keeps
    | with_reducible apply chain_keeps
    | with_reducible apply gather_keeps
    | with_reducible apply readThen_keeps
    | dsimp only
    | (refine Keeps.of_eq (by with_reducible assumption) ?_)
    | with_reducible apply upd_keeps

theorem applyDest_keeps {o s : State} (h : Keeps o s) (id : Nat) (entry : Nat) : Keeps o (applyDest id entry s) := by
  unfold applyDest
  iterate 25 all_goals try first
    | with_reducible assumption
    | with_reducible apply State.modStream_keeps
    | with_reducible apply flushRtp_keeps
    | split
    | with_reducible apply next_keeps
    | with_reducible apply upd_keeps

theorem slotStart_keeps {o s : State} (h : Keeps o s) (id : Nat) : Keeps o (slotStart id s) := by
  unfold slotStart
  iterate 25 all_goals try first
    | with_reducible assumption
    | with_reducible apply sendAudio_keeps
    | with_reducible apply State.modLive_keeps
    | split
    | with_reducible apply next_keeps
    | with_reducible apply upd_keeps

theorem writeHistory_keeps {o s : State} (h : Keeps o s) (a : Nat) (a1 : Rec) (ws : List W32) : Keeps o (writeHistory a a1 ws s) := by
  unfold writeHistory
  iterate 25 all_goals try first
    | with_reducible assumption
    | with_reducible exact Keeps.refl _
    | with_reducible apply writeMem_keeps
    | intro _
    | split
    | with_reducible apply ite_keeps
    | with_reducible apply ite2_keeps
    | with_reducible apply iteR_keeps
    | with_reducible apply next_keeps
    | with_reducible apply each_keeps
    | with_reducible apply foldl_keeps'
    | with_reducible apply foldl2_keeps
    | with_reducible apply foldl3_keeps
    | with_reducible apply foldl4_keeps
    | with_reducible apply chain_keeps
    | with_reducible apply gather_keeps
    | with_reducible apply readThen_keeps
    | dsimp only
    | (refine Keeps.of_eq (by with_reducible assumption) ?_)
    | with_reducible apply upd_keeps

theorem modStep_keeps {o s : State} (h : Keeps o s) (x : Sel) (f : Step → Step) : Keeps o (modStep x f s) := by
  unfold modStep
  iterate 25 all_goals try first
    | with_reducible assumption
    | with_reducible apply State.modStage_keeps
    | split
    | with_reducible apply next_keeps
    | with_reducible apply upd_keeps

theorem waitFor_keeps {o s : State} (h : Keeps o s) (x : Sel) (l : Nat) (n : Nat) : Keeps o (waitFor x l n s) := by
  unfold waitFor
  iterate 25 all_goals try first
    | with_reducible assumption
    | with_reducible apply modStep_keeps
    | split
    | with_reducible apply next_keeps
    | with_reducible apply upd_keeps

theorem readPair_keeps {o s : State} (h : Keeps o s) (cls : Nat) (stream : Nat) (tier : Nat) (a : Nat) : Keeps o (readPair cls stream tier a s).2 := by
  unfold readPair
  iterate 25 all_goals try first
    | with_reducible assumption
    | with_reducible exact Keeps.refl _
    | with_reducible apply readFixed_keeps
    | intro _
    | split
    | with_reducible apply ite_keeps
    | with_reducible apply ite2_keeps
    | with_reducible apply iteR_keeps
    | with_reducible apply next_keeps
    | with_reducible apply each_keeps
    | with_reducible apply foldl_keeps'
    | with_reducible apply foldl2_keeps
    | with_reducible apply foldl3_keeps
    | with_reducible apply foldl4_keeps
    | with_reducible apply chain_keeps
    | with_reducible apply gather_keeps
    | with_reducible apply readThen_keeps
    | dsimp only
    | (refine Keeps.of_eq (by with_reducible assumption) ?_)
    | with_reducible apply upd_keeps

theorem readPairs_keeps {o s : State} (h : Keeps o s) (cls : Nat) (stream : Nat) (tier : Nat) (a3 : List Nat) : Keeps o (readPairs cls stream tier a3 s).2 := by
  induction a3 generalizing s cls stream tier with
  | nil =>
    unfold readPairs
    iterate 25 all_goals try first
      | with_reducible assumption
      | with_reducible exact Keeps.refl _
      | with_reducible apply readPair_keeps
      | intro _
      | split
      | with_reducible apply ite_keeps
      | with_reducible apply ite2_keeps
      | with_reducible apply iteR_keeps
      | with_reducible apply next_keeps
      | with_reducible apply each_keeps
      | with_reducible apply foldl_keeps'
      | with_reducible apply foldl2_keeps
      | with_reducible apply foldl3_keeps
      | with_reducible apply foldl4_keeps
      | with_reducible apply chain_keeps
      | with_reducible apply gather_keeps
      | with_reducible apply readThen_keeps
      | dsimp only
      | (refine Keeps.of_eq (by with_reducible assumption) ?_)
      | with_reducible apply upd_keeps
  | cons a l ih =>
    unfold readPairs
    iterate 25 all_goals try first
      | with_reducible assumption
      | with_reducible exact Keeps.refl _
      | with_reducible apply ih
      | with_reducible apply readPair_keeps
      | intro _
      | split
      | with_reducible apply ite_keeps
      | with_reducible apply ite2_keeps
      | with_reducible apply iteR_keeps
      | with_reducible apply next_keeps
      | with_reducible apply each_keeps
      | with_reducible apply foldl_keeps'
      | with_reducible apply foldl2_keeps
      | with_reducible apply foldl3_keeps
      | with_reducible apply foldl4_keeps
      | with_reducible apply chain_keeps
      | with_reducible apply gather_keeps
      | with_reducible apply readThen_keeps
      | dsimp only
      | (refine Keeps.of_eq (by with_reducible assumption) ?_)
      | with_reducible apply upd_keeps

theorem freeWords_keeps {o s : State} (h : Keeps o s) (n : Nat) : Keeps o (freeWords n s).2 := by
  unfold freeWords
  iterate 25 all_goals try first
    | with_reducible assumption
    | split
    | with_reducible apply next_keeps
    | with_reducible apply upd_keeps

theorem trapStage_keeps {o s : State} (h : Keeps o s) (stage : Nat) (prog : Nat) (op : Nat) : Keeps o (trapStage stage prog op s) := by
  unfold trapStage
  iterate 25 all_goals try first
    | with_reducible assumption
    | with_reducible exact Keeps.refl _
    | with_reducible apply abortStream_keeps
    | with_reducible apply State.modStage_keeps
    | with_reducible apply record_keeps
    | intro _
    | split
    | with_reducible apply ite_keeps
    | with_reducible apply ite2_keeps
    | with_reducible apply iteR_keeps
    | with_reducible apply next_keeps
    | with_reducible apply each_keeps
    | with_reducible apply foldl_keeps'
    | with_reducible apply foldl2_keeps
    | with_reducible apply foldl3_keeps
    | with_reducible apply foldl4_keeps
    | with_reducible apply chain_keeps
    | with_reducible apply gather_keeps
    | with_reducible apply readThen_keeps
    | dsimp only
    | (refine Keeps.of_eq (by with_reducible assumption) ?_)
    | with_reducible apply upd_keeps

theorem failGranule_keeps {o s : State} (h : Keeps o s) (x : Sel) (tier : Nat) (granule : Nat) (stream : Nat) (noStream : Bool) (seq : Nat) : Keeps o (failGranule x tier granule stream noStream seq s) := by
  unfold failGranule
  iterate 25 all_goals try first
    | with_reducible assumption
    | with_reducible exact Keeps.refl _
    | with_reducible apply abortStream_keeps
    | with_reducible apply tagConsumerFail_keeps
    | intro _
    | split
    | with_reducible apply ite_keeps
    | with_reducible apply ite2_keeps
    | with_reducible apply iteR_keeps
    | with_reducible apply next_keeps
    | with_reducible apply each_keeps
    | with_reducible apply foldl_keeps'
    | with_reducible apply foldl2_keeps
    | with_reducible apply foldl3_keeps
    | with_reducible apply foldl4_keeps
    | with_reducible apply chain_keeps
    | with_reducible apply gather_keeps
    | with_reducible apply readThen_keeps
    | dsimp only
    | (refine Keeps.of_eq (by with_reducible assumption) ?_)
    | with_reducible apply upd_keeps

theorem takeGranule_keeps {o s : State} (h : Keeps o s) (x : Sel) (op : Nat) (cls : Nat) (y : Nat × Nat × Nat × Bool × Nat) : Keeps o (takeGranule x op cls y s).2 := by
  unfold takeGranule
  iterate 25 all_goals try first
    | with_reducible assumption
    | with_reducible exact Keeps.refl _
    | with_reducible apply trapStage_keeps
    | with_reducible apply failGranule_keeps
    | with_reducible apply readGranule_keeps
    | intro _
    | split
    | with_reducible apply ite_keeps
    | with_reducible apply ite2_keeps
    | with_reducible apply iteR_keeps
    | with_reducible apply next_keeps
    | with_reducible apply each_keeps
    | with_reducible apply foldl_keeps'
    | with_reducible apply foldl2_keeps
    | with_reducible apply foldl3_keeps
    | with_reducible apply foldl4_keeps
    | with_reducible apply chain_keeps
    | with_reducible apply gather_keeps
    | with_reducible apply readThen_keeps
    | dsimp only
    | (refine Keeps.of_eq (by with_reducible assumption) ?_)
    | with_reducible apply upd_keeps

theorem readLanes_keeps {o s : State} (h : Keeps o s) (cls : Nat) (stream : Nat) (g : StageEnt) (slot : Nat) (unit : Nat) (word : Nat) : Keeps o (readLanes cls stream g slot unit word s).2 := by
  unfold readLanes
  iterate 25 all_goals try first
    | with_reducible assumption
    | with_reducible exact Keeps.refl _
    | with_reducible apply readPair_keeps
    | intro _
    | split
    | with_reducible apply ite_keeps
    | with_reducible apply ite2_keeps
    | with_reducible apply iteR_keeps
    | with_reducible apply next_keeps
    | with_reducible apply each_keeps
    | with_reducible apply foldl_keeps'
    | with_reducible apply foldl2_keeps
    | with_reducible apply foldl3_keeps
    | with_reducible apply foldl4_keeps
    | with_reducible apply chain_keeps
    | with_reducible apply gather_keeps
    | with_reducible apply readThen_keeps
    | dsimp only
    | (refine Keeps.of_eq (by with_reducible assumption) ?_)
    | with_reducible apply upd_keeps

theorem takeWindow_keeps {o s : State} (h : Keeps o s) (x : Sel) (op : Nat) (a2 : TensorEnt) (a3 : Nat) : Keeps o (takeWindow x op a2 a3 s).2 := by
  induction a3 generalizing s x op a2 with
  | zero =>
    unfold takeWindow
    iterate 25 all_goals try first
      | with_reducible assumption
      | with_reducible exact Keeps.refl _
      | with_reducible apply takeGranule_keeps
      | with_reducible apply releaseBuffer_keeps
      | with_reducible apply modStep_keeps
      | with_reducible apply gather_keeps
      | exact takeFull_keeps (by first | with_reducible assumption | with_reducible exact Keeps.refl _) (hr := by with_reducible assumption)
      | with_reducible apply waitFor_keeps
      | intro _
      | split
      | with_reducible apply ite_keeps
      | with_reducible apply ite2_keeps
      | with_reducible apply iteR_keeps
      | with_reducible apply next_keeps
      | with_reducible apply each_keeps
      | with_reducible apply foldl_keeps'
      | with_reducible apply foldl2_keeps
      | with_reducible apply foldl3_keeps
      | with_reducible apply foldl4_keeps
      | with_reducible apply chain_keeps
      | with_reducible apply gather_keeps
      | with_reducible apply readThen_keeps
      | dsimp only
      | (refine Keeps.of_eq (by with_reducible assumption) ?_)
      | with_reducible apply upd_keeps
  | succ n ih =>
    unfold takeWindow
    iterate 25 all_goals try first
      | with_reducible assumption
      | with_reducible exact Keeps.refl _
      | with_reducible apply ih
      | with_reducible apply takeGranule_keeps
      | with_reducible apply releaseBuffer_keeps
      | with_reducible apply modStep_keeps
      | with_reducible apply gather_keeps
      | exact takeFull_keeps (by first | with_reducible assumption | with_reducible exact Keeps.refl _) (hr := by with_reducible assumption)
      | with_reducible apply waitFor_keeps
      | intro _
      | split
      | with_reducible apply ite_keeps
      | with_reducible apply ite2_keeps
      | with_reducible apply iteR_keeps
      | with_reducible apply next_keeps
      | with_reducible apply each_keeps
      | with_reducible apply foldl_keeps'
      | with_reducible apply foldl2_keeps
      | with_reducible apply foldl3_keeps
      | with_reducible apply foldl4_keeps
      | with_reducible apply chain_keeps
      | with_reducible apply gather_keeps
      | with_reducible apply readThen_keeps
      | dsimp only
      | (refine Keeps.of_eq (by with_reducible assumption) ?_)
      | with_reducible apply upd_keeps

theorem takeTensor_keeps {o s : State} (h : Keeps o s) (x : Sel) (op : Nat) (y : Nat × Bool) : Keeps o (takeTensor x op y s).2 := by
  unfold takeTensor
  iterate 25 all_goals try first
    | with_reducible assumption
    | with_reducible exact Keeps.refl _
    | with_reducible apply takeWindow_keeps
    | with_reducible apply takeGranule_keeps
    | with_reducible apply gather_keeps
    | intro _
    | split
    | with_reducible apply ite_keeps
    | with_reducible apply ite2_keeps
    | with_reducible apply iteR_keeps
    | with_reducible apply next_keeps
    | with_reducible apply each_keeps
    | with_reducible apply foldl_keeps'
    | with_reducible apply foldl2_keeps
    | with_reducible apply foldl3_keeps
    | with_reducible apply foldl4_keeps
    | with_reducible apply chain_keeps
    | with_reducible apply gather_keeps
    | with_reducible apply readThen_keeps
    | dsimp only
    | (refine Keeps.of_eq (by with_reducible assumption) ?_)
    | with_reducible apply upd_keeps

theorem fetchInit_keeps {o s : State} (h : Keeps o s) (x : Sel) (op : Nat) (unit : Nat) (word : Nat) : Keeps o (fetchInit x op unit word s).2 := by
  unfold fetchInit
  iterate 25 all_goals try first
    | with_reducible assumption
    | with_reducible exact Keeps.refl _
    | with_reducible apply takeTensor_keeps
    | intro _
    | split
    | with_reducible apply ite_keeps
    | with_reducible apply ite2_keeps
    | with_reducible apply iteR_keeps
    | with_reducible apply next_keeps
    | with_reducible apply each_keeps
    | with_reducible apply foldl_keeps'
    | with_reducible apply foldl2_keeps
    | with_reducible apply foldl3_keeps
    | with_reducible apply foldl4_keeps
    | with_reducible apply chain_keeps
    | with_reducible apply gather_keeps
    | with_reducible apply readThen_keeps
    | dsimp only
    | (refine Keeps.of_eq (by with_reducible assumption) ?_)
    | with_reducible apply upd_keeps

end Sys2Proof.Machine
end

