-- ==== Sys2Proof/Laws/KeepsTransport.lean ====
section
/-! SUPPORT. A command leaves the queue as it waits and memory in canonical form: transactions, timing, images. -/

namespace Sys2Proof.Machine

theorem takeWord_keeps {o s : State} (h : Keeps o s) (x : Sel) (op : Nat) (slot : Nat) (row : Row) (env : RowEnv) (unit : Nat) (word : Nat) : Keeps o (takeWord x op slot row env unit word s).2 := by
  unfold takeWord
  iterate 25 all_goals try first
    | with_reducible assumption
    | with_reducible exact Keeps.refl _
    | with_reducible apply fetchInit_keeps
    | with_reducible apply readLanes_keeps
    | intro _
    | split
    | with_reducible apply ite_keeps
    | with_reducible apply ite2_keeps
    | with_reducible apply iteR_keeps
    | with_reducible apply next_keeps
    | with_reducible apply each_keeps
    | with_reducible apply foldl_keeps'
    | with_reducible apply foldl2_keeps
    | with_reducible apply foldl3_keeps
    | with_reducible apply foldl4_keeps
    | with_reducible apply chain_keeps
    | with_reducible apply gather_keeps
    | with_reducible apply readThen_keeps
    | dsimp only
    | (refine Keeps.of_eq (by with_reducible assumption) ?_)
    | with_reducible apply upd_keeps

theorem writeLanes_keeps {o s : State} (h : Keeps o s) (g : StageEnt) (slot : Nat) (unit : Nat) (word : Nat) (vs : List W32) : Keeps o (writeLanes g slot unit word vs s) := by
  unfold writeLanes
  iterate 25 all_goals try first
    | with_reducible assumption
    | with_reducible exact Keeps.refl _
    | with_reducible apply writeMem_keeps
    | intro _
    | split
    | with_reducible apply ite_keeps
    | with_reducible apply ite2_keeps
    | with_reducible apply iteR_keeps
    | with_reducible apply next_keeps
    | with_reducible apply each_keeps
    | with_reducible apply foldl_keeps'
    | with_reducible apply foldl2_keeps
    | with_reducible apply foldl3_keeps
    | with_reducible apply foldl4_keeps
    | with_reducible apply chain_keeps
    | with_reducible apply gather_keeps
    | with_reducible apply readThen_keeps
    | dsimp only
    | (refine Keeps.of_eq (by with_reducible assumption) ?_)
    | with_reducible apply upd_keeps

theorem parkSeat_keeps {o s : State} (h : Keeps o s) (g : StageEnt) (slot : Nat) : Keeps o (parkSeat g slot s) := by
  unfold parkSeat
  iterate 25 all_goals try first
    | with_reducible assumption
    | with_reducible exact Keeps.refl _
    | with_reducible apply abortStream_keeps
    | with_reducible apply readLanes_keeps
    | with_reducible apply haltChannel_keeps
    | intro _
    | split
    | with_reducible apply ite_keeps
    | with_reducible apply ite2_keeps
    | with_reducible apply iteR_keeps
    | with_reducible apply next_keeps
    | with_reducible apply each_keeps
    | with_reducible apply foldl_keeps'
    | with_reducible apply foldl2_keeps
    | with_reducible apply foldl3_keeps
    | with_reducible apply foldl4_keeps
    | with_reducible apply chain_keeps
    | with_reducible apply gather_keeps
    | with_reducible apply readThen_keeps
    | dsimp only
    | (refine Keeps.of_eq (by with_reducible assumption) ?_)
    | with_reducible apply upd_keeps

theorem seatRow_keeps {o s : State} (h : Keeps o s) (x : Sel) (slot : Nat) (id : Nat) : Keeps o (seatRow x slot id s).2 := by
  unfold seatRow
  iterate 25 all_goals try first
    | with_reducible assumption
    | with_reducible exact Keeps.refl _
    | with_reducible apply fetchInit_keeps
    | with_reducible apply gather_keeps
    | with_reducible apply parkSeat_keeps
    | with_reducible apply writeLanes_keeps
    | intro _
    | split
    | with_reducible apply ite_keeps
    | with_reducible apply ite2_keeps
    | with_reducible apply iteR_keeps
    | with_reducible apply next_keeps
    | with_reducible apply each_keeps
    | with_reducible apply foldl_keeps'
    | with_reducible apply foldl2_keeps
    | with_reducible apply foldl3_keeps
    | with_reducible apply foldl4_keeps
    | with_reducible apply chain_keeps
    | with_reducible apply gather_keeps
    | with_reducible apply readThen_keeps
    | dsimp only
    | (refine Keeps.of_eq (by with_reducible assumption) ?_)
    | with_reducible apply upd_keeps

theorem takeHistory_keeps {o s : State} (h : Keeps o s) (x : Sel) (op : Nat) (a2 : Rec) (id : Nat) : Keeps o (takeHistory x op a2 id s).2 := by
  unfold takeHistory
  iterate 25 all_goals try first
    | with_reducible assumption
    | with_reducible exact Keeps.refl _
    | with_reducible apply readPairs_keeps
    | with_reducible apply freeWords_keeps
    | intro _
    | split
    | with_reducible apply ite_keeps
    | with_reducible apply ite2_keeps
    | with_reducible apply iteR_keeps
    | with_reducible apply next_keeps
    | with_reducible apply each_keeps
    | with_reducible apply foldl_keeps'
    | with_reducible apply foldl2_keeps
    | with_reducible apply foldl3_keeps
    | with_reducible apply foldl4_keeps
    | with_reducible apply chain_keeps
    | with_reducible apply gather_keeps
    | with_reducible apply readThen_keeps
    | dsimp only
    | (refine Keeps.of_eq (by with_reducible assumption) ?_)
    | with_reducible apply upd_keeps

theorem holdTile_keeps {o s : State} (h : Keeps o s) (x : Sel) (e : LinkEnt) : Keeps o (holdTile x e s) := by
  unfold holdTile
  iterate 25 all_goals try first
    | with_reducible assumption
    | with_reducible apply modStep_keeps
    | exact takeFull_keeps (by first | with_reducible assumption | with_reducible exact Keeps.refl _) (hr := by with_reducible assumption)
    | with_reducible apply failGranule_keeps
    | split
    | with_reducible apply next_keeps
    | with_reducible apply upd_keeps

theorem takeBytes_keeps {o s : State} (h : Keeps o s) (x : Sel) (op : Nat) (cls : Nat) (a : Nat) (n : Nat) : Keeps o (takeBytes x op cls a n s).2 := by
  unfold takeBytes
  iterate 25 all_goals try first
    | with_reducible assumption
    | with_reducible exact Keeps.refl _
    | with_reducible apply readFixed_keeps
    | with_reducible apply trapStage_keeps
    | intro _
    | split
    | with_reducible apply ite_keeps
    | with_reducible apply ite2_keeps
    | with_reducible apply iteR_keeps
    | with_reducible apply next_keeps
    | with_reducible apply each_keeps
    | with_reducible apply foldl_keeps'
    | with_reducible apply foldl2_keeps
    | with_reducible apply foldl3_keeps
    | with_reducible apply foldl4_keeps
    | with_reducible apply chain_keeps
    | with_reducible apply gather_keeps
    | with_reducible apply readThen_keeps
    | dsimp only
    | (refine Keeps.of_eq (by with_reducible assumption) ?_)
    | with_reducible apply upd_keeps

theorem takeRam_keeps {o s : State} (h : Keeps o s) (x : Sel) (op : Nat) (slot : Nat) (row : Row) (unit : Nat) (word : Nat) (a6 : Nat) (a7 : RowEnv) : Keeps o (takeRam x op slot row unit word a6 a7 s).2 := by
  induction a6 generalizing s x op slot row unit word a7 with
  | zero =>
    unfold takeRam
    iterate 25 all_goals try first
      | with_reducible assumption
      | with_reducible exact Keeps.refl _
      | with_reducible apply takeWord_keeps
      | intro _
      | split
      | with_reducible apply ite_keeps
      | with_reducible apply ite2_keeps
      | with_reducible apply iteR_keeps
      | with_reducible apply next_keeps
      | with_reducible apply each_keeps
      | with_reducible apply foldl_keeps'
      | with_reducible apply foldl2_keeps
      | with_reducible apply foldl3_keeps
      | with_reducible apply foldl4_keeps
      | with_reducible apply chain_keeps
      | with_reducible apply gather_keeps
      | with_reducible apply readThen_keeps
      | dsimp only
      | (refine Keeps.of_eq (by with_reducible assumption) ?_)
      | with_reducible apply upd_keeps
  | succ n ih =>
    unfold takeRam
    iterate 25 all_goals try first
      | with_reducible assumption
      | with_reducible exact Keeps.refl _
      | with_reducible apply ih
      | with_reducible apply takeWord_keeps
      | intro _
      | split
      | with_reducible apply ite_keeps
      | with_reducible apply ite2_keeps
      | with_reducible apply iteR_keeps
      | with_reducible apply next_keeps
      | with_reducible apply each_keeps
      | with_reducible apply foldl_keeps'
      | with_reducible apply foldl2_keeps
      | with_reducible apply foldl3_keeps
      | with_reducible apply foldl4_keeps
      | with_reducible apply chain_keeps
      | with_reducible apply gather_keeps
      | with_reducible apply readThen_keeps
      | dsimp only
      | (refine Keeps.of_eq (by with_reducible assumption) ?_)
      | with_reducible apply upd_keeps

theorem takeTiles_keeps {o s : State} (h : Keeps o s) (x : Sel) (a1 : Rec) (xs : List OpInput) : Keeps o (takeTiles x a1 xs s).2 := by
  unfold takeTiles
  iterate 25 all_goals try first
    | with_reducible assumption
    | with_reducible exact Keeps.refl _
    | with_reducible apply holdTile_keeps
    | with_reducible apply waitFor_keeps
    | intro _
    | split
    | with_reducible apply ite_keeps
    | with_reducible apply ite2_keeps
    | with_reducible apply iteR_keeps
    | with_reducible apply next_keeps
    | with_reducible apply each_keeps
    | with_reducible apply foldl_keeps'
    | with_reducible apply foldl2_keeps
    | with_reducible apply foldl3_keeps
    | with_reducible apply foldl4_keeps
    | with_reducible apply chain_keeps
    | with_reducible apply gather_keeps
    | with_reducible apply readThen_keeps
    | dsimp only
    | (refine Keeps.of_eq (by with_reducible assumption) ?_)
    | with_reducible apply upd_keeps

theorem takeTileGranule_keeps {o s : State} (h : Keeps o s) (x : Sel) (op : Nat) (e : LinkEnt) (hs : List W32) (k : Nat) : Keeps o (takeTileGranule x op e hs k s).2 := by
  unfold takeTileGranule
  iterate 25 all_goals try first
    | with_reducible assumption
    | with_reducible exact Keeps.refl _
    | with_reducible apply takeGranule_keeps
    | intro _
    | split
    | with_reducible apply ite_keeps
    | with_reducible apply ite2_keeps
    | with_reducible apply iteR_keeps
    | with_reducible apply next_keeps
    | with_reducible apply each_keeps
    | with_reducible apply foldl_keeps'
    | with_reducible apply foldl2_keeps
    | with_reducible apply foldl3_keeps
    | with_reducible apply foldl4_keeps
    | with_reducible apply chain_keeps
    | with_reducible apply gather_keeps
    | with_reducible apply readThen_keeps
    | dsimp only
    | (refine Keeps.of_eq (by with_reducible assumption) ?_)
    | with_reducible apply upd_keeps

theorem takeScales_keeps {o s : State} (h : Keeps o s) (x : Sel) (op : Nat) (a2 : Operand) : Keeps o (takeScales x op a2 s).2 := by
  unfold takeScales
  iterate 25 all_goals try first
    | with_reducible assumption
    | with_reducible exact Keeps.refl _
    | with_reducible apply takeBytes_keeps
    | with_reducible apply freeWords_keeps
    | intro _
    | split
    | with_reducible apply ite_keeps
    | with_reducible apply ite2_keeps
    | with_reducible apply iteR_keeps
    | with_reducible apply next_keeps
    | with_reducible apply each_keeps
    | with_reducible apply foldl_keeps'
    | with_reducible apply foldl2_keeps
    | with_reducible apply foldl3_keeps
    | with_reducible apply foldl4_keeps
    | with_reducible apply chain_keeps
    | with_reducible apply gather_keeps
    | with_reducible apply readThen_keeps
    | dsimp only
    | (refine Keeps.of_eq (by with_reducible assumption) ?_)
    | with_reducible apply upd_keeps

theorem takeOperand_keeps {o s : State} (h : Keeps o s) (x : Sel) (op : Nat) (a2 : Rec) (reads : Option (Nat → Bool)) (y : LinkEnt × Operand) : Keeps o (takeOperand x op a2 reads y s).2 := by
  unfold takeOperand
  iterate 25 all_goals try first
    | with_reducible assumption
    | with_reducible exact Keeps.refl _
    | with_reducible apply gather_keeps
    | with_reducible apply takeTileGranule_keeps
    | with_reducible apply takeScales_keeps
    | intro _
    | split
    | with_reducible apply ite_keeps
    | with_reducible apply ite2_keeps
    | with_reducible apply iteR_keeps
    | with_reducible apply next_keeps
    | with_reducible apply each_keeps
    | with_reducible apply foldl_keeps'
    | with_reducible apply foldl2_keeps
    | with_reducible apply foldl3_keeps
    | with_reducible apply foldl4_keeps
    | with_reducible apply chain_keeps
    | with_reducible apply gather_keeps
    | with_reducible apply readThen_keeps
    | dsimp only
    | (refine Keeps.of_eq (by with_reducible assumption) ?_)
    | with_reducible apply upd_keeps

theorem takeTable_keeps {o s : State} (h : Keeps o s) (x : Sel) (op : Nat) (a2 : Rec) : Keeps o (takeTable x op a2 s).2 := by
  unfold takeTable
  iterate 25 all_goals try first
    | with_reducible assumption
    | with_reducible exact Keeps.refl _
    | with_reducible apply takeBytes_keeps
    | with_reducible apply freeWords_keeps
    | intro _
    | split
    | with_reducible apply ite_keeps
    | with_reducible apply ite2_keeps
    | with_reducible apply iteR_keeps
    | with_reducible apply next_keeps
    | with_reducible apply each_keeps
    | with_reducible apply foldl_keeps'
    | with_reducible apply foldl2_keeps
    | with_reducible apply foldl3_keeps
    | with_reducible apply foldl4_keeps
    | with_reducible apply chain_keeps
    | with_reducible apply gather_keeps
    | with_reducible apply readThen_keeps
    | dsimp only
    | (refine Keeps.of_eq (by with_reducible assumption) ?_)
    | with_reducible apply upd_keeps

theorem takeEntryBytes_keeps {o s : State} (h : Keeps o s) (x : Sel) (op : Nat) (k : KvRef) (id : Nat) (n : Nat) (q : Nat) : Keeps o (takeEntryBytes x op k id n q s).2 := by
  unfold takeEntryBytes
  iterate 25 all_goals try first
    | with_reducible assumption
    | with_reducible exact Keeps.refl _
    | with_reducible apply takeGranule_keeps
    | with_reducible apply gather_keeps
    | intro _
    | split
    | with_reducible apply ite_keeps
    | with_reducible apply ite2_keeps
    | with_reducible apply iteR_keeps
    | with_reducible apply next_keeps
    | with_reducible apply each_keeps
    | with_reducible apply foldl_keeps'
    | with_reducible apply foldl2_keeps
    | with_reducible apply foldl3_keeps
    | with_reducible apply foldl4_keeps
    | with_reducible apply chain_keeps
    | with_reducible apply gather_keeps
    | with_reducible apply readThen_keeps
    | dsimp only
    | (refine Keeps.of_eq (by with_reducible assumption) ?_)
    | with_reducible apply upd_keeps

theorem takeKv_keeps {o s : State} (h : Keeps o s) (x : Sel) (op : Nat) (k : KvRef) (row : Row) (env : RowEnv) (positions : Nat) (n : Nat) : Keeps o (takeKv x op k row env positions n s).2 := by
  unfold takeKv
  iterate 25 all_goals try first
    | with_reducible assumption
    | with_reducible exact Keeps.refl _
    | with_reducible apply takeEntryBytes_keeps
    | with_reducible apply gather_keeps
    | intro _
    | split
    | with_reducible apply ite_keeps
    | with_reducible apply ite2_keeps
    | with_reducible apply iteR_keeps
    | with_reducible apply next_keeps
    | with_reducible apply each_keeps
    | with_reducible apply foldl_keeps'
    | with_reducible apply foldl2_keeps
    | with_reducible apply foldl3_keeps
    | with_reducible apply foldl4_keeps
    | with_reducible apply chain_keeps
    | with_reducible apply gather_keeps
    | with_reducible apply readThen_keeps
    | dsimp only
    | (refine Keeps.of_eq (by with_reducible assumption) ?_)
    | with_reducible apply upd_keeps

theorem takeScaleRec_keeps {o s : State} (h : Keeps o s) (x : Sel) (op : Nat) (id : Nat) : Keeps o (takeScaleRec x op id s).2 := by
  unfold takeScaleRec
  iterate 25 all_goals try first
    | with_reducible assumption
    | with_reducible exact Keeps.refl _
    | with_reducible apply takeBytes_keeps
    | with_reducible apply freeWords_keeps
    | intro _
    | split
    | with_reducible apply ite_keeps
    | with_reducible apply ite2_keeps
    | with_reducible apply iteR_keeps
    | with_reducible apply next_keeps
    | with_reducible apply each_keeps
    | with_reducible apply foldl_keeps'
    | with_reducible apply foldl2_keeps
    | with_reducible apply foldl3_keeps
    | with_reducible apply foldl4_keeps
    | with_reducible apply chain_keeps
    | with_reducible apply gather_keeps
    | with_reducible apply readThen_keeps
    | dsimp only
    | (refine Keeps.of_eq (by with_reducible assumption) ?_)
    | with_reducible apply upd_keeps

theorem Work.takeKv_keeps {o s : State} (h : Keeps o s) (c : Work) (x : Sel) (env : RowEnv) : Keeps o (Work.takeKv c x env s).2 := by
  unfold Work.takeKv
  iterate 25 all_goals try first
    | with_reducible assumption
    | with_reducible exact Keeps.refl _
    | with_reducible apply Machine.takeKv_keeps
    | intro _
    | split
    | with_reducible apply ite_keeps
    | with_reducible apply ite2_keeps
    | with_reducible apply iteR_keeps
    | with_reducible apply next_keeps
    | with_reducible apply each_keeps
    | with_reducible apply foldl_keeps'
    | with_reducible apply foldl2_keeps
    | with_reducible apply foldl3_keeps
    | with_reducible apply foldl4_keeps
    | with_reducible apply chain_keeps
    | with_reducible apply gather_keeps
    | with_reducible apply readThen_keeps
    | dsimp only
    | (refine Keeps.of_eq (by with_reducible assumption) ?_)
    | with_reducible apply upd_keeps

theorem Work.finish_keeps {o s : State} (h : Keeps o s) (c : Work) (x : Sel) (slot : Nat) (env : RowEnv) : Keeps o (Work.finish c x slot env s).2 := by
  unfold Work.finish
  iterate 25 all_goals try first
    | with_reducible assumption
    | with_reducible exact Keeps.refl _
    | with_reducible apply takeRam_keeps
    | intro _
    | split
    | with_reducible apply ite_keeps
    | with_reducible apply ite2_keeps
    | with_reducible apply iteR_keeps
    | with_reducible apply next_keeps
    | with_reducible apply each_keeps
    | with_reducible apply foldl_keeps'
    | with_reducible apply foldl2_keeps
    | with_reducible apply foldl3_keeps
    | with_reducible apply foldl4_keeps
    | with_reducible apply chain_keeps
    | with_reducible apply gather_keeps
    | with_reducible apply readThen_keeps
    | dsimp only
    | (refine Keeps.of_eq (by with_reducible assumption) ?_)
    | with_reducible apply upd_keeps

theorem takeRanges_keeps {o s : State} (h : Keeps o s) (x : Sel) (op : Nat) (slot : Nat) (row : Row) (unit : Nat) (a5 : List (Nat × Nat)) (a6 : RowEnv) : Keeps o (takeRanges x op slot row unit a5 a6 s).2 := by
  induction a5 generalizing s x op slot row unit a6 with
  | nil =>
    unfold takeRanges
    iterate 25 all_goals try first
      | with_reducible assumption
      | with_reducible exact Keeps.refl _
      | with_reducible apply takeRam_keeps
      | intro _
      | split
      | with_reducible apply ite_keeps
      | with_reducible apply ite2_keeps
      | with_reducible apply iteR_keeps
      | with_reducible apply next_keeps
      | with_reducible apply each_keeps
      | with_reducible apply foldl_keeps'
      | with_reducible apply foldl2_keeps
      | with_reducible apply foldl3_keeps
      | with_reducible apply foldl4_keeps
      | with_reducible apply chain_keeps
      | with_reducible apply gather_keeps
      | with_reducible apply readThen_keeps
      | dsimp only
      | (refine Keeps.of_eq (by with_reducible assumption) ?_)
      | with_reducible apply upd_keeps
  | cons a l ih =>
    unfold takeRanges
    iterate 25 all_goals try first
      | with_reducible assumption
      | with_reducible exact Keeps.refl _
      | with_reducible apply ih
      | with_reducible apply takeRam_keeps
      | intro _
      | split
      | with_reducible apply ite_keeps
      | with_reducible apply ite2_keeps
      | with_reducible apply iteR_keeps
      | with_reducible apply next_keeps
      | with_reducible apply each_keeps
      | with_reducible apply foldl_keeps'
      | with_reducible apply foldl2_keeps
      | with_reducible apply foldl3_keeps
      | with_reducible apply foldl4_keeps
      | with_reducible apply chain_keeps
      | with_reducible apply gather_keeps
      | with_reducible apply readThen_keeps
      | dsimp only
      | (refine Keeps.of_eq (by with_reducible assumption) ?_)
      | with_reducible apply upd_keeps

theorem takeOperands_keeps {o s : State} (h : Keeps o s) (x : Sel) (op : Nat) (a2 : Rec) (row : Row) (y : OpInput) : Keeps o (takeOperands x op a2 row y s).2 := by
  unfold takeOperands
  iterate 25 all_goals try first
    | with_reducible assumption
    | with_reducible exact Keeps.refl _
    | with_reducible apply gather_keeps
    | with_reducible apply takeOperand_keeps
    | intro _
    | split
    | with_reducible apply ite_keeps
    | with_reducible apply ite2_keeps
    | with_reducible apply iteR_keeps
    | with_reducible apply next_keeps
    | with_reducible apply each_keeps
    | with_reducible apply foldl_keeps'
    | with_reducible apply foldl2_keeps
    | with_reducible apply foldl3_keeps
    | with_reducible apply foldl4_keeps
    | with_reducible apply chain_keeps
    | with_reducible apply gather_keeps
    | with_reducible apply readThen_keeps
    | dsimp only
    | (refine Keeps.of_eq (by with_reducible assumption) ?_)
    | with_reducible apply upd_keeps

theorem runRow_keeps {o s : State} (h : Keeps o s) (x : Sel) (op : Nat) (a2 : Rec) (tens : List (Nat × List Byte)) (table : List W32) (rows : List RowInput) (y : Row × Nat × RowEnv) : Keeps o (runRow x op a2 tens table rows y s).2 := by
  unfold runRow
  iterate 25 all_goals try first
    | with_reducible assumption
    | with_reducible exact Keeps.refl _
    | with_reducible apply takeHistory_keeps
    | with_reducible apply Work.finish_keeps
    | with_reducible apply takeScaleRec_keeps
    | with_reducible apply takeRanges_keeps
    | with_reducible apply Work.takeKv_keeps
    | with_reducible apply takeOperands_keeps
    | intro _
    | split
    | with_reducible apply ite_keeps
    | with_reducible apply ite2_keeps
    | with_reducible apply iteR_keeps
    | with_reducible apply next_keeps
    | with_reducible apply each_keeps
    | with_reducible apply foldl_keeps'
    | with_reducible apply foldl2_keeps
    | with_reducible apply foldl3_keeps
    | with_reducible apply foldl4_keeps
    | with_reducible apply chain_keeps
    | with_reducible apply gather_keeps
    | with_reducible apply readThen_keeps
    | dsimp only
    | (refine Keeps.of_eq (by with_reducible assumption) ?_)
    | with_reducible apply upd_keeps

theorem commitKv_keeps {o s : State} (h : Keeps o s) (p : PlanEnt) (row : Row) (env : RowEnv) : Keeps o (commitKv p row env s) := by
  unfold commitKv
  iterate 25 all_goals try first
    | with_reducible assumption
    | with_reducible exact Keeps.refl _
    | with_reducible apply makeTag_keeps
    | with_reducible apply writeMem_keeps
    | intro _
    | split
    | with_reducible apply ite_keeps
    | with_reducible apply ite2_keeps
    | with_reducible apply iteR_keeps
    | with_reducible apply next_keeps
    | with_reducible apply each_keeps
    | with_reducible apply foldl_keeps'
    | with_reducible apply foldl2_keeps
    | with_reducible apply foldl3_keeps
    | with_reducible apply foldl4_keeps
    | with_reducible apply chain_keeps
    | with_reducible apply gather_keeps
    | with_reducible apply readThen_keeps
    | dsimp only
    | (refine Keeps.of_eq (by with_reducible assumption) ?_)
    | with_reducible apply upd_keeps

theorem execWatchdogAbort_keeps {o s : State} (h : Keeps o s) (die : Nat) (steps : List (Nat × Nat)) (waited : Nat) : KeepsR o (execWatchdogAbort die steps waited s) := by
  unfold execWatchdogAbort
  iterate 25 all_goals try first
    | with_reducible assumption
    | with_reducible exact Keeps.refl _
    | with_reducible apply abortStream_keeps
    | with_reducible apply done_keeps
    | with_reducible apply State.modSched_keeps
    | with_reducible apply record_keeps
    | with_reducible apply dropSteps_keeps
    | intro _
    | split
    | with_reducible apply ite_keeps
    | with_reducible apply ite2_keeps
    | with_reducible apply iteR_keeps
    | with_reducible apply next_keeps
    | with_reducible apply each_keeps
    | with_reducible apply foldl_keeps'
    | with_reducible apply foldl2_keeps
    | with_reducible apply foldl3_keeps
    | with_reducible apply foldl4_keeps
    | with_reducible apply chain_keeps
    | with_reducible apply gather_keeps
    | with_reducible apply readThen_keeps
    | dsimp only
    | (refine Keeps.of_eq (by with_reducible assumption) ?_)
    | with_reducible apply upd_keeps

theorem markRow_keeps {o s : State} (h : Keeps o s) (x : Sel) (i : RowInput) : Keeps o (markRow x i s) := by
  unfold markRow
  iterate 25 all_goals try first
    | with_reducible assumption
    | with_reducible apply State.modStage_keeps
    | split
    | with_reducible apply next_keeps
    | with_reducible apply upd_keeps

theorem settleStage_keeps {o s : State} (h : Keeps o s) (a0 : Step) : Keeps o (settleStage a0 s) := by
  unfold settleStage
  iterate 25 all_goals try first
    | with_reducible assumption
    | with_reducible exact Keeps.refl _
    | with_reducible apply releaseIfSingle_keeps
    | with_reducible apply sweepHalted_keeps
    | intro _
    | split
    | with_reducible apply ite_keeps
    | with_reducible apply ite2_keeps
    | with_reducible apply iteR_keeps
    | with_reducible apply next_keeps
    | with_reducible apply each_keeps
    | with_reducible apply foldl_keeps'
    | with_reducible apply foldl2_keeps
    | with_reducible apply foldl3_keeps
    | with_reducible apply foldl4_keeps
    | with_reducible apply chain_keeps
    | with_reducible apply gather_keeps
    | with_reducible apply readThen_keeps
    | dsimp only
    | (refine Keeps.of_eq (by with_reducible assumption) ?_)
    | with_reducible apply upd_keeps

theorem writeLink_keeps {o s : State} (h : Keeps o s) (e : LinkEnt) (y : Bool × Bool × List Byte) {r : State} (hr : writeLink e y s = some r) : Keeps o r := by
  unfold writeLink at hr
  split at hr
  · split at hr
    · cases hr
      exact produceTile_keeps h ..
    · contradiction
  · obtain ⟨a, ha, rfl⟩ := Option.map_eq_some_iff.mp hr
    exact fillBuffer_keeps (writeTagged_keeps (takeBuffer_keeps h _ ha) ..) ..

theorem writeTiles_keeps {o s : State} (h : Keeps o s) (a0 : List (Nat × Bool × Bool × List Byte)) : Keeps o (writeTiles a0 s).2 := by
  induction a0 generalizing s  with
  | nil =>
    unfold writeTiles
    iterate 25 all_goals try first
      | with_reducible assumption
      | with_reducible exact Keeps.refl _
      | exact writeLink_keeps (by first | with_reducible assumption | with_reducible exact Keeps.refl _) (hr := by with_reducible assumption)
      | intro _
      | split
      | with_reducible apply ite_keeps
      | with_reducible apply ite2_keeps
      | with_reducible apply iteR_keeps
      | with_reducible apply next_keeps
      | with_reducible apply each_keeps
      | with_reducible apply foldl_keeps'
      | with_reducible apply foldl2_keeps
      | with_reducible apply foldl3_keeps
      | with_reducible apply foldl4_keeps
      | with_reducible apply chain_keeps
      | with_reducible apply gather_keeps
      | with_reducible apply readThen_keeps
      | dsimp only
      | (refine Keeps.of_eq (by with_reducible assumption) ?_)
      | with_reducible apply upd_keeps
  | cons a l ih =>
    unfold writeTiles
    iterate 25 all_goals try first
      | with_reducible assumption
      | with_reducible exact Keeps.refl _
      | with_reducible apply ih
      | exact writeLink_keeps (by first | with_reducible assumption | with_reducible exact Keeps.refl _) (hr := by with_reducible assumption)
      | intro _
      | split
      | with_reducible apply ite_keeps
      | with_reducible apply ite2_keeps
      | with_reducible apply iteR_keeps
      | with_reducible apply next_keeps
      | with_reducible apply each_keeps
      | with_reducible apply foldl_keeps'
      | with_reducible apply foldl2_keeps
      | with_reducible apply foldl3_keeps
      | with_reducible apply foldl4_keeps
      | with_reducible apply chain_keeps
      | with_reducible apply gather_keeps
      | with_reducible apply readThen_keeps
      | dsimp only
      | (refine Keeps.of_eq (by with_reducible assumption) ?_)
      | with_reducible apply upd_keeps

theorem commitRam_keeps {o s : State} (h : Keeps o s) (x : Sel) (slot : Nat) (env : RowEnv) : Keeps o (commitRam x slot env s) := by
  unfold commitRam
  iterate 25 all_goals try first
    | with_reducible assumption
    | with_reducible exact Keeps.refl _
    | with_reducible apply writeLanes_keeps
    | intro _
    | split
    | with_reducible apply ite_keeps
    | with_reducible apply ite2_keeps
    | with_reducible apply iteR_keeps
    | with_reducible apply next_keeps
    | with_reducible apply each_keeps
    | with_reducible apply foldl_keeps'
    | with_reducible apply foldl2_keeps
    | with_reducible apply foldl3_keeps
    | with_reducible apply foldl4_keeps
    | with_reducible apply chain_keeps
    | with_reducible apply gather_keeps
    | with_reducible apply readThen_keeps
    | dsimp only
    | (refine Keeps.of_eq (by with_reducible assumption) ?_)
    | with_reducible apply upd_keeps

theorem checkStop_keeps {o s : State} (h : Keeps o s) (a0 : Step) (p : PlanEnt) (x : OpResult) : Keeps o (checkStop a0 p s x) := by
  unfold checkStop
  iterate 25 all_goals try first
    | with_reducible assumption
    | with_reducible apply State.modStream_keeps
    | split
    | with_reducible apply next_keeps
    | with_reducible apply upd_keeps

theorem commitResult_keeps {o s : State} (h : Keeps o s) (x : Sel) (y : OpResult) : Keeps o (commitResult x s y) := by
  unfold commitResult
  iterate 25 all_goals try first
    | with_reducible assumption
    | with_reducible apply writeMem_keeps
    | with_reducible apply writeHistory_keeps
    | split
    | with_reducible apply next_keeps
    | with_reducible apply upd_keeps

theorem writeSamples_keeps {o s : State} (h : Keeps o s) (id : Nat) (round : Nat) (last : Bool) (p : PlanEnt) (ws : List W32) : Keeps o (writeSamples id round last p ws s) := by
  unfold writeSamples
  iterate 25 all_goals try first
    | with_reducible assumption
    | with_reducible apply writeSlot_keeps
    | with_reducible apply State.modStream_keeps
    | split
    | with_reducible apply next_keeps
    | with_reducible apply upd_keeps

theorem commitSamples_keeps {o s : State} (h : Keeps o s) (x : Sel) (a1 : Step) (p : PlanEnt) (y : OpResult) : Keeps o (commitSamples x a1 p s y) := by
  unfold commitSamples
  iterate 25 all_goals try first
    | with_reducible assumption
    | with_reducible apply writeSamples_keeps
    | split
    | with_reducible apply next_keeps
    | with_reducible apply upd_keeps

theorem consumeRecords_keeps {o s : State} (h : Keeps o s) (id : Nat) (a1 : Nat) (a2 : Nat) : Keeps o (consumeRecords id a1 a2 s) := by
  induction a1 generalizing s id a2 with
  | zero =>
    unfold consumeRecords
    iterate 25 all_goals try first
      | with_reducible assumption
      | with_reducible exact Keeps.refl _
      | with_reducible apply settleHead_keeps
      | with_reducible apply consumeHead_keeps
      | with_reducible apply State.modStream_keeps
      | intro _
      | split
      | with_reducible apply ite_keeps
      | with_reducible apply ite2_keeps
      | with_reducible apply iteR_keeps
      | with_reducible apply next_keeps
      | with_reducible apply each_keeps
      | with_reducible apply foldl_keeps'
      | with_reducible apply foldl2_keeps
      | with_reducible apply foldl3_keeps
      | with_reducible apply foldl4_keeps
      | with_reducible apply chain_keeps
      | with_reducible apply gather_keeps
      | with_reducible apply readThen_keeps
      | dsimp only
      | (refine Keeps.of_eq (by with_reducible assumption) ?_)
      | with_reducible apply upd_keeps
  | succ n ih =>
    unfold consumeRecords
    iterate 25 all_goals try first
      | with_reducible assumption
      | with_reducible exact Keeps.refl _
      | with_reducible apply ih
      | with_reducible apply settleHead_keeps
      | with_reducible apply consumeHead_keeps
      | with_reducible apply State.modStream_keeps
      | intro _
      | split
      | with_reducible apply ite_keeps
      | with_reducible apply ite2_keeps
      | with_reducible apply iteR_keeps
      | with_reducible apply next_keeps
      | with_reducible apply each_keeps
      | with_reducible apply foldl_keeps'
      | with_reducible apply foldl2_keeps
      | with_reducible apply foldl3_keeps
      | with_reducible apply foldl4_keeps
      | with_reducible apply chain_keeps
      | with_reducible apply gather_keeps
      | with_reducible apply readThen_keeps
      | dsimp only
      | (refine Keeps.of_eq (by with_reducible assumption) ?_)
      | with_reducible apply upd_keeps

theorem finishStep_keeps {o s : State} (h : Keeps o s) (x : Sel) (a1 : Step) (p : PlanEnt) (consumed : List (Nat × Nat)) : Keeps o (finishStep x a1 p consumed s) := by
  unfold finishStep
  iterate 25 all_goals try first
    | with_reducible assumption
    | with_reducible exact Keeps.refl _
    | with_reducible apply commitRam_keeps
    | with_reducible apply checkStop_keeps
    | with_reducible apply State.modStage_keeps
    | with_reducible apply commitKv_keeps
    | with_reducible apply releaseBuffer_keeps
    | with_reducible apply settleStage_keeps
    | with_reducible apply commitResult_keeps
    | with_reducible apply progress_keeps
    | with_reducible apply wakeStage_keeps
    | with_reducible apply sendUnpaced_keeps
    | with_reducible apply commitSamples_keeps
    | with_reducible apply consumeRecords_keeps
    | intro _
    | split
    | with_reducible apply ite_keeps
    | with_reducible apply ite2_keeps
    | with_reducible apply iteR_keeps
    | with_reducible apply next_keeps
    | with_reducible apply each_keeps
    | with_reducible apply foldl_keeps'
    | with_reducible apply foldl2_keeps
    | with_reducible apply foldl3_keeps
    | with_reducible apply foldl4_keeps
    | with_reducible apply chain_keeps
    | with_reducible apply gather_keeps
    | with_reducible apply readThen_keeps
    | dsimp only
    | (refine Keeps.of_eq (by with_reducible assumption) ?_)
    | with_reducible apply upd_keeps

theorem execStepComplete_keeps {o s : State} (h : Keeps o s) (stage : Nat) (cc : Nat) (consumed : List (Nat × Nat)) : KeepsR o (execStepComplete stage cc consumed s) := by
  unfold execStepComplete
  iterate 25 all_goals try first
    | with_reducible assumption
    | with_reducible exact Keeps.refl _
    | with_reducible apply done_keeps
    | with_reducible apply State.modStage_keeps
    | with_reducible apply writeTiles_keeps
    | with_reducible apply finishStep_keeps
    | with_reducible apply settleStage_keeps
    | with_reducible apply modStep_keeps
    | with_reducible apply waitFor_keeps
    | intro _
    | split
    | with_reducible apply ite_keeps
    | with_reducible apply ite2_keeps
    | with_reducible apply iteR_keeps
    | with_reducible apply next_keeps
    | with_reducible apply each_keeps
    | with_reducible apply foldl_keeps'
    | with_reducible apply foldl2_keeps
    | with_reducible apply foldl3_keeps
    | with_reducible apply foldl4_keeps
    | with_reducible apply chain_keeps
    | with_reducible apply gather_keeps
    | with_reducible apply readThen_keeps
    | dsimp only
    | (refine Keeps.of_eq (by with_reducible assumption) ?_)
    | with_reducible apply upd_keeps

theorem releaseTiles_keeps {o s : State} (h : Keeps o s) (x : Sel) (l : Nat) : Keeps o (releaseTiles x l s) := by
  unfold releaseTiles
  iterate 25 all_goals try first
    | with_reducible assumption
    | with_reducible exact Keeps.refl _
    | with_reducible apply releaseBuffer_keeps
    | with_reducible apply modStep_keeps
    | intro _
    | split
    | with_reducible apply ite_keeps
    | with_reducible apply ite2_keeps
    | with_reducible apply iteR_keeps
    | with_reducible apply next_keeps
    | with_reducible apply each_keeps
    | with_reducible apply foldl_keeps'
    | with_reducible apply foldl2_keeps
    | with_reducible apply foldl3_keeps
    | with_reducible apply foldl4_keeps
    | with_reducible apply chain_keeps
    | with_reducible apply gather_keeps
    | with_reducible apply readThen_keeps
    | dsimp only
    | (refine Keeps.of_eq (by with_reducible assumption) ?_)
    | with_reducible apply upd_keeps

theorem execStepStall_keeps {o s : State} (h : Keeps o s) (stage : Nat) (cc : Nat) (link : Nat) : KeepsR o (execStepStall stage cc link s) := by
  unfold execStepStall
  iterate 25 all_goals try first
    | with_reducible assumption
    | with_reducible apply done_keeps
    | with_reducible apply releaseTiles_keeps
    | with_reducible apply State.modStage_keeps
    | with_reducible apply settleStage_keeps
    | with_reducible apply wakeStage_keeps
    | with_reducible apply waitFor_keeps
    | split
    | with_reducible apply next_keeps
    | with_reducible apply upd_keeps

theorem startBlock_keeps {o s : State} (h : Keeps o s) (a0 : Rec) : Keeps o (startBlock a0 s) := by
  unfold startBlock
  iterate 25 all_goals try first
    | with_reducible assumption
    | with_reducible apply State.modChannel_keeps
    | split
    | with_reducible apply next_keeps
    | with_reducible apply upd_keeps

theorem growChunk_keeps {o s : State} (h : Keeps o s) (id : Nat) (slot : Nat) (n : Nat) (off : Nat) (rst : Bool) : Keeps o (growChunk id slot n off rst s) := by
  unfold growChunk
  iterate 25 all_goals try first
    | with_reducible assumption
    | with_reducible apply State.modStream_keeps
    | split
    | with_reducible apply next_keeps
    | with_reducible apply upd_keeps

theorem tallyEvents_keeps {o s : State} (h : Keeps o s) (slot : Nat) (stream : Nat) (seq : W32) (a3 : Tally) (q : QuantSlot) (a5 : QuantSlot) : Keeps o (tallyEvents slot stream seq a3 q a5 s) := by
  unfold tallyEvents
  iterate 25 all_goals try first
    | with_reducible assumption
    | with_reducible apply record_keeps
    | split
    | with_reducible apply next_keeps
    | with_reducible apply upd_keeps

theorem tallySlot_keeps {o s : State} (h : Keeps o s) (period : W32) (slot : Nat) (stream : Nat) (a3 : Tally) : Keeps o (tallySlot period slot stream a3 s) := by
  unfold tallySlot
  iterate 25 all_goals try first
    | with_reducible assumption
    | with_reducible apply State.modLiveSlot_keeps
    | with_reducible apply tallyEvents_keeps
    | split
    | with_reducible apply next_keeps
    | with_reducible apply upd_keeps

theorem runRecord_keeps {o s : State} (h : Keeps o s) (x : Sel) (rows : List RowInput) (a2 : Step) (a3 : Rec) : Keeps o (runRecord x rows a2 a3 s) := by
  unfold runRecord
  iterate 25 all_goals try first
    | with_reducible assumption
    | with_reducible exact Keeps.refl _
    | with_reducible apply takeTensor_keeps
    | with_reducible apply modStep_keeps
    | with_reducible apply gather_keeps
    | with_reducible apply takeTable_keeps
    | with_reducible apply runRow_keeps
    | with_reducible apply tallySlot_keeps
    | with_reducible apply takeTiles_keeps
    | with_reducible apply startBlock_keeps
    | intro _
    | split
    | with_reducible apply ite_keeps
    | with_reducible apply ite2_keeps
    | with_reducible apply iteR_keeps
    | with_reducible apply next_keeps
    | with_reducible apply each_keeps
    | with_reducible apply foldl_keeps'
    | with_reducible apply foldl2_keeps
    | with_reducible apply foldl3_keeps
    | with_reducible apply foldl4_keeps
    | with_reducible apply chain_keeps
    | with_reducible apply gather_keeps
    | with_reducible apply readThen_keeps
    | dsimp only
    | (refine Keeps.of_eq (by with_reducible assumption) ?_)
    | with_reducible apply upd_keeps

theorem runRecords_keeps {o s : State} (h : Keeps o s) (x : Sel) (rows : List RowInput) (upto : Nat) (a3 : Nat) : Keeps o (runRecords x rows upto a3 s) := by
  induction a3 generalizing s x rows upto with
  | zero =>
    unfold runRecords
    iterate 25 all_goals try first
      | with_reducible assumption
      | with_reducible exact Keeps.refl _
      | with_reducible apply runRecord_keeps
      | intro _
      | split
      | with_reducible apply ite_keeps
      | with_reducible apply ite2_keeps
      | with_reducible apply iteR_keeps
      | with_reducible apply next_keeps
      | with_reducible apply each_keeps
      | with_reducible apply foldl_keeps'
      | with_reducible apply foldl2_keeps
      | with_reducible apply foldl3_keeps
      | with_reducible apply foldl4_keeps
      | with_reducible apply chain_keeps
      | with_reducible apply gather_keeps
      | with_reducible apply readThen_keeps
      | dsimp only
      | (refine Keeps.of_eq (by with_reducible assumption) ?_)
      | with_reducible apply upd_keeps
  | succ n ih =>
    unfold runRecords
    iterate 25 all_goals try first
      | with_reducible assumption
      | with_reducible exact Keeps.refl _
      | with_reducible apply ih
      | with_reducible apply runRecord_keeps
      | intro _
      | split
      | with_reducible apply ite_keeps
      | with_reducible apply ite2_keeps
      | with_reducible apply iteR_keeps
      | with_reducible apply next_keeps
      | with_reducible apply each_keeps
      | with_reducible apply foldl_keeps'
      | with_reducible apply foldl2_keeps
      | with_reducible apply foldl3_keeps
      | with_reducible apply foldl4_keeps
      | with_reducible apply chain_keeps
      | with_reducible apply gather_keeps
      | with_reducible apply readThen_keeps
      | dsimp only
      | (refine Keeps.of_eq (by with_reducible assumption) ?_)
      | with_reducible apply upd_keeps

theorem loadAhead_keeps {o s : State} (h : Keeps o s) (x : Sel) (a1 : Rec) (op : Nat) (rows : List RowInput) (y : Row × Nat × RowEnv) : Keeps o (loadAhead x a1 op rows y s).2 := by
  unfold loadAhead
  iterate 25 all_goals try first
    | with_reducible assumption
    | with_reducible exact Keeps.refl _
    | with_reducible apply takeOperands_keeps
    | intro _
    | split
    | with_reducible apply ite_keeps
    | with_reducible apply ite2_keeps
    | with_reducible apply iteR_keeps
    | with_reducible apply next_keeps
    | with_reducible apply each_keeps
    | with_reducible apply foldl_keeps'
    | with_reducible apply foldl2_keeps
    | with_reducible apply foldl3_keeps
    | with_reducible apply foldl4_keeps
    | with_reducible apply chain_keeps
    | with_reducible apply gather_keeps
    | with_reducible apply readThen_keeps
    | dsimp only
    | (refine Keeps.of_eq (by with_reducible assumption) ?_)
    | with_reducible apply upd_keeps

theorem loadNext_keeps {o s : State} (h : Keeps o s) (x : Sel) (rows : List RowInput) (upto : Nat) : Keeps o (loadNext x rows upto s) := by
  unfold loadNext
  iterate 25 all_goals try first
    | with_reducible assumption
    | with_reducible exact Keeps.refl _
    | with_reducible apply loadAhead_keeps
    | with_reducible apply modStep_keeps
    | with_reducible apply gather_keeps
    | with_reducible apply takeTiles_keeps
    | intro _
    | split
    | with_reducible apply ite_keeps
    | with_reducible apply ite2_keeps
    | with_reducible apply iteR_keeps
    | with_reducible apply next_keeps
    | with_reducible apply each_keeps
    | with_reducible apply foldl_keeps'
    | with_reducible apply foldl2_keeps
    | with_reducible apply foldl3_keeps
    | with_reducible apply foldl4_keeps
    | with_reducible apply chain_keeps
    | with_reducible apply gather_keeps
    | with_reducible apply readThen_keeps
    | dsimp only
    | (refine Keeps.of_eq (by with_reducible assumption) ?_)
    | with_reducible apply upd_keeps

theorem fetchProgram_keeps {o s : State} (h : Keeps o s) (x : Sel) : Keeps o (fetchProgram x s).2 := by
  unfold fetchProgram
  iterate 25 all_goals try first
    | with_reducible assumption
    | with_reducible exact Keeps.refl _
    | with_reducible apply readFixed_keeps
    | with_reducible apply trapStage_keeps
    | intro _
    | split
    | with_reducible apply ite_keeps
    | with_reducible apply ite2_keeps
    | with_reducible apply iteR_keeps
    | with_reducible apply next_keeps
    | with_reducible apply each_keeps
    | with_reducible apply foldl_keeps'
    | with_reducible apply foldl2_keeps
    | with_reducible apply foldl3_keeps
    | with_reducible apply foldl4_keeps
    | with_reducible apply chain_keeps
    | with_reducible apply gather_keeps
    | with_reducible apply readThen_keeps
    | dsimp only
    | (refine Keeps.of_eq (by with_reducible assumption) ?_)
    | with_reducible apply upd_keeps

theorem queueWeights_keeps {o s : State} (h : Keeps o s) (x : Sel) : Keeps o (queueWeights x s) := by
  unfold queueWeights
  iterate 25 all_goals try first
    | with_reducible assumption
    | with_reducible apply State.modLink_keeps
    | with_reducible apply State.modChannel_keeps
    | with_reducible apply modStep_keeps
    | split
    | with_reducible apply next_keeps
    | with_reducible apply upd_keeps

theorem chunkRow_keeps {o s : State} (h : Keeps o s) (x : Sel) (i : RowInput) : Keeps o (chunkRow x i s) := by
  unfold chunkRow
  iterate 25 all_goals try first
    | with_reducible assumption
    | with_reducible apply growChunk_keeps
    | split
    | with_reducible apply next_keeps
    | with_reducible apply upd_keeps

theorem beginStep_keeps {o s : State} (h : Keeps o s) (x : Sel) (rows : List RowInput) : Keeps o (beginStep x rows s).2 := by
  unfold beginStep
  iterate 25 all_goals try first
    | with_reducible assumption
    | with_reducible exact Keeps.refl _
    | with_reducible apply queueWeights_keeps
    | with_reducible apply chunkRow_keeps
    | with_reducible apply markRow_keeps
    | with_reducible apply fetchProgram_keeps
    | intro _
    | split
    | with_reducible apply ite_keeps
    | with_reducible apply ite2_keeps
    | with_reducible apply iteR_keeps
    | with_reducible apply next_keeps
    | with_reducible apply each_keeps
    | with_reducible apply foldl_keeps'
    | with_reducible apply foldl2_keeps
    | with_reducible apply foldl3_keeps
    | with_reducible apply foldl4_keeps
    | with_reducible apply chain_keeps
    | with_reducible apply gather_keeps
    | with_reducible apply readThen_keeps
    | dsimp only
    | (refine Keeps.of_eq (by with_reducible assumption) ?_)
    | with_reducible apply upd_keeps

theorem execStepSelect_keeps {o s : State} (h : Keeps o s) (stage : Nat) (cc : Nat) (ups : List Upset) (seg : Segment) : KeepsR o (execStepSelect stage cc ups seg s) := by
  unfold execStepSelect
  iterate 25 all_goals try first
    | with_reducible assumption
    | with_reducible exact Keeps.refl _
    | with_reducible apply done_keeps
    | with_reducible apply beginStep_keeps
    | with_reducible apply runRecords_keeps
    | with_reducible apply State.modStage_keeps
    | with_reducible apply seatRow_keeps
    | with_reducible apply settleStage_keeps
    | with_reducible apply loadNext_keeps
    | with_reducible apply modStep_keeps
    | with_reducible apply gather_keeps
    | with_reducible apply applyUpsets_keeps
    | intro _
    | split
    | with_reducible apply ite_keeps
    | with_reducible apply ite2_keeps
    | with_reducible apply iteR_keeps
    | with_reducible apply next_keeps
    | with_reducible apply each_keeps
    | with_reducible apply foldl_keeps'
    | with_reducible apply foldl2_keeps
    | with_reducible apply foldl3_keeps
    | with_reducible apply foldl4_keeps
    | with_reducible apply chain_keeps
    | with_reducible apply gather_keeps
    | with_reducible apply readThen_keeps
    | dsimp only
    | (refine Keeps.of_eq (by with_reducible assumption) ?_)
    | with_reducible apply upd_keeps

theorem restoreRefused_keeps {o s : State} (h : Keeps o s) (id : Nat) (check : Nat) (v : W64) : Keeps o (restoreRefused id check v s) := by
  unfold restoreRefused
  iterate 25 all_goals try first
    | with_reducible assumption
    | with_reducible apply record_keeps
    | split
    | with_reducible apply next_keeps
    | with_reducible apply upd_keeps

theorem readCtxHeader_keeps {o s : State} (h : Keeps o s) (v : W64) : Keeps o (readCtxHeader v s).2 := by
  unfold readCtxHeader
  iterate 25 all_goals try first
    | with_reducible assumption
    | with_reducible apply readFixed_keeps
    | split
    | with_reducible apply next_keeps
    | with_reducible apply upd_keeps

theorem takeLoad_keeps {o s : State} (h : Keeps o s) (id : Nat) (p : PlanEnt) : Keeps o (takeLoad id p s) := by
  unfold takeLoad
  iterate 25 all_goals try first
    | with_reducible assumption
    | with_reducible apply State.setOnPlan_keeps
    | with_reducible apply State.modStream_keeps
    | split
    | with_reducible apply next_keeps
    | with_reducible apply upd_keeps

theorem queueFirmware_keeps {o s : State} (h : Keeps o s) (c : Nat) (role : Nat) (id : Nat) : Keeps o (queueFirmware c role id s) := by
  unfold queueFirmware
  iterate 25 all_goals try first
    | with_reducible assumption
    | with_reducible apply State.modChannel_keeps
    | split
    | with_reducible apply next_keeps
    | with_reducible apply upd_keeps

theorem State.modSpill_keeps {o s : State} (h : Keeps o s) (die : Nat) (f : Spill → Spill) : Keeps o (State.modSpill s die f) := by
  unfold State.modSpill
  iterate 25 all_goals try first
    | with_reducible assumption
    | split
    | with_reducible apply next_keeps
    | with_reducible apply upd_keeps

theorem askSpill_keeps {o s : State} (h : Keeps o s) (die : Nat) (id : Nat) : Keeps o (askSpill die id s) := by
  unfold askSpill
  iterate 25 all_goals try first
    | with_reducible assumption
    | with_reducible apply State.modSpill_keeps
    | split
    | with_reducible apply next_keeps
    | with_reducible apply upd_keeps

theorem beginMove_keeps {o s : State} (h : Keeps o s) (p : PlanEnt) (role : Nat) (id : Nat) : Keeps o (beginMove p role id s) := by
  unfold beginMove
  iterate 25 all_goals try first
    | with_reducible assumption
    | with_reducible apply queueFirmware_keeps
    | with_reducible apply askSpill_keeps
    | split
    | with_reducible apply next_keeps
    | with_reducible apply upd_keeps

theorem doResume_keeps {o s : State} (h : Keeps o s) (id : Nat) : Keeps o (doResume id s) := by
  unfold doResume
  iterate 25 all_goals try first
    | with_reducible assumption
    | with_reducible exact Keeps.refl _
    | with_reducible apply restoreRefused_keeps
    | with_reducible apply setResult_keeps
    | with_reducible apply readCtxHeader_keeps
    | with_reducible apply takeLoad_keeps
    | with_reducible apply beginMove_keeps
    | with_reducible apply moveVoice_keeps
    | with_reducible apply streamErr_keeps
    | with_reducible apply State.modStream_keeps
    | intro _
    | split
    | with_reducible apply ite_keeps
    | with_reducible apply ite2_keeps
    | with_reducible apply iteR_keeps
    | with_reducible apply next_keeps
    | with_reducible apply each_keeps
    | with_reducible apply foldl_keeps'
    | with_reducible apply foldl2_keeps
    | with_reducible apply foldl3_keeps
    | with_reducible apply foldl4_keeps
    | with_reducible apply chain_keeps
    | with_reducible apply gather_keeps
    | with_reducible apply readThen_keeps
    | dsimp only
    | (refine Keeps.of_eq (by with_reducible assumption) ?_)
    | with_reducible apply upd_keeps

theorem execResume_keeps {o s : State} (h : Keeps o s) (a0 : Nat) : KeepsR o (execResume a0 s) := by
  unfold execResume
  iterate 25 all_goals try first
    | with_reducible assumption
    | with_reducible exact Keeps.refl _
    | with_reducible apply doResume_keeps
    | with_reducible apply byReader_keeps
    | intro _
    | split
    | with_reducible apply ite_keeps
    | with_reducible apply ite2_keeps
    | with_reducible apply iteR_keeps
    | with_reducible apply next_keeps
    | with_reducible apply each_keeps
    | with_reducible apply foldl_keeps'
    | with_reducible apply foldl2_keeps
    | with_reducible apply foldl3_keeps
    | with_reducible apply foldl4_keeps
    | with_reducible apply chain_keeps
    | with_reducible apply gather_keeps
    | with_reducible apply readThen_keeps
    | dsimp only
    | (refine Keeps.of_eq (by with_reducible assumption) ?_)
    | with_reducible apply upd_keeps

theorem moveBytes_keeps {o s : State} (h : Keeps o s) (c : Nat) (id : Nat) (tier : Nat) (a : Nat) (n : Nat) : Keeps o (moveBytes c id tier a n s).2 := by
  unfold moveBytes
  iterate 25 all_goals try first
    | with_reducible assumption
    | with_reducible exact Keeps.refl _
    | with_reducible apply readFixed_keeps
    | with_reducible apply endHalted_keeps
    | intro _
    | split
    | with_reducible apply ite_keeps
    | with_reducible apply ite2_keeps
    | with_reducible apply iteR_keeps
    | with_reducible apply next_keeps
    | with_reducible apply each_keeps
    | with_reducible apply foldl_keeps'
    | with_reducible apply foldl2_keeps
    | with_reducible apply foldl3_keeps
    | with_reducible apply foldl4_keeps
    | with_reducible apply chain_keeps
    | with_reducible apply gather_keeps
    | with_reducible apply readThen_keeps
    | dsimp only
    | (refine Keeps.of_eq (by with_reducible assumption) ?_)
    | with_reducible apply upd_keeps

theorem moveInit_keeps {o s : State} (h : Keeps o s) (c : Nat) (id : Nat) (stage : Nat) (unit : Nat) (word : Nat) : Keeps o (moveInit c id stage unit word s).2 := by
  unfold moveInit
  iterate 25 all_goals try first
    | with_reducible assumption
    | with_reducible exact Keeps.refl _
    | with_reducible apply moveBytes_keeps
    | with_reducible apply gather_keeps
    | intro _
    | split
    | with_reducible apply ite_keeps
    | with_reducible apply ite2_keeps
    | with_reducible apply iteR_keeps
    | with_reducible apply next_keeps
    | with_reducible apply each_keeps
    | with_reducible apply foldl_keeps'
    | with_reducible apply foldl2_keeps
    | with_reducible apply foldl3_keeps
    | with_reducible apply foldl4_keeps
    | with_reducible apply chain_keeps
    | with_reducible apply gather_keeps
    | with_reducible apply readThen_keeps
    | dsimp only
    | (refine Keeps.of_eq (by with_reducible assumption) ?_)
    | with_reducible apply upd_keeps

theorem moveCell_keeps {o s : State} (h : Keeps o s) (c : Nat) (id : Nat) (x : ProgEnt × Rec × Nat) : Keeps o (moveCell c id x s).2 := by
  unfold moveCell
  iterate 25 all_goals try first
    | with_reducible assumption
    | with_reducible exact Keeps.refl _
    | with_reducible apply moveInit_keeps
    | with_reducible apply gather_keeps
    | intro _
    | split
    | with_reducible apply ite_keeps
    | with_reducible apply ite2_keeps
    | with_reducible apply iteR_keeps
    | with_reducible apply next_keeps
    | with_reducible apply each_keeps
    | with_reducible apply foldl_keeps'
    | with_reducible apply foldl2_keeps
    | with_reducible apply foldl3_keeps
    | with_reducible apply foldl4_keeps
    | with_reducible apply chain_keeps
    | with_reducible apply gather_keeps
    | with_reducible apply readThen_keeps
    | dsimp only
    | (refine Keeps.of_eq (by with_reducible assumption) ?_)
    | with_reducible apply upd_keeps

theorem pushEntries_keeps {o s : State} (h : Keeps o s) (id : Nat) (a1 : List (List Byte)) : Keeps o (pushEntries id a1 s) := by
  induction a1 generalizing s id with
  | nil =>
    unfold pushEntries
    iterate 25 all_goals try first
      | with_reducible assumption
      | with_reducible exact Keeps.refl _
      | with_reducible apply writeTagged_keeps
      | with_reducible apply State.modQueue_keeps
      | intro _
      | split
      | with_reducible apply ite_keeps
      | with_reducible apply ite2_keeps
      | with_reducible apply iteR_keeps
      | with_reducible apply next_keeps
      | with_reducible apply each_keeps
      | with_reducible apply foldl_keeps'
      | with_reducible apply foldl2_keeps
      | with_reducible apply foldl3_keeps
      | with_reducible apply foldl4_keeps
      | with_reducible apply chain_keeps
      | with_reducible apply gather_keeps
      | with_reducible apply readThen_keeps
      | dsimp only
      | (refine Keeps.of_eq (by with_reducible assumption) ?_)
      | with_reducible apply upd_keeps
  | cons a l ih =>
    unfold pushEntries
    iterate 25 all_goals try first
      | with_reducible assumption
      | with_reducible exact Keeps.refl _
      | with_reducible apply ih
      | with_reducible apply writeTagged_keeps
      | with_reducible apply State.modQueue_keeps
      | intro _
      | split
      | with_reducible apply ite_keeps
      | with_reducible apply ite2_keeps
      | with_reducible apply iteR_keeps
      | with_reducible apply next_keeps
      | with_reducible apply each_keeps
      | with_reducible apply foldl_keeps'
      | with_reducible apply foldl2_keeps
      | with_reducible apply foldl3_keeps
      | with_reducible apply foldl4_keeps
      | with_reducible apply chain_keeps
      | with_reducible apply gather_keeps
      | with_reducible apply readThen_keeps
      | dsimp only
      | (refine Keeps.of_eq (by with_reducible assumption) ?_)
      | with_reducible apply upd_keeps

theorem loadFed_keeps {o s : State} (h : Keeps o s) (id : Nat) (b : List Byte) (a3 : List (ProgEnt × Rec × Nat)) (a4 : Nat) : Keeps o (loadFed id b s a3 a4) := by
  induction a3 generalizing s id b a4 with
  | nil =>
    unfold loadFed
    iterate 25 all_goals try first
      | with_reducible assumption
      | with_reducible exact Keeps.refl _
      | intro _
      | split
      | with_reducible apply ite_keeps
      | with_reducible apply ite2_keeps
      | with_reducible apply iteR_keeps
      | with_reducible apply next_keeps
      | with_reducible apply each_keeps
      | with_reducible apply foldl_keeps'
      | with_reducible apply foldl2_keeps
      | with_reducible apply foldl3_keeps
      | with_reducible apply foldl4_keeps
      | with_reducible apply chain_keeps
      | with_reducible apply gather_keeps
      | with_reducible apply readThen_keeps
      | dsimp only
      | (refine Keeps.of_eq (by with_reducible assumption) ?_)
      | with_reducible apply upd_keeps
  | cons a l ih =>
    unfold loadFed
    iterate 25 all_goals try first
      | with_reducible assumption
      | with_reducible exact Keeps.refl _
      | with_reducible apply ih
      | intro _
      | split
      | with_reducible apply ite_keeps
      | with_reducible apply ite2_keeps
      | with_reducible apply iteR_keeps
      | with_reducible apply next_keeps
      | with_reducible apply each_keeps
      | with_reducible apply foldl_keeps'
      | with_reducible apply foldl2_keeps
      | with_reducible apply foldl3_keeps
      | with_reducible apply foldl4_keeps
      | with_reducible apply chain_keeps
      | with_reducible apply gather_keeps
      | with_reducible apply readThen_keeps
      | dsimp only
      | (refine Keeps.of_eq (by with_reducible assumption) ?_)
      | with_reducible apply upd_keeps

theorem doPark_keeps {o s : State} (h : Keeps o s) (id : Nat) : Keeps o (doPark id s) := by
  unfold doPark
  iterate 25 all_goals try first
    | with_reducible assumption
    | with_reducible apply beginMove_keeps
    | with_reducible apply streamErr_keeps
    | with_reducible apply State.modStream_keeps
    | split
    | with_reducible apply next_keeps
    | with_reducible apply upd_keeps

theorem moveFed_keeps {o s : State} (h : Keeps o s) (id : Nat) (x : ProgEnt × Rec × Nat) : Keeps o (moveFed id x s).2 := by
  unfold moveFed
  iterate 25 all_goals try first
    | with_reducible assumption
    | with_reducible apply freeWords_keeps
    | split
    | with_reducible apply next_keeps
    | with_reducible apply upd_keeps

theorem moveSection_keeps {o s : State} (h : Keeps o s) {f : ProgEnt × Rec × Nat → State → Got (List Byte)} (l : List (ProgEnt × Rec × Nat)) (hf : ∀ (a : ProgEnt × Rec × Nat) {s : State}, Keeps o s → Keeps o (f a s).2) : Keeps o (moveSection f l s).2 := by
  unfold moveSection
  exact chain_keeps (gather_keeps h hf) fun _ _ k => k

theorem restoreEntries_keeps {o s : State} (h : Keeps o s) (id : Nat) (old : List (List Byte)) : Keeps o (restoreEntries id old s) := by
  unfold restoreEntries
  iterate 25 all_goals try first
    | with_reducible assumption
    | with_reducible apply pushEntries_keeps
    | with_reducible apply State.modQueue_keeps
    | split
    | with_reducible apply next_keeps
    | with_reducible apply upd_keeps

theorem loadScales_keeps {o s : State} (h : Keeps o s) (id : Nat) (b : List Byte) (a3 : List (ProgEnt × Rec × Nat)) (a4 : Nat) : Keeps o (loadScales id b s a3 a4) := by
  induction a3 generalizing s id b a4 with
  | nil =>
    unfold loadScales
    iterate 25 all_goals try first
      | with_reducible assumption
      | with_reducible exact Keeps.refl _
      | with_reducible apply writeMem_keeps
      | intro _
      | split
      | with_reducible apply ite_keeps
      | with_reducible apply ite2_keeps
      | with_reducible apply iteR_keeps
      | with_reducible apply next_keeps
      | with_reducible apply each_keeps
      | with_reducible apply foldl_keeps'
      | with_reducible apply foldl2_keeps
      | with_reducible apply foldl3_keeps
      | with_reducible apply foldl4_keeps
      | with_reducible apply chain_keeps
      | with_reducible apply gather_keeps
      | with_reducible apply readThen_keeps
      | dsimp only
      | (refine Keeps.of_eq (by with_reducible assumption) ?_)
      | with_reducible apply upd_keeps
  | cons a l ih =>
    unfold loadScales
    iterate 25 all_goals try first
      | with_reducible assumption
      | with_reducible exact Keeps.refl _
      | with_reducible apply ih
      | with_reducible apply writeMem_keeps
      | intro _
      | split
      | with_reducible apply ite_keeps
      | with_reducible apply ite2_keeps
      | with_reducible apply iteR_keeps
      | with_reducible apply next_keeps
      | with_reducible apply each_keeps
      | with_reducible apply foldl_keeps'
      | with_reducible apply foldl2_keeps
      | with_reducible apply foldl3_keeps
      | with_reducible apply foldl4_keeps
      | with_reducible apply chain_keeps
      | with_reducible apply gather_keeps
      | with_reducible apply readThen_keeps
      | dsimp only
      | (refine Keeps.of_eq (by with_reducible assumption) ?_)
      | with_reducible apply upd_keeps

theorem loadHistory_keeps {o s : State} (h : Keeps o s) (id : Nat) (b : List Byte) (a3 : List (ProgEnt × Rec × Nat)) (a4 : Nat) : Keeps o (loadHistory id b s a3 a4) := by
  induction a3 generalizing s id b a4 with
  | nil =>
    unfold loadHistory
    iterate 25 all_goals try first
      | with_reducible assumption
      | with_reducible exact Keeps.refl _
      | with_reducible apply writeHistory_keeps
      | intro _
      | split
      | with_reducible apply ite_keeps
      | with_reducible apply ite2_keeps
      | with_reducible apply iteR_keeps
      | with_reducible apply next_keeps
      | with_reducible apply each_keeps
      | with_reducible apply foldl_keeps'
      | with_reducible apply foldl2_keeps
      | with_reducible apply foldl3_keeps
      | with_reducible apply foldl4_keeps
      | with_reducible apply chain_keeps
      | with_reducible apply gather_keeps
      | with_reducible apply readThen_keeps
      | dsimp only
      | (refine Keeps.of_eq (by with_reducible assumption) ?_)
      | with_reducible apply upd_keeps
  | cons a l ih =>
    unfold loadHistory
    iterate 25 all_goals try first
      | with_reducible assumption
      | with_reducible exact Keeps.refl _
      | with_reducible apply ih
      | with_reducible apply writeHistory_keeps
      | intro _
      | split
      | with_reducible apply ite_keeps
      | with_reducible apply ite2_keeps
      | with_reducible apply iteR_keeps
      | with_reducible apply next_keeps
      | with_reducible apply each_keeps
      | with_reducible apply foldl_keeps'
      | with_reducible apply foldl2_keeps
      | with_reducible apply foldl3_keeps
      | with_reducible apply foldl4_keeps
      | with_reducible apply chain_keeps
      | with_reducible apply gather_keeps
      | with_reducible apply readThen_keeps
      | dsimp only
      | (refine Keeps.of_eq (by with_reducible assumption) ?_)
      | with_reducible apply upd_keeps

theorem loadCells_keeps {o s : State} (h : Keeps o s) (m : Image) (id : Nat) (b : List Byte) (a4 : List (ProgEnt × Rec × Nat)) (a5 : Nat) : Keeps o (loadCells m id b s a4 a5) := by
  induction a4 generalizing s m id b a5 with
  | nil =>
    unfold loadCells
    iterate 25 all_goals try first
      | with_reducible assumption
      | with_reducible exact Keeps.refl _
      | intro _
      | split
      | with_reducible apply ite_keeps
      | with_reducible apply ite2_keeps
      | with_reducible apply iteR_keeps
      | with_reducible apply next_keeps
      | with_reducible apply each_keeps
      | with_reducible apply foldl_keeps'
      | with_reducible apply foldl2_keeps
      | with_reducible apply foldl3_keeps
      | with_reducible apply foldl4_keeps
      | with_reducible apply chain_keeps
      | with_reducible apply gather_keeps
      | with_reducible apply readThen_keeps
      | dsimp only
      | (refine Keeps.of_eq (by with_reducible assumption) ?_)
      | with_reducible apply upd_keeps
  | cons a l ih =>
    unfold loadCells
    iterate 25 all_goals try first
      | with_reducible assumption
      | with_reducible exact Keeps.refl _
      | with_reducible apply ih
      | intro _
      | split
      | with_reducible apply ite_keeps
      | with_reducible apply ite2_keeps
      | with_reducible apply iteR_keeps
      | with_reducible apply next_keeps
      | with_reducible apply each_keeps
      | with_reducible apply foldl_keeps'
      | with_reducible apply foldl2_keeps
      | with_reducible apply foldl3_keeps
      | with_reducible apply foldl4_keeps
      | with_reducible apply chain_keeps
      | with_reducible apply gather_keeps
      | with_reducible apply readThen_keeps
      | dsimp only
      | (refine Keeps.of_eq (by with_reducible assumption) ?_)
      | with_reducible apply upd_keeps

theorem loadContext_keeps {o s : State} (h : Keeps o s) (id : Nat) (p : PlanEnt) (a2 : List Byte) (b : List Byte) : Keeps o (loadContext id p a2 b s) := by
  unfold loadContext
  iterate 25 all_goals try first
    | with_reducible assumption
    | with_reducible apply loadScales_keeps
    | with_reducible apply restoreEntries_keeps
    | with_reducible apply loadHistory_keeps
    | with_reducible apply loadCells_keeps
    | with_reducible apply writeTagged_keeps
    | with_reducible apply State.modStream_keeps
    | with_reducible apply loadFed_keeps
    | with_reducible apply dropCarried_keeps
    | split
    | with_reducible apply next_keeps
    | with_reducible apply upd_keeps

theorem unseat_keeps {o s : State} (h : Keeps o s) (p : PlanEnt) (id : Nat) : Keeps o (unseat p id s) := by
  unfold unseat
  iterate 25 all_goals try first
    | with_reducible assumption
    | with_reducible exact Keeps.refl _
    | with_reducible apply parkSeat_keeps
    | intro _
    | split
    | with_reducible apply ite_keeps
    | with_reducible apply ite2_keeps
    | with_reducible apply iteR_keeps
    | with_reducible apply next_keeps
    | with_reducible apply each_keeps
    | with_reducible apply foldl_keeps'
    | with_reducible apply foldl2_keeps
    | with_reducible apply foldl3_keeps
    | with_reducible apply foldl4_keeps
    | with_reducible apply chain_keeps
    | with_reducible apply gather_keeps
    | with_reducible apply readThen_keeps
    | dsimp only
    | (refine Keeps.of_eq (by with_reducible assumption) ?_)
    | with_reducible apply upd_keeps

theorem moveHistory_keeps {o s : State} (h : Keeps o s) (c : Nat) (id : Nat) (x : ProgEnt × Rec × Nat) : Keeps o (moveHistory c id x s).2 := by
  unfold moveHistory
  iterate 25 all_goals try first
    | with_reducible assumption
    | with_reducible exact Keeps.refl _
    | with_reducible apply moveBytes_keeps
    | with_reducible apply gather_keeps
    | with_reducible apply freeWords_keeps
    | intro _
    | split
    | with_reducible apply ite_keeps
    | with_reducible apply ite2_keeps
    | with_reducible apply iteR_keeps
    | with_reducible apply next_keeps
    | with_reducible apply each_keeps
    | with_reducible apply foldl_keeps'
    | with_reducible apply foldl2_keeps
    | with_reducible apply foldl3_keeps
    | with_reducible apply foldl4_keeps
    | with_reducible apply chain_keeps
    | with_reducible apply gather_keeps
    | with_reducible apply readThen_keeps
    | dsimp only
    | (refine Keeps.of_eq (by with_reducible assumption) ?_)
    | with_reducible apply upd_keeps

theorem initCarried_keeps {o s : State} (h : Keeps o s) (id : Nat) (p : PlanEnt) : Keeps o (initCarried id p s) := by
  unfold initCarried
  iterate 25 all_goals try first
    | with_reducible assumption
    | with_reducible exact Keeps.refl _
    | with_reducible apply writeMem_keeps
    | intro _
    | split
    | with_reducible apply ite_keeps
    | with_reducible apply ite2_keeps
    | with_reducible apply iteR_keeps
    | with_reducible apply next_keeps
    | with_reducible apply each_keeps
    | with_reducible apply foldl_keeps'
    | with_reducible apply foldl2_keeps
    | with_reducible apply foldl3_keeps
    | with_reducible apply foldl4_keeps
    | with_reducible apply chain_keeps
    | with_reducible apply gather_keeps
    | with_reducible apply readThen_keeps
    | dsimp only
    | (refine Keeps.of_eq (by with_reducible assumption) ?_)
    | with_reducible apply upd_keeps

theorem moveScale_keeps {o s : State} (h : Keeps o s) (c : Nat) (id : Nat) (x : ProgEnt × Rec × Nat) : Keeps o (moveScale c id x s).2 := by
  unfold moveScale
  iterate 25 all_goals try first
    | with_reducible assumption
    | with_reducible exact Keeps.refl _
    | with_reducible apply moveBytes_keeps
    | with_reducible apply freeWords_keeps
    | intro _
    | split
    | with_reducible apply ite_keeps
    | with_reducible apply ite2_keeps
    | with_reducible apply iteR_keeps
    | with_reducible apply next_keeps
    | with_reducible apply each_keeps
    | with_reducible apply foldl_keeps'
    | with_reducible apply foldl2_keeps
    | with_reducible apply foldl3_keeps
    | with_reducible apply foldl4_keeps
    | with_reducible apply chain_keeps
    | with_reducible apply gather_keeps
    | with_reducible apply readThen_keeps
    | dsimp only
    | (refine Keeps.of_eq (by with_reducible assumption) ?_)
    | with_reducible apply upd_keeps

theorem moveSections_keeps {o s : State} (h : Keeps o s) (c : Nat) (id : Nat) (p : PlanEnt) : Keeps o (moveSections c id p s).2 := by
  unfold moveSections
  iterate 25 all_goals try first
    | with_reducible assumption
    | with_reducible exact Keeps.refl _
    | with_reducible apply moveFed_keeps
    | with_reducible apply moveHistory_keeps
    | with_reducible apply moveSection_keeps
    | with_reducible apply moveBytes_keeps
    | with_reducible apply moveCell_keeps
    | with_reducible apply moveScale_keeps
    | intro _
    | split
    | with_reducible apply ite_keeps
    | with_reducible apply ite2_keeps
    | with_reducible apply iteR_keeps
    | with_reducible apply next_keeps
    | with_reducible apply each_keeps
    | with_reducible apply foldl_keeps'
    | with_reducible apply foldl2_keeps
    | with_reducible apply foldl3_keeps
    | with_reducible apply foldl4_keeps
    | with_reducible apply chain_keeps
    | with_reducible apply gather_keeps
    | with_reducible apply readThen_keeps
    | dsimp only
    | (refine Keeps.of_eq (by with_reducible assumption) ?_)
    | with_reducible apply upd_keeps

theorem becomeParked_keeps {o s : State} (h : Keeps o s) (id : Nat) (bytes : Nat) : Keeps o (becomeParked id bytes s) := by
  unfold becomeParked
  iterate 25 all_goals try first
    | with_reducible assumption
    | with_reducible apply releaseLoad_keeps
    | with_reducible apply unpin_keeps
    | with_reducible apply post_keeps
    | with_reducible apply State.modStream_keeps
    | with_reducible apply State.modQueue_keeps
    | with_reducible apply dropCarried_keeps
    | with_reducible apply leaveSpill_keeps
    | split
    | with_reducible apply next_keeps
    | with_reducible apply upd_keeps

theorem noteContext_keeps {o s : State} (h : Keeps o s) (c : Nat) (n : Nat) : Keeps o (noteContext c n s) := by
  unfold noteContext
  iterate 25 all_goals try first
    | with_reducible assumption
    | with_reducible apply State.modChannel_keeps
    | split
    | with_reducible apply next_keeps
    | with_reducible apply upd_keeps

theorem execParkComplete_keeps {o s : State} (h : Keeps o s) (stream : Nat) : KeepsR o (execParkComplete stream s) := by
  unfold execParkComplete
  iterate 25 all_goals try first
    | with_reducible assumption
    | with_reducible exact Keeps.refl _
    | with_reducible apply done_keeps
    | with_reducible apply State.modChannel_keeps
    | with_reducible apply moveSections_keeps
    | with_reducible apply unseat_keeps
    | with_reducible apply becomeParked_keeps
    | with_reducible apply queueFirmware_keeps
    | with_reducible apply writeTagged_keeps
    | with_reducible apply endControl_keeps
    | with_reducible apply noteContext_keeps
    | intro _
    | split
    | with_reducible apply ite_keeps
    | with_reducible apply ite2_keeps
    | with_reducible apply iteR_keeps
    | with_reducible apply next_keeps
    | with_reducible apply each_keeps
    | with_reducible apply foldl_keeps'
    | with_reducible apply foldl2_keeps
    | with_reducible apply foldl3_keeps
    | with_reducible apply foldl4_keeps
    | with_reducible apply chain_keeps
    | with_reducible apply gather_keeps
    | with_reducible apply readThen_keeps
    | dsimp only
    | (refine Keeps.of_eq (by with_reducible assumption) ?_)
    | with_reducible apply upd_keeps

theorem execPark_keeps {o s : State} (h : Keeps o s) (a0 : Nat) : KeepsR o (execPark a0 s) := by
  unfold execPark
  iterate 25 all_goals try first
    | with_reducible assumption
    | with_reducible exact Keeps.refl _
    | with_reducible apply byReader_keeps
    | with_reducible apply doPark_keeps
    | intro _
    | split
    | with_reducible apply ite_keeps
    | with_reducible apply ite2_keeps
    | with_reducible apply iteR_keeps
    | with_reducible apply next_keeps
    | with_reducible apply each_keeps
    | with_reducible apply foldl_keeps'
    | with_reducible apply foldl2_keeps
    | with_reducible apply foldl3_keeps
    | with_reducible apply foldl4_keeps
    | with_reducible apply chain_keeps
    | with_reducible apply gather_keeps
    | with_reducible apply readThen_keeps
    | dsimp only
    | (refine Keeps.of_eq (by with_reducible assumption) ?_)
    | with_reducible apply upd_keeps

theorem readContext_keeps {o s : State} (h : Keeps o s) (tier : Nat) (a : Nat) (key : Nat) (a3 : Nat) (a4 : Nat) : Keeps o (readContext tier a key a3 a4 s).2 := by
  induction a3 generalizing s tier a key a4 with
  | zero =>
    unfold readContext
    iterate 25 all_goals try first
      | with_reducible assumption
      | with_reducible exact Keeps.refl _
      | with_reducible apply readGranule_keeps
      | intro _
      | split
      | with_reducible apply ite_keeps
      | with_reducible apply ite2_keeps
      | with_reducible apply iteR_keeps
      | with_reducible apply next_keeps
      | with_reducible apply each_keeps
      | with_reducible apply foldl_keeps'
      | with_reducible apply foldl2_keeps
      | with_reducible apply foldl3_keeps
      | with_reducible apply foldl4_keeps
      | with_reducible apply chain_keeps
      | with_reducible apply gather_keeps
      | with_reducible apply readThen_keeps
      | dsimp only
      | (refine Keeps.of_eq (by with_reducible assumption) ?_)
      | with_reducible apply upd_keeps
  | succ n ih =>
    unfold readContext
    iterate 25 all_goals try first
      | with_reducible assumption
      | with_reducible exact Keeps.refl _
      | with_reducible apply ih
      | with_reducible apply readGranule_keeps
      | intro _
      | split
      | with_reducible apply ite_keeps
      | with_reducible apply ite2_keeps
      | with_reducible apply iteR_keeps
      | with_reducible apply next_keeps
      | with_reducible apply each_keeps
      | with_reducible apply foldl_keeps'
      | with_reducible apply foldl2_keeps
      | with_reducible apply foldl3_keeps
      | with_reducible apply foldl4_keeps
      | with_reducible apply chain_keeps
      | with_reducible apply gather_keeps
      | with_reducible apply readThen_keeps
      | dsimp only
      | (refine Keeps.of_eq (by with_reducible assumption) ?_)
      | with_reducible apply upd_keeps

theorem execRestoreComplete_keeps {o s : State} (h : Keeps o s) (stream : Nat) (ups : List Upset) : KeepsR o (execRestoreComplete stream ups s) := by
  unfold execRestoreComplete
  iterate 25 all_goals try first
    | with_reducible assumption
    | with_reducible exact Keeps.refl _
    | with_reducible apply abortStream_keeps
    | with_reducible apply done_keeps
    | with_reducible apply loadContext_keeps
    | with_reducible apply settleHead_keeps
    | with_reducible apply queueFirmware_keeps
    | with_reducible apply progress_keeps
    | with_reducible apply post_keeps
    | with_reducible apply endControl_keeps
    | with_reducible apply tagConsumerFail_keeps
    | with_reducible apply noteContext_keeps
    | with_reducible apply readContext_keeps
    | with_reducible apply State.modStream_keeps
    | with_reducible apply endHalted_keeps
    | with_reducible apply applyUpsets_keeps
    | with_reducible apply leaveSpill_keeps
    | intro _
    | split
    | with_reducible apply ite_keeps
    | with_reducible apply ite2_keeps
    | with_reducible apply iteR_keeps
    | with_reducible apply next_keeps
    | with_reducible apply each_keeps
    | with_reducible apply foldl_keeps'
    | with_reducible apply foldl2_keeps
    | with_reducible apply foldl3_keeps
    | with_reducible apply foldl4_keeps
    | with_reducible apply chain_keeps
    | with_reducible apply gather_keeps
    | with_reducible apply readThen_keeps
    | dsimp only
    | (refine Keeps.of_eq (by with_reducible assumption) ?_)
    | with_reducible apply upd_keeps

theorem passAdmit_keeps {o s : State} (h : Keeps o s) (plan : Nat) (g : Nat) (code : Nat) (stream : W16) (owner : W16) (member : Nat) (imageId : W64) : Keeps o (passAdmit plan g code stream owner member imageId s) := by
  unfold passAdmit
  iterate 25 all_goals try first
    | with_reducible assumption
    | with_reducible apply sendRing_keeps
    | split
    | with_reducible apply next_keeps
    | with_reducible apply upd_keeps

theorem makeQueues_keeps {o s : State} (h : Keeps o s) (id : Nat) (qs : List (Nat × Nat × Nat)) (pages : List Nat) : Keeps o (makeQueues id qs pages s) := by
  unfold makeQueues
  iterate 25 all_goals try first
    | with_reducible assumption
    | with_reducible exact Keeps.refl _
    | with_reducible apply State.modQueue_keeps
    | intro _
    | split
    | with_reducible apply ite_keeps
    | with_reducible apply ite2_keeps
    | with_reducible apply iteR_keeps
    | with_reducible apply next_keeps
    | with_reducible apply each_keeps
    | with_reducible apply foldl_keeps'
    | with_reducible apply foldl2_keeps
    | with_reducible apply foldl3_keeps
    | with_reducible apply foldl4_keeps
    | with_reducible apply chain_keeps
    | with_reducible apply gather_keeps
    | with_reducible apply readThen_keeps
    | dsimp only
    | (refine Keeps.of_eq (by with_reducible assumption) ?_)
    | with_reducible apply upd_keeps

theorem decideOpen_keeps {o s : State} (h : Keeps o s) (b : List Byte) : Keeps o (decideOpen b s).2 := by
  unfold decideOpen
  iterate 25 all_goals try first
    | with_reducible assumption
    | with_reducible exact Keeps.refl _
    | with_reducible apply readCtxHeader_keeps
    | intro _
    | split
    | with_reducible apply ite_keeps
    | with_reducible apply ite2_keeps
    | with_reducible apply iteR_keeps
    | with_reducible apply next_keeps
    | with_reducible apply each_keeps
    | with_reducible apply foldl_keeps'
    | with_reducible apply foldl2_keeps
    | with_reducible apply foldl3_keeps
    | with_reducible apply foldl4_keeps
    | with_reducible apply chain_keeps
    | with_reducible apply gather_keeps
    | with_reducible apply readThen_keeps
    | dsimp only
    | (refine Keeps.of_eq (by with_reducible assumption) ?_)
    | with_reducible apply upd_keeps

theorem ingressRest_keeps {o s : State} (h : Keeps o s) (tier : Nat) (runs : List (Nat × Nat)) : Keeps o (ingressRest tier runs s).2 := by
  unfold ingressRest
  iterate 25 all_goals try first
    | with_reducible assumption
    | with_reducible exact Keeps.refl _
    | with_reducible apply readFixed_keeps
    | intro _
    | split
    | with_reducible apply ite_keeps
    | with_reducible apply ite2_keeps
    | with_reducible apply iteR_keeps
    | with_reducible apply next_keeps
    | with_reducible apply each_keeps
    | with_reducible apply foldl_keeps'
    | with_reducible apply foldl2_keeps
    | with_reducible apply foldl3_keeps
    | with_reducible apply foldl4_keeps
    | with_reducible apply chain_keeps
    | with_reducible apply gather_keeps
    | with_reducible apply readThen_keeps
    | dsimp only
    | (refine Keeps.of_eq (by with_reducible assumption) ?_)
    | with_reducible apply upd_keeps

theorem runSubmit_keeps {o s : State} (h : Keeps o s) (q : Req) : Keeps o (runSubmit q s).2 := by
  unfold runSubmit
  iterate 25 all_goals try first
    | with_reducible assumption
    | with_reducible exact Keeps.refl _
    | with_reducible apply pushEntries_keeps
    | with_reducible apply settleHead_keeps
    | with_reducible apply ingressRest_keeps
    | with_reducible apply progress_keeps
    | with_reducible apply ingressBad_keeps
    | intro _
    | split
    | with_reducible apply ite_keeps
    | with_reducible apply ite2_keeps
    | with_reducible apply iteR_keeps
    | with_reducible apply next_keeps
    | with_reducible apply each_keeps
    | with_reducible apply foldl_keeps'
    | with_reducible apply foldl2_keeps
    | with_reducible apply foldl3_keeps
    | with_reducible apply foldl4_keeps
    | with_reducible apply chain_keeps
    | with_reducible apply gather_keeps
    | with_reducible apply readThen_keeps
    | dsimp only
    | (refine Keeps.of_eq (by with_reducible assumption) ?_)
    | with_reducible apply upd_keeps

theorem startOpened_keeps {o s : State} (h : Keeps o s) (b : List Byte) (id : Nat) (p : PlanEnt) : Keeps o (startOpened b id p s) := by
  unfold startOpened
  iterate 25 all_goals try first
    | with_reducible assumption
    | with_reducible apply joinRound_keeps
    | with_reducible apply progress_keeps
    | with_reducible apply beginRun_keeps
    | split
    | with_reducible apply next_keeps
    | with_reducible apply upd_keeps

theorem admitStream_keeps {o s : State} (h : Keeps o s) (b : List Byte) (a1 : Opened) : Keeps o (admitStream b a1 s) := by
  unfold admitStream
  iterate 25 all_goals try first
    | with_reducible assumption
    | with_reducible apply makeQueues_keeps
    | with_reducible apply takeLoad_keeps
    | with_reducible apply beginMove_keeps
    | with_reducible apply moveVoice_keeps
    | with_reducible apply initCarried_keeps
    | with_reducible apply State.modStream_keeps
    | with_reducible apply dropCarried_keeps
    | split
    | with_reducible apply next_keeps
    | with_reducible apply upd_keeps

theorem refuseOpen_keeps {o s : State} (h : Keeps o s) (b : List Byte) (a1 : Refused) : Keeps o (refuseOpen b a1 s).2 := by
  unfold refuseOpen
  iterate 25 all_goals try first
    | with_reducible assumption
    | with_reducible apply restoreRefused_keeps
    | with_reducible apply State.modLive_keeps
    | split
    | with_reducible apply next_keeps
    | with_reducible apply upd_keeps

theorem runOpen_keeps {o s : State} (h : Keeps o s) (q : Req) : Keeps o (runOpen q s).2 := by
  unfold runOpen
  iterate 25 all_goals try first
    | with_reducible assumption
    | with_reducible exact Keeps.refl _
    | with_reducible apply passAdmit_keeps
    | with_reducible apply startOpened_keeps
    | with_reducible apply decideOpen_keeps
    | with_reducible apply admitStream_keeps
    | with_reducible apply refuseOpen_keeps
    | with_reducible apply State.modKl_keeps
    | with_reducible apply State.modLive_keeps
    | intro _
    | split
    | with_reducible apply ite_keeps
    | with_reducible apply ite2_keeps
    | with_reducible apply iteR_keeps
    | with_reducible apply next_keeps
    | with_reducible apply each_keeps
    | with_reducible apply foldl_keeps'
    | with_reducible apply foldl2_keeps
    | with_reducible apply foldl3_keeps
    | with_reducible apply foldl4_keeps
    | with_reducible apply chain_keeps
    | with_reducible apply gather_keeps
    | with_reducible apply readThen_keeps
    | dsimp only
    | (refine Keeps.of_eq (by with_reducible assumption) ?_)
    | with_reducible apply upd_keeps

theorem freeStream_keeps {o s : State} (h : Keeps o s) (id : Nat) : Keeps o (freeStream id s) := by
  unfold freeStream
  iterate 25 all_goals try first
    | with_reducible assumption
    | with_reducible apply releaseLoad_keeps
    | with_reducible apply unpin_keeps
    | with_reducible apply releaseIfSingle_keeps
    | with_reducible apply dropDescs_keeps
    | with_reducible apply maskRows_keeps
    | with_reducible apply dropAttach_keeps
    | with_reducible apply State.modStream_keeps
    | with_reducible apply dropCarried_keeps
    | with_reducible apply leaveSpill_keeps
    | split
    | with_reducible apply next_keeps
    | with_reducible apply upd_keeps

theorem finishRingOpen_keeps {o s : State} (h : Keeps o s) (id : Nat) (code : Nat) : Keeps o (finishRingOpen id code s) := by
  unfold finishRingOpen
  iterate 25 all_goals try first
    | with_reducible assumption
    | with_reducible apply startOpened_keeps
    | with_reducible apply sendRingAll_keeps
    | with_reducible apply answer_keeps
    | with_reducible apply freeStream_keeps
    | with_reducible apply refuseOpen_keeps
    | with_reducible apply State.modKl_keeps
    | with_reducible apply State.modStream_keeps
    | with_reducible apply State.modLive_keeps
    | split
    | with_reducible apply next_keeps
    | with_reducible apply upd_keeps

theorem execSubmit_keeps {o s : State} (h : Keeps o s) (q : Req) : KeepsR o (execSubmit q s) := by
  unfold execSubmit
  iterate 25 all_goals try first
    | with_reducible assumption
    | with_reducible exact Keeps.refl _
    | with_reducible apply done_keeps
    | with_reducible apply runSubmit_keeps
    | with_reducible apply serve_keeps
    | intro _
    | split
    | with_reducible apply ite_keeps
    | with_reducible apply ite2_keeps
    | with_reducible apply iteR_keeps
    | with_reducible apply next_keeps
    | with_reducible apply each_keeps
    | with_reducible apply foldl_keeps'
    | with_reducible apply foldl2_keeps
    | with_reducible apply foldl3_keeps
    | with_reducible apply foldl4_keeps
    | with_reducible apply chain_keeps
    | with_reducible apply gather_keeps
    | with_reducible apply readThen_keeps
    | dsimp only
    | (refine Keeps.of_eq (by with_reducible assumption) ?_)
    | with_reducible apply upd_keeps

theorem execStreamOpen_keeps {o s : State} (h : Keeps o s) (q : Req) : KeepsR o (execStreamOpen q s) := by
  unfold execStreamOpen
  iterate 25 all_goals try first
    | with_reducible assumption
    | with_reducible exact Keeps.refl _
    | with_reducible apply done_keeps
    | with_reducible apply runOpen_keeps
    | with_reducible apply serveOpt_keeps
    | intro _
    | split
    | with_reducible apply ite_keeps
    | with_reducible apply ite2_keeps
    | with_reducible apply iteR_keeps
    | with_reducible apply next_keeps
    | with_reducible apply each_keeps
    | with_reducible apply foldl_keeps'
    | with_reducible apply foldl2_keeps
    | with_reducible apply foldl3_keeps
    | with_reducible apply foldl4_keeps
    | with_reducible apply chain_keeps
    | with_reducible apply gather_keeps
    | with_reducible apply readThen_keeps
    | dsimp only
    | (refine Keeps.of_eq (by with_reducible assumption) ?_)
    | with_reducible apply upd_keeps

theorem sapEnd_keeps {o s : State} (h : Keeps o s) (n : Nat) : Keeps o (sapEnd n s) := by
  unfold sapEnd
  iterate 25 all_goals try first
    | with_reducible assumption
    | with_reducible apply State.modSap_keeps
    | with_reducible apply record_keeps
    | split
    | with_reducible apply next_keeps
    | with_reducible apply upd_keeps

theorem sapErr_keeps {o s : State} (h : Keeps o s) (n : Nat) : Keeps o (sapErr n s) := by
  unfold sapErr
  iterate 25 all_goals try first
    | with_reducible assumption
    | with_reducible apply State.modSap_keeps
    | split
    | with_reducible apply next_keeps
    | with_reducible apply upd_keeps

theorem writeMask_keeps {o s : State} (h : Keeps o s) (n : Nat) (v : W32) (lastTwo : Bool) : Keeps o (writeMask n v lastTwo s) := by
  unfold writeMask
  iterate 25 all_goals try first
    | with_reducible assumption
    | with_reducible apply sapErr_keeps
    | with_reducible apply State.modSap_keeps
    | split
    | with_reducible apply next_keeps
    | with_reducible apply upd_keeps

theorem execSapMask_keeps {o s : State} (h : Keeps o s) (a0 : Nat) (port : Nat) (v : W32) (lastTwoClocks : Bool) : KeepsR o (execSapMask a0 port v lastTwoClocks s) := by
  unfold execSapMask
  iterate 25 all_goals try first
    | with_reducible assumption
    | with_reducible exact Keeps.refl _
    | with_reducible apply writeMask_keeps
    | with_reducible apply byReader_keeps
    | intro _
    | split
    | with_reducible apply ite_keeps
    | with_reducible apply ite2_keeps
    | with_reducible apply iteR_keeps
    | with_reducible apply next_keeps
    | with_reducible apply each_keeps
    | with_reducible apply foldl_keeps'
    | with_reducible apply foldl2_keeps
    | with_reducible apply foldl3_keeps
    | with_reducible apply foldl4_keeps
    | with_reducible apply chain_keeps
    | with_reducible apply gather_keeps
    | with_reducible apply readThen_keeps
    | dsimp only
    | (refine Keeps.of_eq (by with_reducible assumption) ?_)
    | with_reducible apply upd_keeps

theorem writeSlotMap_keeps {o s : State} (h : Keeps o s) (n : Nat) (slot : Nat) (v : W32) : Keeps o (writeSlotMap n slot v s) := by
  unfold writeSlotMap
  iterate 25 all_goals try first
    | with_reducible assumption
    | with_reducible apply sapErr_keeps
    | with_reducible apply State.modSap_keeps
    | split
    | with_reducible apply next_keeps
    | with_reducible apply upd_keeps

theorem execClkLost_keeps {o s : State} (h : Keeps o s) (port : Nat) : KeepsR o (execClkLost port s) := by
  unfold execClkLost
  iterate 25 all_goals try first
    | with_reducible assumption
    | with_reducible exact Keeps.refl _
    | with_reducible apply done_keeps
    | with_reducible apply fire_keeps
    | with_reducible apply State.modSap_keeps
    | with_reducible apply record_keeps
    | intro _
    | split
    | with_reducible apply ite_keeps
    | with_reducible apply ite2_keeps
    | with_reducible apply iteR_keeps
    | with_reducible apply next_keeps
    | with_reducible apply each_keeps
    | with_reducible apply foldl_keeps'
    | with_reducible apply foldl2_keeps
    | with_reducible apply foldl3_keeps
    | with_reducible apply foldl4_keeps
    | with_reducible apply chain_keeps
    | with_reducible apply gather_keeps
    | with_reducible apply readThen_keeps
    | dsimp only
    | (refine Keeps.of_eq (by with_reducible assumption) ?_)
    | with_reducible apply upd_keeps

theorem sapCancel_keeps {o s : State} (h : Keeps o s) (n : Nat) : Keeps o (sapCancel n s) := by
  unfold sapCancel
  iterate 25 all_goals try first
    | with_reducible assumption
    | with_reducible apply sapErr_keeps
    | with_reducible apply State.modSap_keeps
    | split
    | with_reducible apply next_keeps
    | with_reducible apply upd_keeps

theorem sapStartExt_keeps {o s : State} (h : Keeps o s) (n : Nat) : Keeps o (sapStartExt n s) := by
  unfold sapStartExt
  iterate 25 all_goals try first
    | with_reducible assumption
    | with_reducible apply sapErr_keeps
    | with_reducible apply State.modSap_keeps
    | split
    | with_reducible apply next_keeps
    | with_reducible apply upd_keeps

theorem execStartExt_keeps {o s : State} (h : Keeps o s) (a0 : Nat) (port : Nat) : KeepsR o (execStartExt a0 port s) := by
  unfold execStartExt
  iterate 25 all_goals try first
    | with_reducible assumption
    | with_reducible exact Keeps.refl _
    | with_reducible apply byReader_keeps
    | with_reducible apply sapStartExt_keeps
    | intro _
    | split
    | with_reducible apply ite_keeps
    | with_reducible apply ite2_keeps
    | with_reducible apply iteR_keeps
    | with_reducible apply next_keeps
    | with_reducible apply each_keeps
    | with_reducible apply foldl_keeps'
    | with_reducible apply foldl2_keeps
    | with_reducible apply foldl3_keeps
    | with_reducible apply foldl4_keeps
    | with_reducible apply chain_keeps
    | with_reducible apply gather_keeps
    | with_reducible apply readThen_keeps
    | dsimp only
    | (refine Keeps.of_eq (by with_reducible assumption) ?_)
    | with_reducible apply upd_keeps

theorem slotWord_keeps {o s : State} (h : Keeps o s) (n : Nat) (silent : Bool) (pos : W64) (slot : Nat) : Keeps o (slotWord n silent pos slot s).2 := by
  unfold slotWord
  iterate 25 all_goals try first
    | with_reducible assumption
    | with_reducible exact Keeps.refl _
    | with_reducible apply markWord_keeps
    | with_reducible apply exitSample_keeps
    | with_reducible apply toWire_keeps
    | intro _
    | split
    | with_reducible apply ite_keeps
    | with_reducible apply ite2_keeps
    | with_reducible apply iteR_keeps
    | with_reducible apply next_keeps
    | with_reducible apply each_keeps
    | with_reducible apply foldl_keeps'
    | with_reducible apply foldl2_keeps
    | with_reducible apply foldl3_keeps
    | with_reducible apply foldl4_keeps
    | with_reducible apply chain_keeps
    | with_reducible apply gather_keeps
    | with_reducible apply readThen_keeps
    | dsimp only
    | (refine Keeps.of_eq (by with_reducible assumption) ?_)
    | with_reducible apply upd_keeps

theorem sendFrame_keeps {o s : State} (h : Keeps o s) (n : Nat) (silent : Bool) (pos : W64) : Keeps o (sendFrame n silent pos s) := by
  unfold sendFrame
  iterate 25 all_goals try first
    | with_reducible assumption
    | with_reducible exact Keeps.refl _
    | with_reducible apply emit_keeps
    | with_reducible apply slotWord_keeps
    | with_reducible apply State.modLive_keeps
    | intro _
    | split
    | with_reducible apply ite_keeps
    | with_reducible apply ite2_keeps
    | with_reducible apply iteR_keeps
    | with_reducible apply next_keeps
    | with_reducible apply each_keeps
    | with_reducible apply foldl_keeps'
    | with_reducible apply foldl2_keeps
    | with_reducible apply foldl3_keeps
    | with_reducible apply foldl4_keeps
    | with_reducible apply chain_keeps
    | with_reducible apply gather_keeps
    | with_reducible apply readThen_keeps
    | dsimp only
    | (refine Keeps.of_eq (by with_reducible assumption) ?_)
    | with_reducible apply upd_keeps

theorem takeFrame_keeps {o s : State} (h : Keeps o s) (n : Nat) : Keeps o (takeFrame n s) := by
  unfold takeFrame
  iterate 25 all_goals try first
    | with_reducible assumption
    | with_reducible apply State.modSap_keeps
    | with_reducible apply sendFrame_keeps
    | with_reducible apply record_keeps
    | split
    | with_reducible apply next_keeps
    | with_reducible apply upd_keeps

theorem execSapFrameStart_keeps {o s : State} (h : Keeps o s) (port : Nat) : KeepsR o (execSapFrameStart port s) := by
  unfold execSapFrameStart
  iterate 25 all_goals try first
    | with_reducible assumption
    | with_reducible exact Keeps.refl _
    | with_reducible apply done_keeps
    | with_reducible apply sapEnd_keeps
    | with_reducible apply takeFrame_keeps
    | intro _
    | split
    | with_reducible apply ite_keeps
    | with_reducible apply ite2_keeps
    | with_reducible apply iteR_keeps
    | with_reducible apply next_keeps
    | with_reducible apply each_keeps
    | with_reducible apply foldl_keeps'
    | with_reducible apply foldl2_keeps
    | with_reducible apply foldl3_keeps
    | with_reducible apply foldl4_keeps
    | with_reducible apply chain_keeps
    | with_reducible apply gather_keeps
    | with_reducible apply readThen_keeps
    | dsimp only
    | (refine Keeps.of_eq (by with_reducible assumption) ?_)
    | with_reducible apply upd_keeps

theorem sapStop_keeps {o s : State} (h : Keeps o s) (n : Nat) : Keeps o (sapStop n s) := by
  unfold sapStop
  iterate 25 all_goals try first
    | with_reducible assumption
    | with_reducible apply sapErr_keeps
    | with_reducible apply State.modSap_keeps
    | split
    | with_reducible apply next_keeps
    | with_reducible apply upd_keeps

theorem execSapCmdStop_keeps {o s : State} (h : Keeps o s) (a0 : Nat) (port : Nat) : KeepsR o (execSapCmdStop a0 port s) := by
  unfold execSapCmdStop
  iterate 25 all_goals try first
    | with_reducible assumption
    | with_reducible exact Keeps.refl _
    | with_reducible apply byReader_keeps
    | with_reducible apply sapStop_keeps
    | intro _
    | split
    | with_reducible apply ite_keeps
    | with_reducible apply ite2_keeps
    | with_reducible apply iteR_keeps
    | with_reducible apply next_keeps
    | with_reducible apply each_keeps
    | with_reducible apply foldl_keeps'
    | with_reducible apply foldl2_keeps
    | with_reducible apply foldl3_keeps
    | with_reducible apply foldl4_keeps
    | with_reducible apply chain_keeps
    | with_reducible apply gather_keeps
    | with_reducible apply readThen_keeps
    | dsimp only
    | (refine Keeps.of_eq (by with_reducible assumption) ?_)
    | with_reducible apply upd_keeps

end Sys2Proof.Machine
end

