-- ==== Sys2Proof/Laws/KeepsRings.lean ====
section
/-! SUPPORT. A command leaves the queue as it waits and memory in canonical form: rings and security. -/

namespace Sys2Proof.Machine

theorem sapStart_keeps {o s : State} (h : Keeps o s) (n : Nat) : Keeps o (sapStart n s) := by
  unfold sapStart
  iterate 25 all_goals try first
    | with_reducible assumption
    | with_reducible apply sapErr_keeps
    | with_reducible apply State.modSap_keeps
    | split
    | with_reducible apply next_keeps
    | with_reducible apply upd_keeps

theorem execSapCmdStart_keeps {o s : State} (h : Keeps o s) (a0 : Nat) (port : Nat) : KeepsR o (execSapCmdStart a0 port s) := by
  unfold execSapCmdStart
  iterate 25 all_goals try first
    | with_reducible assumption
    | with_reducible exact Keeps.refl _
    | with_reducible apply sapStart_keeps
    | with_reducible apply byReader_keeps
    | intro _
    | split
    | with_reducible apply ite_keeps
    | with_reducible apply ite2_keeps
    | with_reducible apply iteR_keeps
    | with_reducible apply next_keeps
    | with_reducible apply each_keeps
    | with_reducible apply foldl_keeps'
    | with_reducible apply foldl2_keeps
    | with_reducible apply foldl3_keeps
    | with_reducible apply foldl4_keeps
    | with_reducible apply chain_keeps
    | with_reducible apply gather_keeps
    | with_reducible apply readThen_keeps
    | dsimp only
    | (refine Keeps.of_eq (by with_reducible assumption) ?_)
    | with_reducible apply upd_keeps

theorem execSapSlotMap_keeps {o s : State} (h : Keeps o s) (a0 : Nat) (port : Nat) (slot : Nat) (v : W32) : KeepsR o (execSapSlotMap a0 port slot v s) := by
  unfold execSapSlotMap
  iterate 25 all_goals try first
    | with_reducible assumption
    | with_reducible exact Keeps.refl _
    | with_reducible apply writeSlotMap_keeps
    | with_reducible apply byReader_keeps
    | intro _
    | split
    | with_reducible apply ite_keeps
    | with_reducible apply ite2_keeps
    | with_reducible apply iteR_keeps
    | with_reducible apply next_keeps
    | with_reducible apply each_keeps
    | with_reducible apply foldl_keeps'
    | with_reducible apply foldl2_keeps
    | with_reducible apply foldl3_keeps
    | with_reducible apply foldl4_keeps
    | with_reducible apply chain_keeps
    | with_reducible apply gather_keeps
    | with_reducible apply readThen_keeps
    | dsimp only
    | (refine Keeps.of_eq (by with_reducible assumption) ?_)
    | with_reducible apply upd_keeps

theorem sapStopNow_keeps {o s : State} (h : Keeps o s) (n : Nat) : Keeps o (sapStopNow n s) := by
  unfold sapStopNow
  iterate 25 all_goals try first
    | with_reducible assumption
    | with_reducible apply sapErr_keeps
    | with_reducible apply State.modSap_keeps
    | split
    | with_reducible apply next_keeps
    | with_reducible apply upd_keeps

theorem execStopNow_keeps {o s : State} (h : Keeps o s) (a0 : Nat) (port : Nat) : KeepsR o (execStopNow a0 port s) := by
  unfold execStopNow
  iterate 25 all_goals try first
    | with_reducible assumption
    | with_reducible exact Keeps.refl _
    | with_reducible apply byReader_keeps
    | with_reducible apply sapStopNow_keeps
    | intro _
    | split
    | with_reducible apply ite_keeps
    | with_reducible apply ite2_keeps
    | with_reducible apply iteR_keeps
    | with_reducible apply next_keeps
    | with_reducible apply each_keeps
    | with_reducible apply foldl_keeps'
    | with_reducible apply foldl2_keeps
    | with_reducible apply foldl3_keeps
    | with_reducible apply foldl4_keeps
    | with_reducible apply chain_keeps
    | with_reducible apply gather_keeps
    | with_reducible apply readThen_keeps
    | dsimp only
    | (refine Keeps.of_eq (by with_reducible assumption) ?_)
    | with_reducible apply upd_keeps

theorem applyMask_keeps {o s : State} (h : Keeps o s) (n : Nat) (v : W32) : Keeps o (applyMask n v s) := by
  unfold applyMask
  iterate 25 all_goals try first
    | with_reducible assumption
    | with_reducible apply State.modSap_keeps
    | split
    | with_reducible apply next_keeps
    | with_reducible apply upd_keeps

theorem underrunFrame_keeps {o s : State} (h : Keeps o s) (n : Nat) : Keeps o (underrunFrame n s) := by
  unfold underrunFrame
  iterate 25 all_goals try first
    | with_reducible assumption
    | with_reducible apply fire_keeps
    | with_reducible apply State.modSap_keeps
    | with_reducible apply sendFrame_keeps
    | with_reducible apply record_keeps
    | split
    | with_reducible apply next_keeps
    | with_reducible apply upd_keeps

theorem skipFrames_keeps {o s : State} (h : Keeps o s) (n : Nat) (k : Nat) : Keeps o (skipFrames n k s) := by
  unfold skipFrames
  iterate 25 all_goals try first
    | with_reducible assumption
    | with_reducible apply fire_keeps
    | with_reducible apply State.modSap_keeps
    | with_reducible apply record_keeps
    | split
    | with_reducible apply next_keeps
    | with_reducible apply upd_keeps

theorem execSlaveFrameStart_keeps {o s : State} (h : Keeps o s) (port : Nat) (bitClocks : Nat) : KeepsR o (execSlaveFrameStart port bitClocks s) := by
  unfold execSlaveFrameStart
  iterate 25 all_goals try first
    | with_reducible assumption
    | with_reducible exact Keeps.refl _
    | with_reducible apply done_keeps
    | with_reducible apply fire_keeps
    | with_reducible apply sapEnd_keeps
    | with_reducible apply State.modSap_keeps
    | with_reducible apply sendFrame_keeps
    | with_reducible apply record_keeps
    | with_reducible apply skipFrames_keeps
    | with_reducible apply underrunFrame_keeps
    | with_reducible apply takeFrame_keeps
    | intro _
    | split
    | with_reducible apply ite_keeps
    | with_reducible apply ite2_keeps
    | with_reducible apply iteR_keeps
    | with_reducible apply next_keeps
    | with_reducible apply each_keeps
    | with_reducible apply foldl_keeps'
    | with_reducible apply foldl2_keeps
    | with_reducible apply foldl3_keeps
    | with_reducible apply foldl4_keeps
    | with_reducible apply chain_keeps
    | with_reducible apply gather_keeps
    | with_reducible apply readThen_keeps
    | dsimp only
    | (refine Keeps.of_eq (by with_reducible assumption) ?_)
    | with_reducible apply upd_keeps

theorem execSapCmdCancel_keeps {o s : State} (h : Keeps o s) (a0 : Nat) (port : Nat) : KeepsR o (execSapCmdCancel a0 port s) := by
  unfold execSapCmdCancel
  iterate 25 all_goals try first
    | with_reducible assumption
    | with_reducible exact Keeps.refl _
    | with_reducible apply byReader_keeps
    | with_reducible apply sapCancel_keeps
    | intro _
    | split
    | with_reducible apply ite_keeps
    | with_reducible apply ite2_keeps
    | with_reducible apply iteR_keeps
    | with_reducible apply next_keeps
    | with_reducible apply each_keeps
    | with_reducible apply foldl_keeps'
    | with_reducible apply foldl2_keeps
    | with_reducible apply foldl3_keeps
    | with_reducible apply foldl4_keeps
    | with_reducible apply chain_keeps
    | with_reducible apply gather_keeps
    | with_reducible apply readThen_keeps
    | dsimp only
    | (refine Keeps.of_eq (by with_reducible assumption) ?_)
    | with_reducible apply upd_keeps

theorem sapCommand_keeps {o s : State} (h : Keeps o s) (n : Nat) (v : W32) : Keeps o (sapCommand n v s) := by
  unfold sapCommand
  iterate 25 all_goals try first
    | with_reducible assumption
    | with_reducible apply sapStart_keeps
    | with_reducible apply sapErr_keeps
    | with_reducible apply sapStartExt_keeps
    | with_reducible apply sapStop_keeps
    | with_reducible apply sapCancel_keeps
    | with_reducible apply sapStopNow_keeps
    | split
    | with_reducible apply next_keeps
    | with_reducible apply upd_keeps

theorem writeSapPort_keeps {o s : State} (h : Keeps o s) (n : Nat) (off : Nat) (v : W32) : Keeps o (writeSapPort n off v s) := by
  unfold writeSapPort
  iterate 25 all_goals try first
    | with_reducible assumption
    | with_reducible apply sapCommand_keeps
    | with_reducible apply writeSlotMap_keeps
    | with_reducible apply writeMask_keeps
    | with_reducible apply sapErr_keeps
    | with_reducible apply State.modSap_keeps
    | split
    | with_reducible apply next_keeps
    | with_reducible apply upd_keeps

theorem writeSap_keeps {o s : State} (h : Keeps o s) (off : Nat) (v : W32) : Keeps o (writeSap off v s) := by
  unfold writeSap
  iterate 25 all_goals try first
    | with_reducible assumption
    | with_reducible apply writeSapPort_keeps
    | split
    | with_reducible apply next_keeps
    | with_reducible apply upd_keeps

theorem execWclkOutFall_keeps {o s : State} (h : Keeps o s) : KeepsR o (execWclkOutFall s) := by
  unfold execWclkOutFall
  iterate 25 all_goals try first
    | with_reducible assumption
    | split
    | with_reducible apply next_keeps
    | with_reducible apply upd_keeps

theorem samplePin_keeps {o s : State} (h : Keeps o s) (pin : Bool) (n : Nat) : Keeps o (samplePin pin n s) := by
  unfold samplePin
  iterate 25 all_goals try first
    | with_reducible assumption
    | with_reducible apply State.modSap_keeps
    | split
    | with_reducible apply next_keeps
    | with_reducible apply upd_keeps

theorem State.modSt_keeps {o s : State} (h : Keeps o s) (a1 : Nat) (f : SessTxn → SessTxn) : Keeps o (State.modSt s a1 f) := by
  unfold State.modSt
  iterate 25 all_goals try first
    | with_reducible assumption
    | with_reducible apply State.modSess_keeps
    | split
    | with_reducible apply next_keeps
    | with_reducible apply upd_keeps

theorem txnClear_keeps {o s : State} (h : Keeps o s) (a0 : Nat) : Keeps o (txnClear a0 s) := by
  unfold txnClear
  iterate 25 all_goals try first
    | with_reducible assumption
    | with_reducible apply State.modSt_keeps
    | split
    | with_reducible apply next_keeps
    | with_reducible apply upd_keeps

theorem applyAction_keeps {o s : State} (h : Keeps o s) (a : BitVec 128) (start : Nat) : Keeps o (applyAction a start s) := by
  unfold applyAction
  iterate 25 all_goals try first
    | with_reducible assumption
    | with_reducible apply applyMask_keeps
    | with_reducible apply applyDest_keeps
    | with_reducible apply State.modStream_keeps
    | with_reducible apply beginRun_keeps
    | split
    | with_reducible apply next_keeps
    | with_reducible apply upd_keeps

theorem applyDue_keeps {o s : State} (h : Keeps o s) (id : W32) : Keeps o (applyDue id s) := by
  unfold applyDue
  iterate 25 all_goals try first
    | with_reducible assumption
    | with_reducible exact Keeps.refl _
    | with_reducible apply State.modTxn_keeps
    | with_reducible apply applyAction_keeps
    | intro _
    | split
    | with_reducible apply ite_keeps
    | with_reducible apply ite2_keeps
    | with_reducible apply iteR_keeps
    | with_reducible apply next_keeps
    | with_reducible apply each_keeps
    | with_reducible apply foldl_keeps'
    | with_reducible apply foldl2_keeps
    | with_reducible apply foldl3_keeps
    | with_reducible apply foldl4_keeps
    | with_reducible apply chain_keeps
    | with_reducible apply gather_keeps
    | with_reducible apply readThen_keeps
    | dsimp only
    | (refine Keeps.of_eq (by with_reducible assumption) ?_)
    | with_reducible apply upd_keeps

theorem pinAction_keeps {o s : State} (h : Keeps o s) (a : BitVec 128) : Keeps o (pinAction s a) := by
  unfold pinAction
  iterate 25 all_goals try first
    | with_reducible assumption
    | with_reducible apply State.modProfile_keeps
    | with_reducible apply startFetch_keeps
    | split
    | with_reducible apply next_keeps
    | with_reducible apply upd_keeps

theorem armTxn_keeps {o s : State} (h : Keeps o s) (a0 : Txn) : Keeps o (armTxn a0 s) := by
  unfold armTxn
  iterate 25 all_goals try first
    | with_reducible assumption
    | with_reducible exact Keeps.refl _
    | with_reducible apply setOutcome_keeps
    | with_reducible apply refreshHolds_keeps
    | with_reducible apply putTxn_keeps
    | with_reducible apply pinAction_keeps
    | intro _
    | split
    | with_reducible apply ite_keeps
    | with_reducible apply ite2_keeps
    | with_reducible apply iteR_keeps
    | with_reducible apply next_keeps
    | with_reducible apply each_keeps
    | with_reducible apply foldl_keeps'
    | with_reducible apply foldl2_keeps
    | with_reducible apply foldl3_keeps
    | with_reducible apply foldl4_keeps
    | with_reducible apply chain_keeps
    | with_reducible apply gather_keeps
    | with_reducible apply readThen_keeps
    | dsimp only
    | (refine Keeps.of_eq (by with_reducible assumption) ?_)
    | with_reducible apply upd_keeps

theorem tryArm_keeps {o s : State} (h : Keeps o s) (id : W32) : Keeps o (tryArm id s) := by
  unfold tryArm
  iterate 25 all_goals try first
    | with_reducible assumption
    | with_reducible apply State.modTxn_keeps
    | with_reducible apply finishTxn_keeps
    | with_reducible apply armTxn_keeps
    | with_reducible apply record_keeps
    | split
    | with_reducible apply next_keeps
    | with_reducible apply upd_keeps

theorem txnTick_keeps {o s : State} (h : Keeps o s) : Keeps o (txnTick s) := by
  unfold txnTick
  iterate 25 all_goals try first
    | with_reducible assumption
    | with_reducible exact Keeps.refl _
    | with_reducible apply applyDue_keeps
    | with_reducible apply tryArm_keeps
    | intro _
    | split
    | with_reducible apply ite_keeps
    | with_reducible apply ite2_keeps
    | with_reducible apply iteR_keeps
    | with_reducible apply next_keeps
    | with_reducible apply each_keeps
    | with_reducible apply foldl_keeps'
    | with_reducible apply foldl2_keeps
    | with_reducible apply foldl3_keeps
    | with_reducible apply foldl4_keeps
    | with_reducible apply chain_keeps
    | with_reducible apply gather_keeps
    | with_reducible apply readThen_keeps
    | dsimp only
    | (refine Keeps.of_eq (by with_reducible assumption) ?_)
    | with_reducible apply upd_keeps

theorem txnDone_keeps {o s : State} (h : Keeps o s) : Keeps o (txnDone s) := by
  unfold txnDone
  iterate 25 all_goals try first
    | with_reducible assumption
    | with_reducible exact Keeps.refl _
    | with_reducible apply doneTxn_keeps
    | with_reducible apply settleTxns_keeps
    | intro _
    | split
    | with_reducible apply ite_keeps
    | with_reducible apply ite2_keeps
    | with_reducible apply iteR_keeps
    | with_reducible apply next_keeps
    | with_reducible apply each_keeps
    | with_reducible apply foldl_keeps'
    | with_reducible apply foldl2_keeps
    | with_reducible apply foldl3_keeps
    | with_reducible apply foldl4_keeps
    | with_reducible apply chain_keeps
    | with_reducible apply gather_keeps
    | with_reducible apply readThen_keeps
    | dsimp only
    | (refine Keeps.of_eq (by with_reducible assumption) ?_)
    | with_reducible apply upd_keeps

theorem txnErr_keeps {o s : State} (h : Keeps o s) (a0 : Nat) : Keeps o (txnErr a0 s) := by
  unfold txnErr
  iterate 25 all_goals try first
    | with_reducible assumption
    | with_reducible apply State.modSt_keeps
    | split
    | with_reducible apply next_keeps
    | with_reducible apply upd_keeps

theorem txnAppend_keeps {o s : State} (h : Keeps o s) (a0 : Nat) : Keeps o (txnAppend a0 s) := by
  unfold txnAppend
  iterate 25 all_goals try first
    | with_reducible assumption
    | with_reducible apply txnErr_keeps
    | with_reducible apply State.modSt_keeps
    | split
    | with_reducible apply next_keeps
    | with_reducible apply upd_keeps

theorem runImmediate_keeps {o s : State} (h : Keeps o s) (a0 : Txn) : Keeps o (runImmediate a0 s) := by
  unfold runImmediate
  iterate 25 all_goals try first
    | with_reducible assumption
    | with_reducible exact Keeps.refl _
    | with_reducible apply joinRound_keeps
    | with_reducible apply applyDue_keeps
    | with_reducible apply armTxn_keeps
    | with_reducible apply progress_keeps
    | with_reducible apply applyAction_keeps
    | with_reducible apply settleTxns_keeps
    | intro _
    | split
    | with_reducible apply ite_keeps
    | with_reducible apply ite2_keeps
    | with_reducible apply iteR_keeps
    | with_reducible apply next_keeps
    | with_reducible apply each_keeps
    | with_reducible apply foldl_keeps'
    | with_reducible apply foldl2_keeps
    | with_reducible apply foldl3_keeps
    | with_reducible apply foldl4_keeps
    | with_reducible apply chain_keeps
    | with_reducible apply gather_keeps
    | with_reducible apply readThen_keeps
    | dsimp only
    | (refine Keeps.of_eq (by with_reducible assumption) ?_)
    | with_reducible apply upd_keeps

theorem txnSubmit_keeps {o s : State} (h : Keeps o s) (a0 : Nat) (immediate : Bool) (rtppos : Bool) : Keeps o (txnSubmit a0 immediate rtppos s) := by
  unfold txnSubmit
  iterate 25 all_goals try first
    | with_reducible assumption
    | with_reducible apply newOutcome_keeps
    | with_reducible apply State.modTxn_keeps
    | with_reducible apply runImmediate_keeps
    | with_reducible apply State.modSt_keeps
    | split
    | with_reducible apply next_keeps
    | with_reducible apply upd_keeps

theorem execTxnSubmit_keeps {o s : State} (h : Keeps o s) (a0 : Nat) (immediate : Bool) (rtppos : Bool) : KeepsR o (execTxnSubmit a0 immediate rtppos s) := by
  unfold execTxnSubmit
  iterate 25 all_goals try first
    | with_reducible assumption
    | with_reducible exact Keeps.refl _
    | with_reducible apply byReader_keeps
    | with_reducible apply txnSubmit_keeps
    | intro _
    | split
    | with_reducible apply ite_keeps
    | with_reducible apply ite2_keeps
    | with_reducible apply iteR_keeps
    | with_reducible apply next_keeps
    | with_reducible apply each_keeps
    | with_reducible apply foldl_keeps'
    | with_reducible apply foldl2_keeps
    | with_reducible apply foldl3_keeps
    | with_reducible apply foldl4_keeps
    | with_reducible apply chain_keeps
    | with_reducible apply gather_keeps
    | with_reducible apply readThen_keeps
    | dsimp only
    | (refine Keeps.of_eq (by with_reducible assumption) ?_)
    | with_reducible apply upd_keeps

theorem execTxnAppend_keeps {o s : State} (h : Keeps o s) (a0 : Nat) : KeepsR o (execTxnAppend a0 s) := by
  unfold execTxnAppend
  iterate 25 all_goals try first
    | with_reducible assumption
    | with_reducible exact Keeps.refl _
    | with_reducible apply txnAppend_keeps
    | with_reducible apply byReader_keeps
    | intro _
    | split
    | with_reducible apply ite_keeps
    | with_reducible apply ite2_keeps
    | with_reducible apply iteR_keeps
    | with_reducible apply next_keeps
    | with_reducible apply each_keeps
    | with_reducible apply foldl_keeps'
    | with_reducible apply foldl2_keeps
    | with_reducible apply foldl3_keeps
    | with_reducible apply foldl4_keeps
    | with_reducible apply chain_keeps
    | with_reducible apply gather_keeps
    | with_reducible apply readThen_keeps
    | dsimp only
    | (refine Keeps.of_eq (by with_reducible assumption) ?_)
    | with_reducible apply upd_keeps

theorem execTxnClear_keeps {o s : State} (h : Keeps o s) (a0 : Nat) : KeepsR o (execTxnClear a0 s) := by
  unfold execTxnClear
  iterate 25 all_goals try first
    | with_reducible assumption
    | with_reducible exact Keeps.refl _
    | with_reducible apply byReader_keeps
    | with_reducible apply txnClear_keeps
    | intro _
    | split
    | with_reducible apply ite_keeps
    | with_reducible apply ite2_keeps
    | with_reducible apply iteR_keeps
    | with_reducible apply next_keeps
    | with_reducible apply each_keeps
    | with_reducible apply foldl_keeps'
    | with_reducible apply foldl2_keeps
    | with_reducible apply foldl3_keeps
    | with_reducible apply foldl4_keeps
    | with_reducible apply chain_keeps
    | with_reducible apply gather_keeps
    | with_reducible apply readThen_keeps
    | dsimp only
    | (refine Keeps.of_eq (by with_reducible assumption) ?_)
    | with_reducible apply upd_keeps

theorem txnCancel_keeps {o s : State} (h : Keeps o s) (a0 : Nat) : Keeps o (txnCancel a0 s) := by
  unfold txnCancel
  iterate 25 all_goals try first
    | with_reducible assumption
    | with_reducible apply txnErr_keeps
    | with_reducible apply finishTxn_keeps
    | split
    | with_reducible apply next_keeps
    | with_reducible apply upd_keeps

theorem execTxnCancel_keeps {o s : State} (h : Keeps o s) (a0 : Nat) : KeepsR o (execTxnCancel a0 s) := by
  unfold execTxnCancel
  iterate 25 all_goals try first
    | with_reducible assumption
    | with_reducible exact Keeps.refl _
    | with_reducible apply byReader_keeps
    | with_reducible apply txnCancel_keeps
    | intro _
    | split
    | with_reducible apply ite_keeps
    | with_reducible apply ite2_keeps
    | with_reducible apply iteR_keeps
    | with_reducible apply next_keeps
    | with_reducible apply each_keeps
    | with_reducible apply foldl_keeps'
    | with_reducible apply foldl2_keeps
    | with_reducible apply foldl3_keeps
    | with_reducible apply foldl4_keeps
    | with_reducible apply chain_keeps
    | with_reducible apply gather_keeps
    | with_reducible apply readThen_keeps
    | dsimp only
    | (refine Keeps.of_eq (by with_reducible assumption) ?_)
    | with_reducible apply upd_keeps

theorem writeTxn_keeps {o s : State} (h : Keeps o s) (a0 : Nat) (off : Nat) (v : W32) : Keeps o (writeTxn a0 off v s) := by
  unfold writeTxn
  iterate 25 all_goals try first
    | with_reducible assumption
    | with_reducible apply txnAppend_keeps
    | with_reducible apply txnErr_keeps
    | with_reducible apply txnClear_keeps
    | with_reducible apply txnCancel_keeps
    | with_reducible apply txnSubmit_keeps
    | with_reducible apply State.modSt_keeps
    | split
    | with_reducible apply next_keeps
    | with_reducible apply upd_keeps

theorem State.modTl_keeps {o s : State} (h : Keeps o s) (f : Timeline → Timeline) : Keeps o (State.modTl s f) := by
  unfold State.modTl
  iterate 25 all_goals try first
    | with_reducible assumption
    | split
    | with_reducible apply next_keeps
    | with_reducible apply upd_keeps

theorem State.modPeriod_keeps {o s : State} (h : Keeps o s) (f : Period → Period) : Keeps o (State.modPeriod s f) := by
  unfold State.modPeriod
  iterate 25 all_goals try first
    | with_reducible assumption
    | split
    | with_reducible apply next_keeps
    | with_reducible apply upd_keeps

theorem enterTl_keeps {o s : State} (h : Keeps o s) (st : TlState) : Keeps o (enterTl st s) := by
  unfold enterTl
  iterate 25 all_goals try first
    | with_reducible assumption
    | with_reducible apply fire_keeps
    | with_reducible apply record_keeps
    | with_reducible apply State.modTl_keeps
    | with_reducible apply State.modPeriod_keeps
    | split
    | with_reducible apply next_keeps
    | with_reducible apply upd_keeps

theorem servoState_keeps {o s : State} (h : Keeps o s) (offset : Int) : Keeps o (servoState offset s) := by
  unfold servoState
  iterate 25 all_goals try first
    | with_reducible assumption
    | with_reducible apply enterTl_keeps
    | with_reducible apply State.modTl_keeps
    | split
    | with_reducible apply next_keeps
    | with_reducible apply upd_keeps

theorem trackFar_keeps {o s : State} (h : Keeps o s) (target : W64) : Keeps o (trackFar target s) := by
  unfold trackFar
  iterate 25 all_goals try first
    | with_reducible assumption
    | with_reducible apply fire_keeps
    | with_reducible apply record_keeps
    | with_reducible apply State.modTl_keeps
    | split
    | with_reducible apply next_keeps
    | with_reducible apply upd_keeps

theorem execPtpSync_keeps {o s : State} (h : Keeps o s) (sec : BitVec 48) (ns : BitVec 30) (offset : Int) : KeepsR o (execPtpSync sec ns offset s) := by
  unfold execPtpSync
  iterate 25 all_goals try first
    | with_reducible assumption
    | with_reducible exact Keeps.refl _
    | with_reducible apply done_keeps
    | with_reducible apply servoState_keeps
    | with_reducible apply State.modEth_keeps
    | with_reducible apply State.modTl_keeps
    | with_reducible apply trackFar_keeps
    | intro _
    | split
    | with_reducible apply ite_keeps
    | with_reducible apply ite2_keeps
    | with_reducible apply iteR_keeps
    | with_reducible apply next_keeps
    | with_reducible apply each_keeps
    | with_reducible apply foldl_keeps'
    | with_reducible apply foldl2_keeps
    | with_reducible apply foldl3_keeps
    | with_reducible apply foldl4_keeps
    | with_reducible apply chain_keeps
    | with_reducible apply gather_keeps
    | with_reducible apply readThen_keeps
    | dsimp only
    | (refine Keeps.of_eq (by with_reducible assumption) ?_)
    | with_reducible apply upd_keeps

theorem jumpTo_keeps {o s : State} (h : Keeps o s) (new : W64) (kind : W32) : Keeps o (jumpTo new kind s) := by
  unfold jumpTo
  iterate 25 all_goals try first
    | with_reducible assumption
    | with_reducible apply fire_keeps
    | with_reducible apply record_keeps
    | with_reducible apply State.modTl_keeps
    | with_reducible apply State.modPeriod_keeps
    | split
    | with_reducible apply next_keeps
    | with_reducible apply upd_keeps

theorem latchPeriod_keeps {o s : State} (h : Keeps o s) (cc : Nat) : Keeps o (latchPeriod cc s) := by
  unfold latchPeriod
  iterate 25 all_goals try first
    | with_reducible assumption
    | with_reducible exact Keeps.refl _
    | with_reducible apply State.modStage_keeps
    | with_reducible apply State.modPeriod_keeps
    | intro _
    | split
    | with_reducible apply ite_keeps
    | with_reducible apply ite2_keeps
    | with_reducible apply iteR_keeps
    | with_reducible apply next_keeps
    | with_reducible apply each_keeps
    | with_reducible apply foldl_keeps'
    | with_reducible apply foldl2_keeps
    | with_reducible apply foldl3_keeps
    | with_reducible apply foldl4_keeps
    | with_reducible apply chain_keeps
    | with_reducible apply gather_keeps
    | with_reducible apply readThen_keeps
    | dsimp only
    | (refine Keeps.of_eq (by with_reducible assumption) ?_)
    | with_reducible apply upd_keeps

theorem reachBoundary_keeps {o s : State} (h : Keeps o s) (cc : Nat) : Keeps o (reachBoundary cc s) := by
  unfold reachBoundary
  iterate 25 all_goals try first
    | with_reducible assumption
    | with_reducible apply latchPeriod_keeps
    | with_reducible apply State.modPeriod_keeps
    | split
    | with_reducible apply next_keeps
    | with_reducible apply upd_keeps

theorem State.laterCycle_keeps {o s : State} (h : Keeps o s) : Keeps o (State.laterCycle s).2 := by
  unfold State.laterCycle
  iterate 25 all_goals try first
    | with_reducible assumption
    | with_reducible apply State.takeFree_keeps
    | split
    | with_reducible apply next_keeps
    | with_reducible apply upd_keeps

theorem ptpStep_keeps {o s : State} (h : Keeps o s) (sec : BitVec 48) (ns : BitVec 30) : Keeps o (ptpStep sec ns s) := by
  unfold ptpStep
  iterate 25 all_goals try first
    | with_reducible assumption
    | with_reducible apply jumpTo_keeps
    | with_reducible apply reachBoundary_keeps
    | with_reducible apply State.modTl_keeps
    | with_reducible apply State.laterCycle_keeps
    | split
    | with_reducible apply next_keeps
    | with_reducible apply upd_keeps

theorem readPosLo_keeps {o s : State} (h : Keeps o s) (a0 : Nat) : Keeps o (readPosLo a0 s).2 := by
  unfold readPosLo
  iterate 25 all_goals try first
    | with_reducible assumption
    | with_reducible apply State.modReader_keeps
    | split
    | with_reducible apply next_keeps
    | with_reducible apply upd_keeps

theorem execAnnounceReceiptTimeout_keeps {o s : State} (h : Keeps o s) : KeepsR o (execAnnounceReceiptTimeout s) := by
  unfold execAnnounceReceiptTimeout
  iterate 25 all_goals try first
    | with_reducible assumption
    | with_reducible apply done_keeps
    | with_reducible apply State.modEth_keeps
    | split
    | with_reducible apply next_keeps
    | with_reducible apply upd_keeps

theorem loseSource_keeps {o s : State} (h : Keeps o s) : Keeps o (loseSource s) := by
  unfold loseSource
  iterate 25 all_goals try first
    | with_reducible assumption
    | with_reducible apply enterTl_keeps
    | with_reducible apply State.modTl_keeps
    | split
    | with_reducible apply next_keeps
    | with_reducible apply upd_keeps

theorem tlErr_keeps {o s : State} (h : Keeps o s) : Keeps o (tlErr s) := by
  unfold tlErr
  iterate 25 all_goals try first
    | with_reducible assumption
    | with_reducible apply State.modTl_keeps
    | split
    | with_reducible apply next_keeps
    | with_reducible apply upd_keeps

theorem writeStatLen_keeps {o s : State} (h : Keeps o s) (v : W32) : Keeps o (writeStatLen v s) := by
  unfold writeStatLen
  iterate 25 all_goals try first
    | with_reducible assumption
    | with_reducible apply tlErr_keeps
    | with_reducible apply State.modPeriod_keeps
    | split
    | with_reducible apply next_keeps
    | with_reducible apply upd_keeps

theorem changeSrc_keeps {o s : State} (h : Keeps o s) (src : BitVec 2) : Keeps o (changeSrc src s) := by
  unfold changeSrc
  iterate 25 all_goals try first
    | with_reducible assumption
    | with_reducible apply enterTl_keeps
    | with_reducible apply State.modTl_keeps
    | with_reducible apply State.modPeriod_keeps
    | split
    | with_reducible apply next_keeps
    | with_reducible apply upd_keeps

theorem writeTlCtrl_keeps {o s : State} (h : Keeps o s) (v : W32) : Keeps o (writeTlCtrl v s) := by
  unfold writeTlCtrl
  iterate 25 all_goals try first
    | with_reducible assumption
    | with_reducible apply changeSrc_keeps
    | with_reducible apply State.modTl_keeps
    | with_reducible apply tlErr_keeps
    | split
    | with_reducible apply next_keeps
    | with_reducible apply upd_keeps

theorem tlLoad_keeps {o s : State} (h : Keeps o s) : Keeps o (tlLoad s) := by
  unfold tlLoad
  iterate 25 all_goals try first
    | with_reducible assumption
    | with_reducible apply State.modTl_keeps
    | with_reducible apply tlErr_keeps
    | split
    | with_reducible apply next_keeps
    | with_reducible apply upd_keeps

theorem tlStep_keeps {o s : State} (h : Keeps o s) (sec : BitVec 48) (ns : BitVec 30) : Keeps o (tlStep sec ns s) := by
  unfold tlStep
  iterate 25 all_goals try first
    | with_reducible assumption
    | with_reducible apply ptpStep_keeps
    | with_reducible apply tlErr_keeps
    | split
    | with_reducible apply next_keeps
    | with_reducible apply upd_keeps

theorem writeTimeline_keeps {o s : State} (h : Keeps o s) (off : Nat) (v : W32) : Keeps o (writeTimeline off v s) := by
  unfold writeTimeline
  iterate 25 all_goals try first
    | with_reducible assumption
    | with_reducible apply writeStatLen_keeps
    | with_reducible apply writeTlCtrl_keeps
    | with_reducible apply State.modTl_keeps
    | with_reducible apply tlErr_keeps
    | with_reducible apply tlLoad_keeps
    | with_reducible apply tlStep_keeps
    | split
    | with_reducible apply next_keeps
    | with_reducible apply upd_keeps

theorem execTlStep_keeps {o s : State} (h : Keeps o s) (a0 : Nat) (sec : BitVec 48) (ns : BitVec 30) : KeepsR o (execTlStep a0 sec ns s) := by
  unfold execTlStep
  iterate 25 all_goals try first
    | with_reducible assumption
    | with_reducible exact Keeps.refl _
    | with_reducible apply byReader_keeps
    | with_reducible apply tlStep_keeps
    | intro _
    | split
    | with_reducible apply ite_keeps
    | with_reducible apply ite2_keeps
    | with_reducible apply iteR_keeps
    | with_reducible apply next_keeps
    | with_reducible apply each_keeps
    | with_reducible apply foldl_keeps'
    | with_reducible apply foldl2_keeps
    | with_reducible apply foldl3_keeps
    | with_reducible apply foldl4_keeps
    | with_reducible apply chain_keeps
    | with_reducible apply gather_keeps
    | with_reducible apply readThen_keeps
    | dsimp only
    | (refine Keeps.of_eq (by with_reducible assumption) ?_)
    | with_reducible apply upd_keeps

theorem readTimeline_keeps {o s : State} (h : Keeps o s) (a0 : Nat) (off : Nat) : Keeps o (readTimeline a0 off s).2 := by
  unfold readTimeline
  iterate 25 all_goals try first
    | with_reducible assumption
    | with_reducible apply readPosLo_keeps
    | split
    | with_reducible apply next_keeps
    | with_reducible apply upd_keeps

theorem slotsLeave_keeps {o s : State} (h : Keeps o s) (id : Nat) : Keeps o (slotsLeave s id) := by
  unfold slotsLeave
  iterate 25 all_goals try first
    | with_reducible assumption
    | with_reducible exact Keeps.refl _
    | with_reducible apply leaveSlot_keeps
    | with_reducible apply checkDrained_keeps
    | intro _
    | split
    | with_reducible apply ite_keeps
    | with_reducible apply ite2_keeps
    | with_reducible apply iteR_keeps
    | with_reducible apply next_keeps
    | with_reducible apply each_keeps
    | with_reducible apply foldl_keeps'
    | with_reducible apply foldl2_keeps
    | with_reducible apply foldl3_keeps
    | with_reducible apply foldl4_keeps
    | with_reducible apply chain_keeps
    | with_reducible apply gather_keeps
    | with_reducible apply readThen_keeps
    | dsimp only
    | (refine Keeps.of_eq (by with_reducible assumption) ?_)
    | with_reducible apply upd_keeps

theorem reachPosition_keeps {o s : State} (h : Keeps o s) (cc : Nat) (sapPin : Bool) : Keeps o (reachPosition cc sapPin s) := by
  unfold reachPosition
  iterate 25 all_goals try first
    | with_reducible assumption
    | with_reducible exact Keeps.refl _
    | with_reducible apply reachBoundary_keeps
    | with_reducible apply createRounds_keeps
    | with_reducible apply txnDone_keeps
    | with_reducible apply rtpTick_keeps
    | with_reducible apply samplePin_keeps
    | with_reducible apply State.modTl_keeps
    | with_reducible apply txnTick_keeps
    | with_reducible apply slotStart_keeps
    | with_reducible apply slotsLeave_keeps
    | intro _
    | split
    | with_reducible apply ite_keeps
    | with_reducible apply ite2_keeps
    | with_reducible apply iteR_keeps
    | with_reducible apply next_keeps
    | with_reducible apply each_keeps
    | with_reducible apply foldl_keeps'
    | with_reducible apply foldl2_keeps
    | with_reducible apply foldl3_keeps
    | with_reducible apply foldl4_keeps
    | with_reducible apply chain_keeps
    | with_reducible apply gather_keeps
    | with_reducible apply readThen_keeps
    | dsimp only
    | (refine Keeps.of_eq (by with_reducible assumption) ?_)
    | with_reducible apply upd_keeps

theorem execTlIncrement_keeps {o s : State} (h : Keeps o s) (tau : Nat) (sapStart : Bool) (cc : Nat) : KeepsR o (execTlIncrement tau sapStart cc s) := by
  unfold execTlIncrement
  iterate 25 all_goals try first
    | with_reducible assumption
    | with_reducible apply done_keeps
    | with_reducible apply jumpTo_keeps
    | with_reducible apply reachPosition_keeps
    | with_reducible apply State.modTl_keeps
    | split
    | with_reducible apply next_keeps
    | with_reducible apply upd_keeps

theorem execTlAutoStep_keeps {o s : State} (h : Keeps o s) (sec : BitVec 48) (ns : BitVec 30) : KeepsR o (execTlAutoStep sec ns s) := by
  unfold execTlAutoStep
  iterate 25 all_goals try first
    | with_reducible assumption
    | with_reducible apply done_keeps
    | with_reducible apply ptpStep_keeps
    | split
    | with_reducible apply next_keeps
    | with_reducible apply upd_keeps

theorem execWclkLoss_keeps {o s : State} (h : Keeps o s) (since : Nat) : KeepsR o (execWclkLoss since s) := by
  unfold execWclkLoss
  iterate 25 all_goals try first
    | with_reducible assumption
    | with_reducible apply done_keeps
    | with_reducible apply loseSource_keeps
    | split
    | with_reducible apply next_keeps
    | with_reducible apply upd_keeps

theorem latchEvents_keeps {o s : State} (h : Keeps o s) (seq : W32) (e : Nat × QuantSlot) : Keeps o (latchEvents seq s e) := by
  unfold latchEvents
  iterate 25 all_goals try first
    | with_reducible assumption
    | with_reducible apply record_keeps
    | split
    | with_reducible apply next_keeps
    | with_reducible apply upd_keeps

theorem execQuantLatch_keeps {o s : State} (h : Keeps o s) : KeepsR o (execQuantLatch s) := by
  unfold execQuantLatch
  iterate 25 all_goals try first
    | with_reducible assumption
    | with_reducible exact Keeps.refl _
    | with_reducible apply done_keeps
    | with_reducible apply fire_keeps
    | with_reducible apply latchEvents_keeps
    | intro _
    | split
    | with_reducible apply ite_keeps
    | with_reducible apply ite2_keeps
    | with_reducible apply iteR_keeps
    | with_reducible apply next_keeps
    | with_reducible apply each_keeps
    | with_reducible apply foldl_keeps'
    | with_reducible apply foldl2_keeps
    | with_reducible apply foldl3_keeps
    | with_reducible apply foldl4_keeps
    | with_reducible apply chain_keeps
    | with_reducible apply gather_keeps
    | with_reducible apply readThen_keeps
    | dsimp only
    | (refine Keeps.of_eq (by with_reducible assumption) ?_)
    | with_reducible apply upd_keeps

theorem execTlStatLen_keeps {o s : State} (h : Keeps o s) (a0 : Nat) (v : W32) : KeepsR o (execTlStatLen a0 v s) := by
  unfold execTlStatLen
  iterate 25 all_goals try first
    | with_reducible assumption
    | with_reducible exact Keeps.refl _
    | with_reducible apply byReader_keeps
    | with_reducible apply writeStatLen_keeps
    | intro _
    | split
    | with_reducible apply ite_keeps
    | with_reducible apply ite2_keeps
    | with_reducible apply iteR_keeps
    | with_reducible apply next_keeps
    | with_reducible apply each_keeps
    | with_reducible apply foldl_keeps'
    | with_reducible apply foldl2_keeps
    | with_reducible apply foldl3_keeps
    | with_reducible apply foldl4_keeps
    | with_reducible apply chain_keeps
    | with_reducible apply gather_keeps
    | with_reducible apply readThen_keeps
    | dsimp only
    | (refine Keeps.of_eq (by with_reducible assumption) ?_)
    | with_reducible apply upd_keeps

theorem execTlPosLo_keeps {o s : State} (h : Keeps o s) (a0 : Nat) : KeepsR o (execTlPosLo a0 s) := by
  unfold execTlPosLo
  iterate 25 all_goals try first
    | with_reducible assumption
    | with_reducible exact Keeps.refl _
    | with_reducible apply byReader_keeps
    | with_reducible apply readPosLo_keeps
    | intro _
    | split
    | with_reducible apply ite_keeps
    | with_reducible apply ite2_keeps
    | with_reducible apply iteR_keeps
    | with_reducible apply next_keeps
    | with_reducible apply each_keeps
    | with_reducible apply foldl_keeps'
    | with_reducible apply foldl2_keeps
    | with_reducible apply foldl3_keeps
    | with_reducible apply foldl4_keeps
    | with_reducible apply chain_keeps
    | with_reducible apply gather_keeps
    | with_reducible apply readThen_keeps
    | dsimp only
    | (refine Keeps.of_eq (by with_reducible assumption) ?_)
    | with_reducible apply upd_keeps

theorem execPtpAnnounce_keeps {o s : State} (h : Keeps o s) (a : Announce) : KeepsR o (execPtpAnnounce a s) := by
  unfold execPtpAnnounce
  iterate 25 all_goals try first
    | with_reducible assumption
    | with_reducible apply done_keeps
    | with_reducible apply fire_keeps
    | with_reducible apply record_keeps
    | with_reducible apply State.modEth_keeps
    | split
    | with_reducible apply next_keeps
    | with_reducible apply upd_keeps

theorem execTlCtrl_keeps {o s : State} (h : Keeps o s) (a0 : Nat) (v : W32) : KeepsR o (execTlCtrl a0 v s) := by
  unfold execTlCtrl
  iterate 25 all_goals try first
    | with_reducible assumption
    | with_reducible exact Keeps.refl _
    | with_reducible apply byReader_keeps
    | with_reducible apply writeTlCtrl_keeps
    | intro _
    | split
    | with_reducible apply ite_keeps
    | with_reducible apply ite2_keeps
    | with_reducible apply iteR_keeps
    | with_reducible apply next_keeps
    | with_reducible apply each_keeps
    | with_reducible apply foldl_keeps'
    | with_reducible apply foldl2_keeps
    | with_reducible apply foldl3_keeps
    | with_reducible apply foldl4_keeps
    | with_reducible apply chain_keeps
    | with_reducible apply gather_keeps
    | with_reducible apply readThen_keeps
    | dsimp only
    | (refine Keeps.of_eq (by with_reducible assumption) ?_)
    | with_reducible apply upd_keeps

theorem execPtpLoss_keeps {o s : State} (h : Keeps o s) (ms : Nat) : KeepsR o (execPtpLoss ms s) := by
  unfold execPtpLoss
  iterate 25 all_goals try first
    | with_reducible assumption
    | with_reducible apply done_keeps
    | with_reducible apply loseSource_keeps
    | split
    | with_reducible apply next_keeps
    | with_reducible apply upd_keeps

theorem execWclkInEdge_keeps {o s : State} (h : Keeps o s) (since : Nat) (sinceInc : Nat) : KeepsR o (execWclkInEdge since sinceInc s) := by
  unfold execWclkInEdge
  iterate 25 all_goals try first
    | with_reducible assumption
    | with_reducible apply done_keeps
    | with_reducible apply enterTl_keeps
    | with_reducible apply State.modTl_keeps
    | split
    | with_reducible apply next_keeps
    | with_reducible apply upd_keeps

theorem execTlLoad_keeps {o s : State} (h : Keeps o s) (a0 : Nat) : KeepsR o (execTlLoad a0 s) := by
  unfold execTlLoad
  iterate 25 all_goals try first
    | with_reducible assumption
    | with_reducible apply byReader_keeps
    | with_reducible apply tlLoad_keeps
    | split
    | with_reducible apply next_keeps
    | with_reducible apply upd_keeps

theorem takeTile_keeps {o s : State} (h : Keeps o s) (src : Peer) (m : List Byte) : Keeps o (takeTile src m s) := by
  unfold takeTile
  iterate 25 all_goals try first
    | with_reducible assumption
    | with_reducible apply arriveBuffer_keeps
    | with_reducible apply writeTile_keeps
    | split
    | with_reducible apply next_keeps
    | with_reducible apply upd_keeps

theorem admitMember_keeps {o s : State} (h : Keeps o s) (owner : W16) (stream : W16) (p : PlanEnt) (id : Nat) (j : Nat) : Keeps o (admitMember owner stream p id j s) := by
  unfold admitMember
  iterate 25 all_goals try first
    | with_reducible assumption
    | with_reducible apply takeLoad_keeps
    | with_reducible apply initCarried_keeps
    | with_reducible apply State.modStream_keeps
    | with_reducible apply dropCarried_keeps
    | split
    | with_reducible apply next_keeps
    | with_reducible apply upd_keeps

theorem ringAdmit_keeps {o s : State} (h : Keeps o s) (owner : W16) (stream : W16) (plan : Nat) (sender : Nat) (code : Nat) (imageId : W64) : Keeps o (ringAdmit owner stream plan sender code imageId s) := by
  unfold ringAdmit
  iterate 25 all_goals try first
    | with_reducible assumption
    | with_reducible apply passAdmit_keeps
    | with_reducible apply admitMember_keeps
    | with_reducible apply finishRingOpen_keeps
    | split
    | with_reducible apply next_keeps
    | with_reducible apply upd_keeps

theorem ringMessage_keeps {o s : State} (h : Keeps o s) (m : List Byte) : Keeps o (ringMessage m s) := by
  unfold ringMessage
  iterate 25 all_goals try first
    | with_reducible assumption
    | with_reducible apply ringAdmit_keeps
    | with_reducible apply abortHere_keeps
    | with_reducible apply freeStream_keeps
    | split
    | with_reducible apply next_keeps
    | with_reducible apply upd_keeps

theorem mseqGap_keeps {o s : State} (h : Keeps o s) (typ : Nat) (src : W16) (links : List Nat) (expected : W32) (got : W32) : Keeps o (mseqGap typ src links expected got s) := by
  unfold mseqGap
  iterate 25 all_goals try first
    | with_reducible assumption
    | with_reducible exact Keeps.refl _
    | with_reducible apply abortStream_keeps
    | with_reducible apply fire_keeps
    | with_reducible apply haltChain_keeps
    | with_reducible apply record_keeps
    | with_reducible apply State.modKl_keeps
    | with_reducible apply State.takeFree_keeps
    | intro _
    | split
    | with_reducible apply ite_keeps
    | with_reducible apply ite2_keeps
    | with_reducible apply iteR_keeps
    | with_reducible apply next_keeps
    | with_reducible apply each_keeps
    | with_reducible apply foldl_keeps'
    | with_reducible apply foldl2_keeps
    | with_reducible apply foldl3_keeps
    | with_reducible apply foldl4_keeps
    | with_reducible apply chain_keeps
    | with_reducible apply gather_keeps
    | with_reducible apply readThen_keeps
    | dsimp only
    | (refine Keeps.of_eq (by with_reducible assumption) ?_)
    | with_reducible apply upd_keeps

theorem deviceMessage_keeps {o s : State} (h : Keeps o s) (typ : Nat) (via : Option Nat) (q : Req) (links : List Nat) (count : Nat) {f : Peer → State → State} (hf : ∀ {o s : State} (p : Peer), Keeps o s → Keeps o (f p s)) : Keeps o (deviceMessage typ via q links count f s) := by
  unfold deviceMessage
  iterate 25 all_goals try first
    | with_reducible assumption
    | with_reducible apply rxBad_keeps
    | with_reducible apply rxDrop_keeps
    | with_reducible apply sendOut_keeps
    | with_reducible apply State.modKl_keeps
    | with_reducible apply mseqGap_keeps
    | with_reducible apply hf
    | split

theorem ringCommand_keeps {o s : State} (h : Keeps o s) (op : Nat) (via : Option Nat) (q : Req) : Keeps o (ringCommand op via q s) := by
  unfold ringCommand
  iterate 25 all_goals try first
    | with_reducible assumption
    | with_reducible exact Keeps.refl _
    | with_reducible apply ringMessage_keeps
    | with_reducible apply deviceMessage_keeps
    | intro _
    | split
    | with_reducible apply ite_keeps
    | with_reducible apply ite2_keeps
    | with_reducible apply iteR_keeps
    | with_reducible apply next_keeps
    | with_reducible apply each_keeps
    | with_reducible apply foldl_keeps'
    | with_reducible apply foldl2_keeps
    | with_reducible apply foldl3_keeps
    | with_reducible apply foldl4_keeps
    | with_reducible apply chain_keeps
    | with_reducible apply gather_keeps
    | with_reducible apply readThen_keeps
    | dsimp only
    | (refine Keeps.of_eq (by with_reducible assumption) ?_)
    | with_reducible apply upd_keeps

theorem execRingClose_keeps {o s : State} (h : Keeps o s) (via : Option Nat) (q : Req) : KeepsR o (execRingClose via q s) := by
  unfold execRingClose
  iterate 25 all_goals try first
    | with_reducible assumption
    | with_reducible apply done_keeps
    | with_reducible apply ringCommand_keeps
    | split
    | with_reducible apply next_keeps
    | with_reducible apply upd_keeps

theorem takeSignal_keeps {o s : State} (h : Keeps o s) (src : Peer) (a1 : List Byte) : Keeps o (takeSignal src a1 s) := by
  unfold takeSignal
  iterate 25 all_goals try first
    | with_reducible assumption
    | with_reducible apply creditBranch_keeps
    | with_reducible apply arriveBuffer_keeps
    | with_reducible apply fillAll_keeps
    | with_reducible apply State.modKlink_keeps
    | with_reducible apply returnHandle_keeps
    | split
    | with_reducible apply next_keeps
    | with_reducible apply upd_keeps

theorem execRingLeaseExpiry_keeps {o s : State} (h : Keeps o s) (stream : Nat) : KeepsR o (execRingLeaseExpiry stream s) := by
  unfold execRingLeaseExpiry
  iterate 25 all_goals try first
    | with_reducible assumption
    | with_reducible apply done_keeps
    | with_reducible apply freeStream_keeps
    | split
    | with_reducible apply next_keeps
    | with_reducible apply upd_keeps

theorem execTile_keeps {o s : State} (h : Keeps o s) (via : Option Nat) (q : Req) : KeepsR o (execTile via q s) := by
  unfold execTile
  iterate 25 all_goals try first
    | with_reducible assumption
    | with_reducible exact Keeps.refl _
    | with_reducible apply done_keeps
    | with_reducible apply takeTile_keeps
    | with_reducible apply deviceMessage_keeps
    | intro _
    | split
    | with_reducible apply ite_keeps
    | with_reducible apply ite2_keeps
    | with_reducible apply iteR_keeps
    | with_reducible apply next_keeps
    | with_reducible apply each_keeps
    | with_reducible apply foldl_keeps'
    | with_reducible apply foldl2_keeps
    | with_reducible apply foldl3_keeps
    | with_reducible apply foldl4_keeps
    | with_reducible apply chain_keeps
    | with_reducible apply gather_keeps
    | with_reducible apply readThen_keeps
    | dsimp only
    | (refine Keeps.of_eq (by with_reducible assumption) ?_)
    | with_reducible apply upd_keeps

theorem execSignal_keeps {o s : State} (h : Keeps o s) (q : Req) : KeepsR o (execSignal q s) := by
  unfold execSignal
  iterate 25 all_goals try first
    | with_reducible assumption
    | with_reducible exact Keeps.refl _
    | with_reducible apply done_keeps
    | with_reducible apply takeSignal_keeps
    | with_reducible apply deviceMessage_keeps
    | intro _
    | split
    | with_reducible apply ite_keeps
    | with_reducible apply ite2_keeps
    | with_reducible apply iteR_keeps
    | with_reducible apply next_keeps
    | with_reducible apply each_keeps
    | with_reducible apply foldl_keeps'
    | with_reducible apply foldl2_keeps
    | with_reducible apply foldl3_keeps
    | with_reducible apply foldl4_keeps
    | with_reducible apply chain_keeps
    | with_reducible apply gather_keeps
    | with_reducible apply readThen_keeps
    | dsimp only
    | (refine Keeps.of_eq (by with_reducible assumption) ?_)
    | with_reducible apply upd_keeps

theorem execRingAbort_keeps {o s : State} (h : Keeps o s) (via : Option Nat) (q : Req) : KeepsR o (execRingAbort via q s) := by
  unfold execRingAbort
  iterate 25 all_goals try first
    | with_reducible assumption
    | with_reducible apply done_keeps
    | with_reducible apply ringCommand_keeps
    | split
    | with_reducible apply next_keeps
    | with_reducible apply upd_keeps

theorem takeRecords_keeps {o s : State} (h : Keeps o s) (src : Peer) (a1 : List (List Byte)) (a2 : List Byte) : Keeps o (takeRecords src a1 a2 s).2 := by
  induction a1 generalizing s src a2 with
  | nil =>
    unfold takeRecords
    iterate 25 all_goals try first
      | with_reducible assumption
      | with_reducible exact Keeps.refl _
      | with_reducible apply ringMessage_keeps
      | with_reducible apply takeSignal_keeps
      | intro _
      | split
      | with_reducible apply ite_keeps
      | with_reducible apply ite2_keeps
      | with_reducible apply iteR_keeps
      | with_reducible apply next_keeps
      | with_reducible apply each_keeps
      | with_reducible apply foldl_keeps'
      | with_reducible apply foldl2_keeps
      | with_reducible apply foldl3_keeps
      | with_reducible apply foldl4_keeps
      | with_reducible apply chain_keeps
      | with_reducible apply gather_keeps
      | with_reducible apply readThen_keeps
      | dsimp only
      | (refine Keeps.of_eq (by with_reducible assumption) ?_)
      | with_reducible apply upd_keeps
  | cons a l ih =>
    unfold takeRecords
    iterate 25 all_goals try first
      | with_reducible assumption
      | with_reducible exact Keeps.refl _
      | with_reducible apply ih
      | with_reducible apply ringMessage_keeps
      | with_reducible apply takeSignal_keeps
      | intro _
      | split
      | with_reducible apply ite_keeps
      | with_reducible apply ite2_keeps
      | with_reducible apply iteR_keeps
      | with_reducible apply next_keeps
      | with_reducible apply each_keeps
      | with_reducible apply foldl_keeps'
      | with_reducible apply foldl2_keeps
      | with_reducible apply foldl3_keeps
      | with_reducible apply foldl4_keeps
      | with_reducible apply chain_keeps
      | with_reducible apply gather_keeps
      | with_reducible apply readThen_keeps
      | dsimp only
      | (refine Keeps.of_eq (by with_reducible assumption) ?_)
      | with_reducible apply upd_keeps

theorem execRingAdmit_keeps {o s : State} (h : Keeps o s) (via : Option Nat) (q : Req) : KeepsR o (execRingAdmit via q s) := by
  unfold execRingAdmit
  iterate 25 all_goals try first
    | with_reducible assumption
    | with_reducible apply done_keeps
    | with_reducible apply ringCommand_keeps
    | split
    | with_reducible apply next_keeps
    | with_reducible apply upd_keeps

theorem takeCtrl_keeps {o s : State} (h : Keeps o s) (k : Nat) (body : List Byte) : Keeps o (takeCtrl k body s) := by
  unfold takeCtrl
  iterate 25 all_goals try first
    | with_reducible assumption
    | with_reducible apply takeRecords_keeps
    | with_reducible apply State.modKlink_keeps
    | split
    | with_reducible apply next_keeps
    | with_reducible apply upd_keeps

theorem takeData_keeps {o s : State} (h : Keeps o s) (k : Nat) (first : Bool) (body : List Byte) : Keeps o (takeData k first body s) := by
  unfold takeData
  iterate 25 all_goals try first
    | with_reducible assumption
    | with_reducible apply State.modKlink_keeps
    | with_reducible apply takeTile_keeps
    | split
    | with_reducible apply next_keeps
    | with_reducible apply upd_keeps

theorem takeFlit_keeps {o s : State} (h : Keeps o s) (k : Nat) (b : List Byte) : Keeps o (takeFlit k b s) := by
  unfold takeFlit
  iterate 25 all_goals try first
    | with_reducible assumption
    | with_reducible apply takeCtrl_keeps
    | with_reducible apply takeData_keeps
    | with_reducible apply State.modKlink_keeps
    | split
    | with_reducible apply next_keeps
    | with_reducible apply upd_keeps

theorem takeInit_keeps {o s : State} (h : Keeps o s) (k : Nat) (body : List Byte) : Keeps o (takeInit k body s) := by
  unfold takeInit
  iterate 25 all_goals try first
    | with_reducible assumption
    | with_reducible apply fire_keeps
    | with_reducible apply State.modKlink_keeps
    | with_reducible apply record_keeps
    | split
    | with_reducible apply next_keeps
    | with_reducible apply upd_keeps

theorem execFlitReceive_keeps {o s : State} (h : Keeps o s) (k : Nat) (bytes checks : List Byte) : KeepsR o (execFlitReceive k bytes checks s) := by
  unfold execFlitReceive
  iterate 25 all_goals try first
    | with_reducible assumption
    | with_reducible exact Keeps.refl _
    | with_reducible apply done_keeps
    | with_reducible apply takeFlit_keeps
    | with_reducible apply State.modKlink_keeps
    | with_reducible apply takeInit_keeps
    | intro _
    | split
    | with_reducible apply ite_keeps
    | with_reducible apply ite2_keeps
    | with_reducible apply iteR_keeps
    | with_reducible apply next_keeps
    | with_reducible apply each_keeps
    | with_reducible apply foldl_keeps'
    | with_reducible apply foldl2_keeps
    | with_reducible apply foldl3_keeps
    | with_reducible apply foldl4_keeps
    | with_reducible apply chain_keeps
    | with_reducible apply gather_keeps
    | with_reducible apply readThen_keeps
    | dsimp only
    | (refine Keeps.of_eq (by with_reducible assumption) ?_)
    | with_reducible apply upd_keeps

theorem startTileMessage_keeps {o s : State} (h : Keeps o s) (k : Nat) : Keeps o (startTileMessage k s) := by
  unfold startTileMessage
  iterate 25 all_goals try first
    | with_reducible assumption
    | with_reducible apply State.modKlink_keeps
    | with_reducible apply State.modKimg_keeps
    | split
    | with_reducible apply next_keeps
    | with_reducible apply upd_keeps

theorem leaveUp_keeps {o s : State} (h : Keeps o s) (k : Nat) (reason : Nat) : Keeps o (leaveUp k reason s) := by
  unfold leaveUp
  iterate 25 all_goals try first
    | with_reducible assumption
    | with_reducible exact Keeps.refl _
    | with_reducible apply fire_keeps
    | with_reducible apply dropBranch_keeps
    | with_reducible apply fillAll_keeps
    | with_reducible apply haltChain_keeps
    | with_reducible apply State.modKlink_keeps
    | with_reducible apply record_keeps
    | with_reducible apply State.modKl_keeps
    | intro _
    | split
    | with_reducible apply ite_keeps
    | with_reducible apply ite2_keeps
    | with_reducible apply iteR_keeps
    | with_reducible apply next_keeps
    | with_reducible apply each_keeps
    | with_reducible apply foldl_keeps'
    | with_reducible apply foldl2_keeps
    | with_reducible apply foldl3_keeps
    | with_reducible apply foldl4_keeps
    | with_reducible apply chain_keeps
    | with_reducible apply gather_keeps
    | with_reducible apply readThen_keeps
    | dsimp only
    | (refine Keeps.of_eq (by with_reducible assumption) ?_)
    | with_reducible apply upd_keeps

theorem writeKlCtrl_keeps {o s : State} (h : Keeps o s) (v : W32) : Keeps o (writeKlCtrl v s) := by
  unfold writeKlCtrl
  iterate 25 all_goals try first
    | with_reducible assumption
    | with_reducible exact Keeps.refl _
    | with_reducible apply leaveUp_keeps
    | with_reducible apply State.modKlink_keeps
    | with_reducible apply State.modKl_keeps
    | intro _
    | split
    | with_reducible apply ite_keeps
    | with_reducible apply ite2_keeps
    | with_reducible apply iteR_keeps
    | with_reducible apply next_keeps
    | with_reducible apply each_keeps
    | with_reducible apply foldl_keeps'
    | with_reducible apply foldl2_keeps
    | with_reducible apply foldl3_keeps
    | with_reducible apply foldl4_keeps
    | with_reducible apply chain_keeps
    | with_reducible apply gather_keeps
    | with_reducible apply readThen_keeps
    | dsimp only
    | (refine Keeps.of_eq (by with_reducible assumption) ?_)
    | with_reducible apply upd_keeps

theorem execHoldExpiry_keeps {o s : State} (h : Keeps o s) (link : Nat) : KeepsR o (execHoldExpiry link s) := by
  unfold execHoldExpiry
  iterate 25 all_goals try first
    | with_reducible assumption
    | with_reducible exact Keeps.refl _
    | with_reducible apply done_keeps
    | with_reducible apply dropBranch_keeps
    | with_reducible apply fillAll_keeps
    | with_reducible apply State.modKimg_keeps
    | intro _
    | split
    | with_reducible apply ite_keeps
    | with_reducible apply ite2_keeps
    | with_reducible apply iteR_keeps
    | with_reducible apply next_keeps
    | with_reducible apply each_keeps
    | with_reducible apply foldl_keeps'
    | with_reducible apply foldl2_keeps
    | with_reducible apply foldl3_keeps
    | with_reducible apply foldl4_keeps
    | with_reducible apply chain_keeps
    | with_reducible apply gather_keeps
    | with_reducible apply readThen_keeps
    | dsimp only
    | (refine Keeps.of_eq (by with_reducible assumption) ?_)
    | with_reducible apply upd_keeps

theorem execCreditTimeout_keeps {o s : State} (h : Keeps o s) (k : Nat) (data : Bool) : KeepsR o (execCreditTimeout k data s) := by
  unfold execCreditTimeout
  iterate 25 all_goals try first
    | with_reducible assumption
    | with_reducible exact Keeps.refl _
    | with_reducible apply done_keeps
    | with_reducible apply leaveUp_keeps
    | intro _
    | split
    | with_reducible apply ite_keeps
    | with_reducible apply ite2_keeps
    | with_reducible apply iteR_keeps
    | with_reducible apply next_keeps
    | with_reducible apply each_keeps
    | with_reducible apply foldl_keeps'
    | with_reducible apply foldl2_keeps
    | with_reducible apply foldl3_keeps
    | with_reducible apply foldl4_keeps
    | with_reducible apply chain_keeps
    | with_reducible apply gather_keeps
    | with_reducible apply readThen_keeps
    | dsimp only
    | (refine Keeps.of_eq (by with_reducible assumption) ?_)
    | with_reducible apply upd_keeps

theorem execTrainingRetry_keeps {o s : State} (h : Keeps o s) (k : Nat) : KeepsR o (execTrainingRetry k s) := by
  unfold execTrainingRetry
  iterate 25 all_goals try first
    | with_reducible assumption
    | with_reducible apply done_keeps
    | with_reducible apply State.modKlink_keeps
    | split
    | with_reducible apply next_keeps
    | with_reducible apply upd_keeps

theorem execGapSend_keeps {o s : State} (h : Keeps o s) (link : Nat) (position : Nat) : KeepsR o (execGapSend link position s) := by
  unfold execGapSend
  iterate 25 all_goals try first
    | with_reducible assumption
    | with_reducible apply done_keeps
    | with_reducible apply queueSignals_keeps
    | with_reducible apply State.modKimg_keeps
    | split
    | with_reducible apply next_keeps
    | with_reducible apply upd_keeps

theorem klErr_keeps {o s : State} (h : Keeps o s) : Keeps o (klErr s) := by
  unfold klErr
  iterate 25 all_goals try first
    | with_reducible assumption
    | with_reducible apply State.modKl_keeps
    | split
    | with_reducible apply next_keeps
    | with_reducible apply upd_keeps

theorem writeRingMember_keeps {o s : State} (h : Keeps o s) (a0 : Nat) (v : W32) : Keeps o (writeRingMember a0 v s) := by
  unfold writeRingMember
  iterate 25 all_goals try first
    | with_reducible assumption
    | with_reducible apply klErr_keeps
    | with_reducible apply State.modKl_keeps
    | split
    | with_reducible apply next_keeps
    | with_reducible apply upd_keeps

theorem execKlRingMember_keeps {o s : State} (h : Keeps o s) (a0 : Nat) (v : W32) : KeepsR o (execKlRingMember a0 v s) := by
  unfold execKlRingMember
  iterate 25 all_goals try first
    | with_reducible assumption
    | with_reducible exact Keeps.refl _
    | with_reducible apply byReader_keeps
    | with_reducible apply writeRingMember_keeps
    | intro _
    | split
    | with_reducible apply ite_keeps
    | with_reducible apply ite2_keeps
    | with_reducible apply iteR_keeps
    | with_reducible apply next_keeps
    | with_reducible apply each_keeps
    | with_reducible apply foldl_keeps'
    | with_reducible apply foldl2_keeps
    | with_reducible apply foldl3_keeps
    | with_reducible apply foldl4_keeps
    | with_reducible apply chain_keeps
    | with_reducible apply gather_keeps
    | with_reducible apply readThen_keeps
    | dsimp only
    | (refine Keeps.of_eq (by with_reducible assumption) ?_)
    | with_reducible apply upd_keeps

theorem writeLinkPeer_keeps {o s : State} (h : Keeps o s) (a0 : Nat) (v : W32) : Keeps o (writeLinkPeer a0 v s) := by
  unfold writeLinkPeer
  iterate 25 all_goals try first
    | with_reducible assumption
    | with_reducible apply klErr_keeps
    | with_reducible apply State.modKimg_keeps
    | split
    | with_reducible apply next_keeps
    | with_reducible apply upd_keeps

theorem execTileMessageSend_keeps {o s : State} (h : Keeps o s) (k : Nat) : KeepsR o (execTileMessageSend k s) := by
  unfold execTileMessageSend
  iterate 25 all_goals try first
    | with_reducible assumption
    | with_reducible apply done_keeps
    | with_reducible apply startTileMessage_keeps
    | split
    | with_reducible apply next_keeps
    | with_reducible apply upd_keeps

theorem execLaneLockLoss_keeps {o s : State} (h : Keeps o s) (k : Nat) : KeepsR o (execLaneLockLoss k s) := by
  unfold execLaneLockLoss
  iterate 25 all_goals try first
    | with_reducible assumption
    | with_reducible apply done_keeps
    | with_reducible apply leaveUp_keeps
    | split
    | with_reducible apply next_keeps
    | with_reducible apply upd_keeps

theorem emitFlit_keeps {o s : State} (h : Keeps o s) (k : Nat) (b : List Byte) : Keeps o (emitFlit k b s) := emit_keeps h _

theorem sendNew_keeps {o s : State} (h : Keeps o s) (k : Nat) (typ : Nat) (first : Bool) (body : List Byte) : Keeps o (sendNew k typ first body s) := by
  unfold sendNew
  iterate 25 all_goals try first
    | with_reducible assumption
    | with_reducible apply State.modKlink_keeps
    | with_reducible apply emitFlit_keeps
    | split
    | with_reducible apply next_keeps
    | with_reducible apply upd_keeps

theorem sendFlit.idle_keeps {o s : State} (h : Keeps o s) (k : Nat) : Keeps o (sendFlit.idle k s) := by
  unfold sendFlit.idle
  iterate 25 all_goals try first
    | with_reducible assumption
    | with_reducible apply State.modKlink_keeps
    | with_reducible apply emitFlit_keeps
    | split
    | with_reducible apply next_keeps
    | with_reducible apply upd_keeps

theorem sendFlit_keeps {o s : State} (h : Keeps o s) (k : Nat) : Keeps o (sendFlit k s) := by
  unfold sendFlit
  iterate 25 all_goals try first
    | with_reducible assumption
    | with_reducible apply sendNew_keeps
    | with_reducible apply State.modKlink_keeps
    | with_reducible apply emitFlit_keeps
    | with_reducible apply sendFlit.idle_keeps
    | split
    | with_reducible apply next_keeps
    | with_reducible apply upd_keeps

theorem execFlitSend_keeps {o s : State} (h : Keeps o s) (k : Nat) : KeepsR o (execFlitSend k s) := by
  unfold execFlitSend
  iterate 25 all_goals try first
    | with_reducible assumption
    | with_reducible apply done_keeps
    | with_reducible apply sendFlit_keeps
    | split
    | with_reducible apply next_keeps
    | with_reducible apply upd_keeps

theorem execKlCtrl_keeps {o s : State} (h : Keeps o s) (a0 : Nat) (v : W32) : KeepsR o (execKlCtrl a0 v s) := by
  unfold execKlCtrl
  iterate 25 all_goals try first
    | with_reducible assumption
    | with_reducible exact Keeps.refl _
    | with_reducible apply byReader_keeps
    | with_reducible apply writeKlCtrl_keeps
    | intro _
    | split
    | with_reducible apply ite_keeps
    | with_reducible apply ite2_keeps
    | with_reducible apply iteR_keeps
    | with_reducible apply next_keeps
    | with_reducible apply each_keeps
    | with_reducible apply foldl_keeps'
    | with_reducible apply foldl2_keeps
    | with_reducible apply foldl3_keeps
    | with_reducible apply foldl4_keeps
    | with_reducible apply chain_keeps
    | with_reducible apply gather_keeps
    | with_reducible apply readThen_keeps
    | dsimp only
    | (refine Keeps.of_eq (by with_reducible assumption) ?_)
    | with_reducible apply upd_keeps

theorem execReplayTimeout_keeps {o s : State} (h : Keeps o s) (k : Nat) : KeepsR o (execReplayTimeout k s) := by
  unfold execReplayTimeout
  iterate 25 all_goals try first
    | with_reducible assumption
    | with_reducible exact Keeps.refl _
    | with_reducible apply done_keeps
    | with_reducible apply leaveUp_keeps
    | with_reducible apply State.modKlink_keeps
    | intro _
    | split
    | with_reducible apply ite_keeps
    | with_reducible apply ite2_keeps
    | with_reducible apply iteR_keeps
    | with_reducible apply next_keeps
    | with_reducible apply each_keeps
    | with_reducible apply foldl_keeps'
    | with_reducible apply foldl2_keeps
    | with_reducible apply foldl3_keeps
    | with_reducible apply foldl4_keeps
    | with_reducible apply chain_keeps
    | with_reducible apply gather_keeps
    | with_reducible apply readThen_keeps
    | dsimp only
    | (refine Keeps.of_eq (by with_reducible assumption) ?_)
    | with_reducible apply upd_keeps

theorem execKlLinkPeer_keeps {o s : State} (h : Keeps o s) (a0 : Nat) (v : W32) : KeepsR o (execKlLinkPeer a0 v s) := by
  unfold execKlLinkPeer
  iterate 25 all_goals try first
    | with_reducible assumption
    | with_reducible exact Keeps.refl _
    | with_reducible apply byReader_keeps
    | with_reducible apply writeLinkPeer_keeps
    | intro _
    | split
    | with_reducible apply ite_keeps
    | with_reducible apply ite2_keeps
    | with_reducible apply iteR_keeps
    | with_reducible apply next_keeps
    | with_reducible apply each_keeps
    | with_reducible apply foldl_keeps'
    | with_reducible apply foldl2_keeps
    | with_reducible apply foldl3_keeps
    | with_reducible apply foldl4_keeps
    | with_reducible apply chain_keeps
    | with_reducible apply gather_keeps
    | with_reducible apply readThen_keeps
    | dsimp only
    | (refine Keeps.of_eq (by with_reducible assumption) ?_)
    | with_reducible apply upd_keeps

end Sys2Proof.Machine
end

