-- ==== Sys2Proof/Laws/KeepsExec.lean ====
section
/-! SUPPORT. A command leaves the queue as it waits and memory in canonical form: the rest, and every command. -/

namespace Sys2Proof.Machine

theorem execTrainingTimeout_keeps {o s : State} (h : Keeps o s) (k : Nat) : KeepsR o (execTrainingTimeout k s) := by
  unfold execTrainingTimeout
  iterate 25 all_goals try first
    | with_reducible assumption
    | with_reducible apply done_keeps
    | with_reducible apply State.modKlink_keeps
    | split
    | with_reducible apply next_keeps
    | with_reducible apply upd_keeps

theorem writeLinkReg_keeps {o s : State} (h : Keeps o s) (a0 : Nat) (off : Nat) (v : W32) : Keeps o (writeLinkReg a0 off v s) := by
  unfold writeLinkReg
  iterate 25 all_goals try first
    | with_reducible assumption
    | with_reducible apply State.modSess_keeps
    | with_reducible apply State.modKlink_keeps
    | with_reducible apply writeKlCtrl_keeps
    | with_reducible apply writeRingMember_keeps
    | with_reducible apply State.modKl_keeps
    | with_reducible apply writeLinkPeer_keeps
    | split
    | with_reducible apply next_keeps
    | with_reducible apply upd_keeps

theorem service_keeps {o s : State} (h : Keeps o s) (typ : Byte) (who : Who) (zeroised : Bool) (formOk : Bool) (q : Req) {f : State → Reply × State} (hf : ∀ {o s : State}, Keeps o s → Keeps o (f s).2) : KeepsR o (service typ who zeroised formOk q f s) := by
  unfold service
  iterate 25 all_goals try first
    | with_reducible assumption
    | with_reducible apply done_keeps
    | with_reducible apply serve_keeps
    | with_reducible apply hf
    | intro _
    | split

theorem execCoChallenge_keeps {o s : State} (h : Keeps o s) (q : Req) : KeepsR o (execCoChallenge q s) := by
  unfold execCoChallenge
  iterate 25 all_goals try first
    | with_reducible assumption
    | with_reducible exact Keeps.refl _
    | with_reducible apply State.modSess_keeps
    | with_reducible apply service_keeps
    | with_reducible apply takeDraw_keeps
    | intro _
    | split
    | with_reducible apply ite_keeps
    | with_reducible apply ite2_keeps
    | with_reducible apply iteR_keeps
    | with_reducible apply next_keeps
    | with_reducible apply each_keeps
    | with_reducible apply foldl_keeps'
    | with_reducible apply foldl2_keeps
    | with_reducible apply foldl3_keeps
    | with_reducible apply foldl4_keeps
    | with_reducible apply chain_keeps
    | with_reducible apply gather_keeps
    | with_reducible apply readThen_keeps
    | dsimp only
    | (refine Keeps.of_eq (by with_reducible assumption) ?_)
    | with_reducible apply upd_keeps

theorem secErr_keeps {o s : State} (h : Keeps o s) : Keeps o (secErr s) := by
  unfold secErr
  iterate 25 all_goals try first
    | with_reducible assumption
    | with_reducible apply State.modSec_keeps
    | split
    | with_reducible apply next_keeps
    | with_reducible apply upd_keeps

theorem zeroise_keeps {o s : State} (h : Keeps o s) (source : Nat) : Keeps o (zeroise source s) := by
  unfold zeroise
  dsimp only
  refine fire_keeps (record_keeps (State.modSec_keeps (updT_keeps (State.modMacsec_keeps (each_keeps (each_keeps h ?_) ?_) _)
    (canonical_cmap _ _) id) _) ..) _
  · exact fun _ _ => abortStream_keeps (Keeps.refl _) ..
  · exact fun _ _ => fetchFailed_keeps (Keeps.refl _) _

theorem writeZeroise_keeps {o s : State} (h : Keeps o s) (a0 : Nat) (v : W32) : Keeps o (writeZeroise a0 v s) := by
  unfold writeZeroise
  iterate 25 all_goals try first
    | with_reducible assumption
    | with_reducible apply secErr_keeps
    | with_reducible apply zeroise_keeps
    | split
    | with_reducible apply next_keeps
    | with_reducible apply upd_keeps

theorem writeSec_keeps {o s : State} (h : Keeps o s) (a0 : Nat) (off : Nat) (v : W32) : Keeps o (writeSec a0 off v s) := by
  unfold writeSec
  iterate 25 all_goals try first
    | with_reducible assumption
    | with_reducible apply State.modSec_keeps
    | with_reducible apply secErr_keeps
    | with_reducible apply writeZeroise_keeps
    | split
    | with_reducible apply next_keeps
    | with_reducible apply upd_keeps

theorem enrol_keeps {o s : State} (h : Keeps o s) (cred : Nat) (key : BitVec 768) : Keeps o (enrol cred key s) := by
  unfold enrol
  iterate 25 all_goals try first
    | with_reducible assumption
    | with_reducible apply State.modSec_keeps
    | with_reducible apply record_keeps
    | with_reducible apply takeDraw_keeps
    | with_reducible apply useTest_keeps
    | split
    | with_reducible apply next_keeps
    | with_reducible apply upd_keeps

theorem unenrol_keeps {o s : State} (h : Keeps o s) (cred : Nat) : Keeps o (unenrol cred s).2 := by
  unfold unenrol
  iterate 25 all_goals try first
    | with_reducible assumption
    | with_reducible exact Keeps.refl _
    | with_reducible apply State.modSec_keeps
    | with_reducible apply record_keeps
    | with_reducible apply useTest_keeps
    | intro _
    | split
    | with_reducible apply ite_keeps
    | with_reducible apply ite2_keeps
    | with_reducible apply iteR_keeps
    | with_reducible apply next_keeps
    | with_reducible apply each_keeps
    | with_reducible apply foldl_keeps'
    | with_reducible apply foldl2_keeps
    | with_reducible apply foldl3_keeps
    | with_reducible apply foldl4_keeps
    | with_reducible apply chain_keeps
    | with_reducible apply gather_keeps
    | with_reducible apply readThen_keeps
    | dsimp only
    | (refine Keeps.of_eq (by with_reducible assumption) ?_)
    | with_reducible apply upd_keeps

theorem execCoEnrol_keeps {o s : State} (h : Keeps o s) (q : Req) : KeepsR o (execCoEnrol q s) := by
  unfold execCoEnrol
  iterate 25 all_goals try first
    | with_reducible assumption
    | with_reducible exact Keeps.refl _
    | with_reducible apply enrol_keeps
    | with_reducible apply service_keeps
    | with_reducible apply unenrol_keeps
    | intro _
    | split
    | with_reducible apply ite_keeps
    | with_reducible apply ite2_keeps
    | with_reducible apply iteR_keeps
    | with_reducible apply next_keeps
    | with_reducible apply each_keeps
    | with_reducible apply foldl_keeps'
    | with_reducible apply foldl2_keeps
    | with_reducible apply foldl3_keeps
    | with_reducible apply foldl4_keeps
    | with_reducible apply chain_keeps
    | with_reducible apply gather_keeps
    | with_reducible apply readThen_keeps
    | dsimp only
    | (refine Keeps.of_eq (by with_reducible assumption) ?_)
    | with_reducible apply upd_keeps

theorem execAuthLockoutEnd_keeps {o s : State} (h : Keeps o s) : KeepsR o (execAuthLockoutEnd s) := by
  unfold execAuthLockoutEnd
  iterate 25 all_goals try first
    | with_reducible assumption
    | with_reducible apply done_keeps
    | with_reducible apply State.modSec_keeps
    | split
    | with_reducible apply next_keeps
    | with_reducible apply upd_keeps

theorem execKeyRevoke_keeps {o s : State} (h : Keeps o s) (q : Req) : KeepsR o (execKeyRevoke q s) := by
  unfold execKeyRevoke
  iterate 25 all_goals try first
    | with_reducible assumption
    | with_reducible exact Keeps.refl _
    | with_reducible apply State.modSec_keeps
    | with_reducible apply service_keeps
    | with_reducible apply record_keeps
    | intro _
    | split
    | with_reducible apply ite_keeps
    | with_reducible apply ite2_keeps
    | with_reducible apply iteR_keeps
    | with_reducible apply next_keeps
    | with_reducible apply each_keeps
    | with_reducible apply foldl_keeps'
    | with_reducible apply foldl2_keeps
    | with_reducible apply foldl3_keeps
    | with_reducible apply foldl4_keeps
    | with_reducible apply chain_keeps
    | with_reducible apply gather_keeps
    | with_reducible apply readThen_keeps
    | dsimp only
    | (refine Keeps.of_eq (by with_reducible assumption) ?_)
    | with_reducible apply upd_keeps

theorem execMarkKeyLoad_keeps {o s : State} (h : Keeps o s) (q : Req) : KeepsR o (execMarkKeyLoad q s) := by
  unfold execMarkKeyLoad
  iterate 25 all_goals try first
    | with_reducible assumption
    | with_reducible exact Keeps.refl _
    | with_reducible apply State.modSec_keeps
    | with_reducible apply service_keeps
    | with_reducible apply useTest_keeps
    | intro _
    | split
    | with_reducible apply ite_keeps
    | with_reducible apply ite2_keeps
    | with_reducible apply iteR_keeps
    | with_reducible apply next_keeps
    | with_reducible apply each_keeps
    | with_reducible apply foldl_keeps'
    | with_reducible apply foldl2_keeps
    | with_reducible apply foldl3_keeps
    | with_reducible apply foldl4_keeps
    | with_reducible apply chain_keeps
    | with_reducible apply gather_keeps
    | with_reducible apply readThen_keeps
    | dsimp only
    | (refine Keeps.of_eq (by with_reducible assumption) ?_)
    | with_reducible apply upd_keeps

theorem execAttest_keeps {o s : State} (h : Keeps o s) (q : Req) : KeepsR o (execAttest q s) := by
  unfold execAttest
  iterate 25 all_goals try first
    | with_reducible assumption
    | with_reducible apply service_keeps
    | with_reducible apply takeDraw_keeps
    | split
    | with_reducible apply next_keeps
    | with_reducible apply upd_keeps

theorem execSecZeroise_keeps {o s : State} (h : Keeps o s) (a0 : Nat) (v : W32) : KeepsR o (execSecZeroise a0 v s) := by
  unfold execSecZeroise
  iterate 25 all_goals try first
    | with_reducible assumption
    | with_reducible exact Keeps.refl _
    | with_reducible apply byReader_keeps
    | with_reducible apply writeZeroise_keeps
    | intro _
    | split
    | with_reducible apply ite_keeps
    | with_reducible apply ite2_keeps
    | with_reducible apply iteR_keeps
    | with_reducible apply next_keeps
    | with_reducible apply each_keeps
    | with_reducible apply foldl_keeps'
    | with_reducible apply foldl2_keeps
    | with_reducible apply foldl3_keeps
    | with_reducible apply foldl4_keeps
    | with_reducible apply chain_keeps
    | with_reducible apply gather_keeps
    | with_reducible apply readThen_keeps
    | dsimp only
    | (refine Keeps.of_eq (by with_reducible assumption) ?_)
    | with_reducible apply upd_keeps

theorem execRandom_keeps {o s : State} (h : Keeps o s) (q : Req) : KeepsR o (execRandom q s) := by
  unfold execRandom
  iterate 25 all_goals try first
    | with_reducible assumption
    | with_reducible apply service_keeps
    | with_reducible apply takeDraw_keeps
    | split
    | with_reducible apply next_keeps
    | with_reducible apply upd_keeps

theorem execSaCtrl_keeps {o s : State} (h : Keeps o s) (q : Req) : KeepsR o (execSaCtrl q s) := by
  unfold execSaCtrl
  iterate 25 all_goals try first
    | with_reducible assumption
    | with_reducible exact Keeps.refl _
    | with_reducible apply State.modMacsec_keeps
    | with_reducible apply service_keeps
    | intro _
    | split
    | with_reducible apply ite_keeps
    | with_reducible apply ite2_keeps
    | with_reducible apply iteR_keeps
    | with_reducible apply next_keeps
    | with_reducible apply each_keeps
    | with_reducible apply foldl_keeps'
    | with_reducible apply foldl2_keeps
    | with_reducible apply foldl3_keeps
    | with_reducible apply foldl4_keeps
    | with_reducible apply chain_keeps
    | with_reducible apply gather_keeps
    | with_reducible apply readThen_keeps
    | dsimp only
    | (refine Keeps.of_eq (by with_reducible assumption) ?_)
    | with_reducible apply upd_keeps

theorem authFailed_keeps {o s : State} (h : Keeps o s) (session : Nat) (cred : Nat) : Keeps o (authFailed session cred s) := by
  unfold authFailed
  iterate 25 all_goals try first
    | with_reducible assumption
    | with_reducible apply fire_keeps
    | with_reducible apply State.modSec_keeps
    | with_reducible apply record_keeps
    | split
    | with_reducible apply next_keeps
    | with_reducible apply upd_keeps

theorem execFwWrite_keeps {o s : State} (h : Keeps o s) (q : Req) : KeepsR o (execFwWrite q s) := by
  unfold execFwWrite
  iterate 25 all_goals try first
    | with_reducible assumption
    | with_reducible exact Keeps.refl _
    | with_reducible apply State.modSec_keeps
    | with_reducible apply service_keeps
    | intro _
    | split
    | with_reducible apply ite_keeps
    | with_reducible apply ite2_keeps
    | with_reducible apply iteR_keeps
    | with_reducible apply next_keeps
    | with_reducible apply each_keeps
    | with_reducible apply foldl_keeps'
    | with_reducible apply foldl2_keeps
    | with_reducible apply foldl3_keeps
    | with_reducible apply foldl4_keeps
    | with_reducible apply chain_keeps
    | with_reducible apply gather_keeps
    | with_reducible apply readThen_keeps
    | dsimp only
    | (refine Keeps.of_eq (by with_reducible assumption) ?_)
    | with_reducible apply upd_keeps

theorem execSelftest_keeps {o s : State} (h : Keeps o s) (q : Req) : KeepsR o (execSelftest q s) := by
  unfold execSelftest
  iterate 25 all_goals try first
    | with_reducible assumption
    | with_reducible apply service_keeps
    | with_reducible apply runTests_keeps
    | intro _
    | split
    | with_reducible apply next_keeps
    | with_reducible apply upd_keeps

theorem execCertRead_keeps {o s : State} (h : Keeps o s) (q : Req) : KeepsR o (execCertRead q s) := by
  unfold execCertRead
  iterate 25 all_goals try first
    | with_reducible assumption
    | with_reducible exact Keeps.refl _
    | with_reducible apply service_keeps
    | intro _
    | split
    | with_reducible apply ite_keeps
    | with_reducible apply ite2_keeps
    | with_reducible apply iteR_keeps
    | with_reducible apply next_keeps
    | with_reducible apply each_keeps
    | with_reducible apply foldl_keeps'
    | with_reducible apply foldl2_keeps
    | with_reducible apply foldl3_keeps
    | with_reducible apply foldl4_keeps
    | with_reducible apply chain_keeps
    | with_reducible apply gather_keeps
    | with_reducible apply readThen_keeps
    | dsimp only
    | (refine Keeps.of_eq (by with_reducible assumption) ?_)
    | with_reducible apply upd_keeps

theorem execZeroiseWipeComplete_keeps {o s : State} (h : Keeps o s) : KeepsR o (execZeroiseWipeComplete s) := by
  unfold execZeroiseWipeComplete
  refine iteR_keeps (fun _ => next_keeps h) fun _ => done_keeps (State.modSec_keeps (updT_keeps ?_ (canonical_cmap _ _) id) _)
  have k := State.setTier_keeps h 2 fun w => Tier.wf_zeroed (h.tier 2 w) 0x10000000 (0x10000000 + s.storeLen)
  exact State.setTier_keeps k 1 fun w => Tier.wf_zeroed (k.tier 1 w) _ _

theorem execKeyAgree_keeps {o s : State} (h : Keeps o s) (q : Req) : KeepsR o (execKeyAgree q s) := by
  unfold execKeyAgree
  iterate 25 all_goals try first
    | with_reducible assumption
    | with_reducible exact Keeps.refl _
    | with_reducible apply State.modSess_keeps
    | with_reducible apply service_keeps
    | with_reducible apply takeDraw_keeps
    | with_reducible apply useTest_keeps
    | intro _
    | split
    | with_reducible apply ite_keeps
    | with_reducible apply ite2_keeps
    | with_reducible apply iteR_keeps
    | with_reducible apply next_keeps
    | with_reducible apply each_keeps
    | with_reducible apply foldl_keeps'
    | with_reducible apply foldl2_keeps
    | with_reducible apply foldl3_keeps
    | with_reducible apply foldl4_keeps
    | with_reducible apply chain_keeps
    | with_reducible apply gather_keeps
    | with_reducible apply readThen_keeps
    | dsimp only
    | (refine Keeps.of_eq (by with_reducible assumption) ?_)
    | with_reducible apply upd_keeps

theorem execCoAuth_keeps {o s : State} (h : Keeps o s) (q : Req) : KeepsR o (execCoAuth q s) := by
  unfold execCoAuth
  iterate 25 all_goals try first
    | with_reducible assumption
    | with_reducible exact Keeps.refl _
    | with_reducible apply State.modSess_keeps
    | with_reducible apply authFailed_keeps
    | with_reducible apply State.modSec_keeps
    | with_reducible apply service_keeps
    | with_reducible apply record_keeps
    | intro _
    | split
    | with_reducible apply ite_keeps
    | with_reducible apply ite2_keeps
    | with_reducible apply iteR_keeps
    | with_reducible apply next_keeps
    | with_reducible apply each_keeps
    | with_reducible apply foldl_keeps'
    | with_reducible apply foldl2_keeps
    | with_reducible apply foldl3_keeps
    | with_reducible apply foldl4_keeps
    | with_reducible apply chain_keeps
    | with_reducible apply gather_keeps
    | with_reducible apply readThen_keeps
    | dsimp only
    | (refine Keeps.of_eq (by with_reducible assumption) ?_)
    | with_reducible apply upd_keeps

theorem execSvnCommit_keeps {o s : State} (h : Keeps o s) (q : Req) : KeepsR o (execSvnCommit q s) := by
  unfold execSvnCommit
  iterate 25 all_goals try first
    | with_reducible assumption
    | with_reducible exact Keeps.refl _
    | with_reducible apply State.modSec_keeps
    | with_reducible apply service_keeps
    | with_reducible apply record_keeps
    | with_reducible apply useTest_keeps
    | intro _
    | split
    | with_reducible apply ite_keeps
    | with_reducible apply ite2_keeps
    | with_reducible apply iteR_keeps
    | with_reducible apply next_keeps
    | with_reducible apply each_keeps
    | with_reducible apply foldl_keeps'
    | with_reducible apply foldl2_keeps
    | with_reducible apply foldl3_keeps
    | with_reducible apply foldl4_keeps
    | with_reducible apply chain_keeps
    | with_reducible apply gather_keeps
    | with_reducible apply readThen_keeps
    | dsimp only
    | (refine Keeps.of_eq (by with_reducible assumption) ?_)
    | with_reducible apply upd_keeps

theorem execSakLoad_keeps {o s : State} (h : Keeps o s) (q : Req) : KeepsR o (execSakLoad q s) := by
  unfold execSakLoad
  iterate 25 all_goals try first
    | with_reducible assumption
    | with_reducible exact Keeps.refl _
    | with_reducible apply State.modMacsec_keeps
    | with_reducible apply service_keeps
    | intro _
    | split
    | with_reducible apply ite_keeps
    | with_reducible apply ite2_keeps
    | with_reducible apply iteR_keeps
    | with_reducible apply next_keeps
    | with_reducible apply each_keeps
    | with_reducible apply foldl_keeps'
    | with_reducible apply foldl2_keeps
    | with_reducible apply foldl3_keeps
    | with_reducible apply foldl4_keeps
    | with_reducible apply chain_keeps
    | with_reducible apply gather_keeps
    | with_reducible apply readThen_keeps
    | dsimp only
    | (refine Keeps.of_eq (by with_reducible assumption) ?_)
    | with_reducible apply upd_keeps

theorem execZeroise_keeps {o s : State} (h : Keeps o s) (q : Req) : KeepsR o (execZeroise q s) := by
  unfold execZeroise
  iterate 25 all_goals try first
    | with_reducible assumption
    | with_reducible exact Keeps.refl _
    | with_reducible apply done_keeps
    | with_reducible apply answer_keeps
    | with_reducible apply serveOpt_keeps
    | with_reducible apply zeroise_keeps
    | intro _
    | split
    | with_reducible apply ite_keeps
    | with_reducible apply ite2_keeps
    | with_reducible apply iteR_keeps
    | with_reducible apply next_keeps
    | with_reducible apply each_keeps
    | with_reducible apply foldl_keeps'
    | with_reducible apply foldl2_keeps
    | with_reducible apply foldl3_keeps
    | with_reducible apply foldl4_keeps
    | with_reducible apply chain_keeps
    | with_reducible apply gather_keeps
    | with_reducible apply readThen_keeps
    | dsimp only
    | (refine Keeps.of_eq (by with_reducible assumption) ?_)
    | with_reducible apply upd_keeps

theorem State.modPwr_keeps {o s : State} (h : Keeps o s) (f : Pwr → Pwr) : Keeps o (State.modPwr s f) := by
  unfold State.modPwr
  iterate 25 all_goals try first
    | with_reducible assumption
    | split
    | with_reducible apply next_keeps
    | with_reducible apply upd_keeps

theorem shutdown_keeps {o s : State} (h : Keeps o s) (cause : DownCause) (code : W16) (p0 : W32) (p1 : W32) (p2 : W32) (p3 : W32) : Keeps o (shutdown cause code p0 p1 p2 p3 s) := by
  unfold shutdown
  iterate 25 all_goals try first
    | with_reducible assumption
    | with_reducible apply State.modPwr_keeps
    | with_reducible apply fire_keeps
    | with_reducible apply recordNow_keeps
    | split
    | with_reducible apply next_keeps
    | with_reducible apply upd_keeps

theorem execRailFault_keeps {o s : State} (h : Keeps o s) (rail : Nat) (mv : Nat) : KeepsR o (execRailFault rail mv s) := by
  unfold execRailFault
  iterate 25 all_goals try first
    | with_reducible assumption
    | with_reducible apply done_keeps
    | with_reducible apply State.modPwr_keeps
    | with_reducible apply shutdown_keeps
    | split
    | with_reducible apply next_keeps
    | with_reducible apply upd_keeps

theorem mainOff_keeps {o s : State} (h : Keeps o s)  : Keeps o (mainOff s) :=
  ⟨h.pending, fun _ => rfl, fun _ => rfl, fun x => canonical_filter _ _ (h.readers x)⟩

theorem execStandbyDomainOff_keeps {o s : State} (h : Keeps o s) (mv : Nat) : KeepsR o (execStandbyDomainOff mv s) := by
  unfold execStandbyDomainOff
  exact iteR_keeps (fun _ => next_keeps h) fun _ => done_keeps (updT_keeps (mainOff_keeps h) id fun _ => rfl)

theorem execWakeComplete_keeps {o s : State} (h : Keeps o s) : KeepsR o (execWakeComplete s) := by
  unfold execWakeComplete
  refine iteR_keeps (fun _ => done_keeps (fire_keeps (record_keeps (State.modMem_keeps (State.modPwr_keeps h _) fun w => ?_) ..) _)) fun _ => next_keeps h
  rw [Mem.wf_iff] at w ⊢
  exact ⟨rfl, w.2.1, w.2.2.1, rfl⟩

theorem noteRejected_keeps {o s : State} (h : Keeps o s) (copy : Nat) : Keeps o (noteRejected s copy) := by
  unfold noteRejected
  iterate 25 all_goals try first
    | with_reducible assumption
    | with_reducible apply record_keeps
    | split
    | with_reducible apply next_keeps
    | with_reducible apply upd_keeps

theorem bootSelftest_keeps {o s : State} (h : Keeps o s) : Keeps o (bootSelftest s) := by
  unfold bootSelftest
  iterate 25 all_goals try first
    | with_reducible assumption
    | with_reducible exact Keeps.refl _
    | with_reducible apply State.modPwr_keeps
    | with_reducible apply State.modSec_keeps
    | with_reducible apply noteRejected_keeps
    | with_reducible apply testFailed_keeps
    | with_reducible apply runTests_keeps
    | intro _
    | split
    | with_reducible apply ite_keeps
    | with_reducible apply ite2_keeps
    | with_reducible apply iteR_keeps
    | with_reducible apply next_keeps
    | with_reducible apply each_keeps
    | with_reducible apply foldl_keeps'
    | with_reducible apply foldl2_keeps
    | with_reducible apply foldl3_keeps
    | with_reducible apply foldl4_keeps
    | with_reducible apply chain_keeps
    | with_reducible apply gather_keeps
    | with_reducible apply readThen_keeps
    | dsimp only
    | (refine Keeps.of_eq (by with_reducible assumption) ?_)
    | with_reducible apply upd_keeps

theorem execVinPresent_keeps {o s : State} (h : Keeps o s) (mv : Nat) : KeepsR o (execVinPresent mv s) := by
  unfold execVinPresent
  iterate 25 all_goals try first
    | with_reducible assumption
    | with_reducible apply done_keeps
    | with_reducible apply State.modPwr_keeps
    | with_reducible apply State.modBureau_keeps
    | split
    | with_reducible apply next_keeps
    | with_reducible apply upd_keeps

theorem beginReset_keeps {o s : State} (h : Keeps o s) (cause : BitVec 3) : Keeps o (beginReset cause s) :=
  updT_keeps (mainOff_keeps h) id fun _ => rfl

theorem execPwrGoodRise_keeps {o s : State} (h : Keeps o s) : KeepsR o (execPwrGoodRise s) := by
  unfold execPwrGoodRise
  iterate 25 all_goals try first
    | with_reducible assumption
    | with_reducible apply done_keeps
    | with_reducible apply State.modPwr_keeps
    | with_reducible apply beginReset_keeps
    | with_reducible apply State.modBureau_keeps
    | split
    | with_reducible apply next_keeps
    | with_reducible apply upd_keeps

theorem startKryter_keeps {o s : State} (h : Keeps o s) : Keeps o (startKryter s) := by
  unfold startKryter
  iterate 25 all_goals try first
    | with_reducible assumption
    | with_reducible exact Keeps.refl _
    | with_reducible apply State.modKlink_keeps
    | intro _
    | split
    | with_reducible apply ite_keeps
    | with_reducible apply ite2_keeps
    | with_reducible apply iteR_keeps
    | with_reducible apply next_keeps
    | with_reducible apply each_keeps
    | with_reducible apply foldl_keeps'
    | with_reducible apply foldl2_keeps
    | with_reducible apply foldl3_keeps
    | with_reducible apply foldl4_keeps
    | with_reducible apply chain_keeps
    | with_reducible apply gather_keeps
    | with_reducible apply readThen_keeps
    | dsimp only
    | (refine Keeps.of_eq (by with_reducible assumption) ?_)
    | with_reducible apply upd_keeps

theorem pwrErr_keeps {o s : State} (h : Keeps o s) : Keeps o (pwrErr s) := by
  unfold pwrErr
  iterate 25 all_goals try first
    | with_reducible assumption
    | with_reducible apply State.modPwr_keeps
    | split
    | with_reducible apply next_keeps
    | with_reducible apply upd_keeps

theorem wakeCmd_keeps {o s : State} (h : Keeps o s) : Keeps o (wakeCmd s) := by
  unfold wakeCmd
  iterate 25 all_goals try first
    | with_reducible assumption
    | with_reducible apply State.modPwr_keeps
    | with_reducible apply pwrErr_keeps
    | split
    | with_reducible apply next_keeps
    | with_reducible apply upd_keeps

theorem standbyCmd_keeps {o s : State} (h : Keeps o s) : Keeps o (standbyCmd s) := by
  unfold standbyCmd
  iterate 25 all_goals try first
    | with_reducible assumption
    | exact fun x => x
    | assumption
    | with_reducible apply State.modPwr_keeps
    | with_reducible apply fire_keeps
    | with_reducible apply record_keeps
    | with_reducible apply State.modMem_keeps
    | with_reducible apply pwrErr_keeps
    | split
    | with_reducible apply next_keeps
    | with_reducible apply upd_keeps

theorem writePwrCmd_keeps {o s : State} (h : Keeps o s) (v : W32) : Keeps o (writePwrCmd v s) := by
  unfold writePwrCmd
  iterate 25 all_goals try first
    | with_reducible assumption
    | with_reducible apply State.modPwr_keeps
    | with_reducible apply wakeCmd_keeps
    | with_reducible apply standbyCmd_keeps
    | with_reducible apply pwrErr_keeps
    | split
    | with_reducible apply next_keeps
    | with_reducible apply upd_keeps

theorem writePwr_keeps {o s : State} (h : Keeps o s) (a0 : Nat) (off : Nat) (v : W32) : Keeps o (writePwr a0 off v s) := by
  unfold writePwr
  iterate 25 all_goals try first
    | with_reducible assumption
    | with_reducible apply State.modPwr_keeps
    | with_reducible apply State.modReader_keeps
    | with_reducible apply writePwrCmd_keeps
    | split
    | with_reducible apply next_keeps
    | with_reducible apply upd_keeps

theorem endReset_keeps {o s : State} (h : Keeps o s) (pos : BitVec 3) : Keeps o (endReset pos s) := by
  unfold endReset
  iterate 25 all_goals try first
    | with_reducible assumption
    | with_reducible apply State.modPwr_keeps
    | with_reducible apply fire_keeps
    | with_reducible apply record_keeps
    | split
    | with_reducible apply next_keeps
    | with_reducible apply upd_keeps

theorem execResetEnd_keeps {o s : State} (h : Keeps o s) (brdPos : BitVec 3) : KeepsR o (execResetEnd brdPos s) := by
  unfold execResetEnd
  iterate 25 all_goals try first
    | with_reducible assumption
    | with_reducible apply done_keeps
    | with_reducible apply State.modPwr_keeps
    | with_reducible apply endReset_keeps
    | split
    | with_reducible apply next_keeps
    | with_reducible apply upd_keeps

theorem sampleSensor_keeps {o s : State} (h : Keeps o s) (e : Nat × W16) : Keeps o (sampleSensor s e) := by
  unfold sampleSensor
  iterate 25 all_goals try first
    | with_reducible assumption
    | with_reducible apply State.modPwr_keeps
    | with_reducible apply fire_keeps
    | with_reducible apply shutdown_keeps
    | with_reducible apply record_keeps
    | split
    | with_reducible apply next_keeps
    | with_reducible apply upd_keeps

theorem execPwrReset_keeps {o s : State} (h : Keeps o s) (a0 : Nat) (v : W32) : KeepsR o (execPwrReset a0 v s) := by
  unfold execPwrReset
  iterate 25 all_goals try first
    | with_reducible assumption
    | with_reducible exact Keeps.refl _
    | with_reducible apply byReader_keeps
    | with_reducible apply beginReset_keeps
    | with_reducible apply pwrErr_keeps
    | intro _
    | split
    | with_reducible apply ite_keeps
    | with_reducible apply ite2_keeps
    | with_reducible apply iteR_keeps
    | with_reducible apply next_keeps
    | with_reducible apply each_keeps
    | with_reducible apply foldl_keeps'
    | with_reducible apply foldl2_keeps
    | with_reducible apply foldl3_keeps
    | with_reducible apply foldl4_keeps
    | with_reducible apply chain_keeps
    | with_reducible apply gather_keeps
    | with_reducible apply readThen_keeps
    | dsimp only
    | (refine Keeps.of_eq (by with_reducible assumption) ?_)
    | with_reducible apply upd_keeps

theorem clearDown_keeps {o s : State} (h : Keeps o s) : Keeps o (clearDown s) := by
  unfold clearDown
  iterate 25 all_goals try first
    | with_reducible assumption
    | with_reducible apply State.modPwr_keeps
    | split
    | with_reducible apply next_keeps
    | with_reducible apply upd_keeps

theorem execThermalSample_keeps {o s : State} (h : Keeps o s) (temps : List (Nat × W16)) : KeepsR o (execThermalSample temps s) := by
  unfold execThermalSample
  iterate 25 all_goals try first
    | with_reducible assumption
    | with_reducible exact Keeps.refl _
    | with_reducible apply done_keeps
    | with_reducible apply clearDown_keeps
    | with_reducible apply sampleSensor_keeps
    | intro _
    | split
    | with_reducible apply ite_keeps
    | with_reducible apply ite2_keeps
    | with_reducible apply iteR_keeps
    | with_reducible apply next_keeps
    | with_reducible apply each_keeps
    | with_reducible apply foldl_keeps'
    | with_reducible apply foldl2_keeps
    | with_reducible apply foldl3_keeps
    | with_reducible apply foldl4_keeps
    | with_reducible apply chain_keeps
    | with_reducible apply gather_keeps
    | with_reducible apply readThen_keeps
    | dsimp only
    | (refine Keeps.of_eq (by with_reducible assumption) ?_)
    | with_reducible apply upd_keeps

theorem readEnergyLo_keeps {o s : State} (h : Keeps o s) (a0 : Nat) : Keeps o (readEnergyLo a0 s).2 := by
  unfold readEnergyLo
  iterate 25 all_goals try first
    | with_reducible assumption
    | with_reducible apply State.modReader_keeps
    | split
    | with_reducible apply next_keeps
    | with_reducible apply upd_keeps

theorem readPwr_keeps {o s : State} (h : Keeps o s) (a0 : Nat) (off : Nat) : Keeps o (readPwr a0 off s).2 := by
  unfold readPwr
  iterate 25 all_goals try first
    | with_reducible assumption
    | with_reducible apply readEnergyLo_keeps
    | split
    | with_reducible apply next_keeps
    | with_reducible apply upd_keeps

theorem execModRstNAssert_keeps {o s : State} (h : Keeps o s) : KeepsR o (execModRstNAssert s) := by
  unfold execModRstNAssert
  iterate 25 all_goals try first
    | with_reducible assumption
    | with_reducible exact Keeps.refl _
    | with_reducible apply done_keeps
    | with_reducible apply State.modPwr_keeps
    | with_reducible apply clearDown_keeps
    | with_reducible apply beginReset_keeps
    | intro _
    | split
    | with_reducible apply ite_keeps
    | with_reducible apply ite2_keeps
    | with_reducible apply iteR_keeps
    | with_reducible apply next_keeps
    | with_reducible apply each_keeps
    | with_reducible apply foldl_keeps'
    | with_reducible apply foldl2_keeps
    | with_reducible apply foldl3_keeps
    | with_reducible apply foldl4_keeps
    | with_reducible apply chain_keeps
    | with_reducible apply gather_keeps
    | with_reducible apply readThen_keeps
    | dsimp only
    | (refine Keeps.of_eq (by with_reducible assumption) ?_)
    | with_reducible apply upd_keeps

theorem execRailsOff_keeps {o s : State} (h : Keeps o s) : KeepsR o (execRailsOff s) := by
  unfold execRailsOff
  iterate 25 all_goals try first
    | with_reducible assumption
    | with_reducible apply done_keeps
    | with_reducible apply State.modPwr_keeps
    | with_reducible apply mainOff_keeps
    | split
    | with_reducible apply next_keeps
    | with_reducible apply upd_keeps

theorem execVinFault_keeps {o s : State} (h : Keeps o s) (mv : Nat) : KeepsR o (execVinFault mv s) := by
  unfold execVinFault
  iterate 25 all_goals try first
    | with_reducible assumption
    | with_reducible apply done_keeps
    | with_reducible apply State.modPwr_keeps
    | with_reducible apply shutdown_keeps
    | split
    | with_reducible apply next_keeps
    | with_reducible apply upd_keeps

theorem resetAfter_keeps {o s : State} (h : Keeps o s) : Keeps o (resetAfter s) := by
  unfold resetAfter
  iterate 25 all_goals try first
    | with_reducible assumption
    | with_reducible apply beginReset_keeps
    | split
    | with_reducible apply next_keeps
    | with_reducible apply upd_keeps

theorem execPwrEnergyLo_keeps {o s : State} (h : Keeps o s) (a0 : Nat) : KeepsR o (execPwrEnergyLo a0 s) := by
  unfold execPwrEnergyLo
  iterate 25 all_goals try first
    | with_reducible assumption
    | with_reducible exact Keeps.refl _
    | with_reducible apply byReader_keeps
    | with_reducible apply readEnergyLo_keeps
    | intro _
    | split
    | with_reducible apply ite_keeps
    | with_reducible apply ite2_keeps
    | with_reducible apply iteR_keeps
    | with_reducible apply next_keeps
    | with_reducible apply each_keeps
    | with_reducible apply foldl_keeps'
    | with_reducible apply foldl2_keeps
    | with_reducible apply foldl3_keeps
    | with_reducible apply foldl4_keeps
    | with_reducible apply chain_keeps
    | with_reducible apply gather_keeps
    | with_reducible apply readThen_keeps
    | dsimp only
    | (refine Keeps.of_eq (by with_reducible assumption) ?_)
    | with_reducible apply upd_keeps

theorem execRailRegulation_keeps {o s : State} (h : Keeps o s) (rail : Nat) : KeepsR o (execRailRegulation rail s) := by
  unfold execRailRegulation
  iterate 25 all_goals try first
    | with_reducible assumption
    | with_reducible apply done_keeps
    | with_reducible apply State.modPwr_keeps
    | split
    | with_reducible apply next_keeps
    | with_reducible apply upd_keeps

theorem execBootStageComplete_keeps {o s : State} (h : Keeps o s) (ms : Nat) : KeepsR o (execBootStageComplete ms s) := by
  unfold execBootStageComplete
  iterate 25 all_goals try first
    | with_reducible assumption
    | with_reducible apply startKryter_keeps
    | with_reducible apply done_keeps
    | with_reducible apply State.modPwr_keeps
    | with_reducible apply bootSelftest_keeps
    | split
    | with_reducible apply next_keeps
    | with_reducible apply upd_keeps

theorem execWake_keeps {o s : State} (h : Keeps o s) (a0 : Nat) : KeepsR o (execWake a0 s) := by
  unfold execWake
  iterate 25 all_goals try first
    | with_reducible assumption
    | with_reducible apply wakeCmd_keeps
    | with_reducible apply byReader_keeps
    | split
    | with_reducible apply next_keeps
    | with_reducible apply upd_keeps

theorem execModRstNRelease_keeps {o s : State} (h : Keeps o s) (brdPos : BitVec 3) : KeepsR o (execModRstNRelease brdPos s) := by
  unfold execModRstNRelease
  iterate 25 all_goals try first
    | with_reducible assumption
    | with_reducible exact Keeps.refl _
    | with_reducible apply done_keeps
    | with_reducible apply State.modPwr_keeps
    | with_reducible apply endReset_keeps
    | intro _
    | split
    | with_reducible apply ite_keeps
    | with_reducible apply ite2_keeps
    | with_reducible apply iteR_keeps
    | with_reducible apply next_keeps
    | with_reducible apply each_keeps
    | with_reducible apply foldl_keeps'
    | with_reducible apply foldl2_keeps
    | with_reducible apply foldl3_keeps
    | with_reducible apply foldl4_keeps
    | with_reducible apply chain_keeps
    | with_reducible apply gather_keeps
    | with_reducible apply readThen_keeps
    | dsimp only
    | (refine Keeps.of_eq (by with_reducible assumption) ?_)
    | with_reducible apply upd_keeps

theorem execTelemetryUpdate_keeps {o s : State} (h : Keeps o s) (mv : Nat) (ma : Nat) (mw : Nat) (mj : Nat) : KeepsR o (execTelemetryUpdate mv ma mw mj s) := by
  unfold execTelemetryUpdate
  iterate 25 all_goals try first
    | with_reducible assumption
    | with_reducible apply done_keeps
    | with_reducible apply State.modPwr_keeps
    | split
    | with_reducible apply next_keeps
    | with_reducible apply upd_keeps

theorem execVinStable_keeps {o s : State} (h : Keeps o s) (mv : Nat) : KeepsR o (execVinStable mv s) := by
  unfold execVinStable
  iterate 25 all_goals try first
    | with_reducible assumption
    | with_reducible apply done_keeps
    | with_reducible apply State.modPwr_keeps
    | split
    | with_reducible apply next_keeps
    | with_reducible apply upd_keeps

theorem execRailOutOfTolerance_keeps {o s : State} (h : Keeps o s) (rail : Nat) : KeepsR o (execRailOutOfTolerance rail s) := by
  unfold execRailOutOfTolerance
  iterate 25 all_goals try first
    | with_reducible assumption
    | with_reducible apply done_keeps
    | with_reducible apply State.modPwr_keeps
    | split
    | with_reducible apply next_keeps
    | with_reducible apply upd_keeps

theorem execStandby_keeps {o s : State} (h : Keeps o s) (a0 : Nat) : KeepsR o (execStandby a0 s) := by
  unfold execStandby
  iterate 25 all_goals try first
    | with_reducible assumption
    | with_reducible apply byReader_keeps
    | with_reducible apply standbyCmd_keeps
    | split
    | with_reducible apply next_keeps
    | with_reducible apply upd_keeps

theorem State.modRngTest_keeps {o s : State} (h : Keeps o s) (a1 : Nat) (f : SessRng → SessRng) : Keeps o (State.modRngTest s a1 f) := by
  unfold State.modRngTest
  iterate 25 all_goals try first
    | with_reducible assumption
    | with_reducible apply State.modSess_keeps
    | split
    | with_reducible apply next_keeps
    | with_reducible apply upd_keeps

theorem readTestLo_keeps {o s : State} (h : Keeps o s) (a0 : Nat) : Keeps o (readTestLo a0 s).2 := by
  unfold readTestLo
  iterate 25 all_goals try first
    | with_reducible assumption
    | with_reducible apply State.modRngTest_keeps
    | split
    | with_reducible apply next_keeps
    | with_reducible apply upd_keeps

theorem readRng_keeps {o s : State} (h : Keeps o s) (a0 : Nat) (off : Nat) : Keeps o (readRng a0 off s).2 := by
  unfold readRng
  iterate 25 all_goals try first
    | with_reducible assumption
    | with_reducible apply readTestLo_keeps
    | split
    | with_reducible apply next_keeps
    | with_reducible apply upd_keeps

theorem readReg_keeps {o s : State} (h : Keeps o s) (a0 : Nat) (off : Nat) : Keeps o (readReg a0 off s).2 := by
  unfold readReg
  iterate 25 all_goals try first
    | with_reducible assumption
    | with_reducible exact Keeps.refl _
    | with_reducible apply readPwr_keeps
    | with_reducible apply readRng_keeps
    | with_reducible apply readEvrec_keeps
    | with_reducible apply readTimeline_keeps
    | intro _
    | split
    | with_reducible apply ite_keeps
    | with_reducible apply ite2_keeps
    | with_reducible apply iteR_keeps
    | with_reducible apply next_keeps
    | with_reducible apply each_keeps
    | with_reducible apply foldl_keeps'
    | with_reducible apply foldl2_keeps
    | with_reducible apply foldl3_keeps
    | with_reducible apply foldl4_keeps
    | with_reducible apply chain_keeps
    | with_reducible apply gather_keeps
    | with_reducible apply readThen_keeps
    | dsimp only
    | (refine Keeps.of_eq (by with_reducible assumption) ?_)
    | with_reducible apply upd_keeps

theorem smbRead_keeps {o s : State} (h : Keeps o s) : Keeps o (smbRead s).2 := by
  unfold smbRead
  iterate 25 all_goals try first
    | with_reducible assumption
    | with_reducible exact Keeps.refl _
    | with_reducible apply readReg_keeps
    | with_reducible apply denied_keeps
    | intro _
    | split
    | with_reducible apply ite_keeps
    | with_reducible apply ite2_keeps
    | with_reducible apply iteR_keeps
    | with_reducible apply next_keeps
    | with_reducible apply each_keeps
    | with_reducible apply foldl_keeps'
    | with_reducible apply foldl2_keeps
    | with_reducible apply foldl3_keeps
    | with_reducible apply foldl4_keeps
    | with_reducible apply chain_keeps
    | with_reducible apply gather_keeps
    | with_reducible apply readThen_keeps
    | dsimp only
    | (refine Keeps.of_eq (by with_reducible assumption) ?_)
    | with_reducible apply upd_keeps

theorem State.modInt_keeps {o s : State} (h : Keeps o s) (a1 : Nat) (f : SessInt → SessInt) : Keeps o (State.modInt s a1 f) := by
  unfold State.modInt
  iterate 25 all_goals try first
    | with_reducible assumption
    | with_reducible apply State.modSess_keeps
    | split
    | with_reducible apply next_keeps
    | with_reducible apply upd_keeps

theorem writeIntEnable_keeps {o s : State} (h : Keeps o s) (a0 : Nat) (v : W32) : Keeps o (writeIntEnable a0 v s) := by
  unfold writeIntEnable
  iterate 25 all_goals try first
    | with_reducible assumption
    | with_reducible apply flushInt_keeps
    | with_reducible apply State.modInt_keeps
    | split
    | with_reducible apply next_keeps
    | with_reducible apply upd_keeps

theorem execAlertResponse_keeps {o s : State} (h : Keeps o s) : KeepsR o (execAlertResponse s) := by
  unfold execAlertResponse
  iterate 25 all_goals try first
    | with_reducible assumption
    | with_reducible apply done_keeps
    | with_reducible apply emit_keeps
    | split
    | with_reducible apply next_keeps
    | with_reducible apply upd_keeps

theorem readRegs_keeps {o s : State} (h : Keeps o s) (a0 : Nat) (a1 : Nat) (a2 : Nat) : Keeps o (readRegs a0 a1 a2 s).2 := by
  induction a1 generalizing s a0 a2 with
  | zero =>
    unfold readRegs
    iterate 25 all_goals try first
      | with_reducible assumption
      | with_reducible exact Keeps.refl _
      | with_reducible apply readReg_keeps
      | intro _
      | split
      | with_reducible apply ite_keeps
      | with_reducible apply ite2_keeps
      | with_reducible apply iteR_keeps
      | with_reducible apply next_keeps
      | with_reducible apply each_keeps
      | with_reducible apply foldl_keeps'
      | with_reducible apply foldl2_keeps
      | with_reducible apply foldl3_keeps
      | with_reducible apply foldl4_keeps
      | with_reducible apply chain_keeps
      | with_reducible apply gather_keeps
      | with_reducible apply readThen_keeps
      | dsimp only
      | (refine Keeps.of_eq (by with_reducible assumption) ?_)
      | with_reducible apply upd_keeps
  | succ n ih =>
    unfold readRegs
    iterate 25 all_goals try first
      | with_reducible assumption
      | with_reducible exact Keeps.refl _
      | with_reducible apply ih
      | with_reducible apply readReg_keeps
      | intro _
      | split
      | with_reducible apply ite_keeps
      | with_reducible apply ite2_keeps
      | with_reducible apply iteR_keeps
      | with_reducible apply next_keeps
      | with_reducible apply each_keeps
      | with_reducible apply foldl_keeps'
      | with_reducible apply foldl2_keeps
      | with_reducible apply foldl3_keeps
      | with_reducible apply foldl4_keeps
      | with_reducible apply chain_keeps
      | with_reducible apply gather_keeps
      | with_reducible apply readThen_keeps
      | dsimp only
      | (refine Keeps.of_eq (by with_reducible assumption) ?_)
      | with_reducible apply upd_keeps

theorem execRegRead_keeps {o s : State} (h : Keeps o s) (q : Req) : KeepsR o (execRegRead q s) := by
  unfold execRegRead
  iterate 25 all_goals try first
    | with_reducible assumption
    | with_reducible exact Keeps.refl _
    | with_reducible apply done_keeps
    | with_reducible apply serve_keeps
    | with_reducible apply readRegs_keeps
    | intro _
    | split
    | with_reducible apply ite_keeps
    | with_reducible apply ite2_keeps
    | with_reducible apply iteR_keeps
    | with_reducible apply next_keeps
    | with_reducible apply each_keeps
    | with_reducible apply foldl_keeps'
    | with_reducible apply foldl2_keeps
    | with_reducible apply foldl3_keeps
    | with_reducible apply foldl4_keeps
    | with_reducible apply chain_keeps
    | with_reducible apply gather_keeps
    | with_reducible apply readThen_keeps
    | dsimp only
    | (refine Keeps.of_eq (by with_reducible assumption) ?_)
    | with_reducible apply upd_keeps

theorem execIntEnable_keeps {o s : State} (h : Keeps o s) (a0 : Nat) (v : W32) : KeepsR o (execIntEnable a0 v s) := by
  unfold execIntEnable
  iterate 25 all_goals try first
    | with_reducible assumption
    | with_reducible exact Keeps.refl _
    | with_reducible apply byReader_keeps
    | with_reducible apply writeIntEnable_keeps
    | intro _
    | split
    | with_reducible apply ite_keeps
    | with_reducible apply ite2_keeps
    | with_reducible apply iteR_keeps
    | with_reducible apply next_keeps
    | with_reducible apply each_keeps
    | with_reducible apply foldl_keeps'
    | with_reducible apply foldl2_keeps
    | with_reducible apply foldl3_keeps
    | with_reducible apply foldl4_keeps
    | with_reducible apply chain_keeps
    | with_reducible apply gather_keeps
    | with_reducible apply readThen_keeps
    | dsimp only
    | (refine Keeps.of_eq (by with_reducible assumption) ?_)
    | with_reducible apply upd_keeps

theorem execBoundaryScanAccess_keeps {o s : State} (h : Keeps o s) (ir : Nat) : KeepsR o (execBoundaryScanAccess ir s) := by
  unfold execBoundaryScanAccess
  iterate 25 all_goals try first
    | with_reducible assumption
    | with_reducible apply emit_keeps
    | split
    | with_reducible apply next_keeps
    | with_reducible apply upd_keeps

theorem State.modSel_keeps {o s : State} (h : Keeps o s) (a1 : Nat) (f : SessSel → SessSel) : Keeps o (State.modSel s a1 f) := by
  unfold State.modSel
  iterate 25 all_goals try first
    | with_reducible assumption
    | with_reducible apply State.modSess_keeps
    | split
    | with_reducible apply next_keeps
    | with_reducible apply upd_keeps

theorem writeIntDest_keeps {o s : State} (h : Keeps o s) (a0 : Nat) (v : W32) : Keeps o (writeIntDest a0 v s) := by
  unfold writeIntDest
  iterate 25 all_goals try first
    | with_reducible assumption
    | with_reducible apply State.modInt_keeps
    | split
    | with_reducible apply next_keeps
    | with_reducible apply upd_keeps

theorem writeSession_keeps {o s : State} (h : Keeps o s) (a0 : Nat) (off : Nat) (v : W32) : Keeps o (writeSession a0 off v s) := by
  unfold writeSession
  iterate 25 all_goals try first
    | with_reducible assumption
    | with_reducible apply State.modSel_keeps
    | with_reducible apply writeIntDest_keeps
    | with_reducible apply State.modInt_keeps
    | with_reducible apply writeIntEnable_keeps
    | with_reducible apply State.modProf_keeps
    | with_reducible apply writeQueueHead_keeps
    | with_reducible apply writeProfileCmd_keeps
    | split
    | with_reducible apply next_keeps
    | with_reducible apply upd_keeps

theorem smbReads_keeps {o s : State} (h : Keeps o s) (a0 : Nat) : Keeps o (smbReads a0 s).2 := by
  induction a0 generalizing s  with
  | zero =>
    unfold smbReads
    iterate 25 all_goals try first
      | with_reducible assumption
      | with_reducible exact Keeps.refl _
      | with_reducible apply smbRead_keeps
      | intro _
      | split
      | with_reducible apply ite_keeps
      | with_reducible apply ite2_keeps
      | with_reducible apply iteR_keeps
      | with_reducible apply next_keeps
      | with_reducible apply each_keeps
      | with_reducible apply foldl_keeps'
      | with_reducible apply foldl2_keeps
      | with_reducible apply foldl3_keeps
      | with_reducible apply foldl4_keeps
      | with_reducible apply chain_keeps
      | with_reducible apply gather_keeps
      | with_reducible apply readThen_keeps
      | dsimp only
      | (refine Keeps.of_eq (by with_reducible assumption) ?_)
      | with_reducible apply upd_keeps
  | succ n ih =>
    unfold smbReads
    iterate 25 all_goals try first
      | with_reducible assumption
      | with_reducible exact Keeps.refl _
      | with_reducible apply ih
      | with_reducible apply smbRead_keeps
      | intro _
      | split
      | with_reducible apply ite_keeps
      | with_reducible apply ite2_keeps
      | with_reducible apply iteR_keeps
      | with_reducible apply next_keeps
      | with_reducible apply each_keeps
      | with_reducible apply foldl_keeps'
      | with_reducible apply foldl2_keeps
      | with_reducible apply foldl3_keeps
      | with_reducible apply foldl4_keeps
      | with_reducible apply chain_keeps
      | with_reducible apply gather_keeps
      | with_reducible apply readThen_keeps
      | dsimp only
      | (refine Keeps.of_eq (by with_reducible assumption) ?_)
      | with_reducible apply upd_keeps

theorem smbReply_keeps {o s : State} (h : Keeps o s) (n : Nat) : KeepsR o (smbReply n s) := by
  unfold smbReply
  iterate 25 all_goals try first
    | with_reducible assumption
    | with_reducible apply done_keeps
    | with_reducible apply smbReads_keeps
    | with_reducible apply emit_keeps
    | split
    | with_reducible apply next_keeps
    | with_reducible apply upd_keeps

theorem execRead_keeps {o s : State} (h : Keeps o s) : KeepsR o (execRead s) := by
  unfold execRead
  iterate 25 all_goals try first
    | with_reducible assumption
    | with_reducible apply smbReply_keeps
    | split
    | with_reducible apply next_keeps
    | with_reducible apply upd_keeps

theorem execRngTestOutLo_keeps {o s : State} (h : Keeps o s) (a0 : Nat) : KeepsR o (execRngTestOutLo a0 s) := by
  unfold execRngTestOutLo
  iterate 25 all_goals try first
    | with_reducible assumption
    | with_reducible exact Keeps.refl _
    | with_reducible apply byReader_keeps
    | with_reducible apply readTestLo_keeps
    | intro _
    | split
    | with_reducible apply ite_keeps
    | with_reducible apply ite2_keeps
    | with_reducible apply iteR_keeps
    | with_reducible apply next_keeps
    | with_reducible apply each_keeps
    | with_reducible apply foldl_keeps'
    | with_reducible apply foldl2_keeps
    | with_reducible apply foldl3_keeps
    | with_reducible apply foldl4_keeps
    | with_reducible apply chain_keeps
    | with_reducible apply gather_keeps
    | with_reducible apply readThen_keeps
    | dsimp only
    | (refine Keeps.of_eq (by with_reducible assumption) ?_)
    | with_reducible apply upd_keeps

theorem smbDenied_keeps {o s : State} (h : Keeps o s) (off : Nat) : Keeps o (smbDenied off s) := by
  unfold smbDenied
  iterate 25 all_goals try first
    | with_reducible assumption
    | with_reducible apply denied_keeps
    | with_reducible apply evrecErr_keeps
    | split
    | with_reducible apply next_keeps
    | with_reducible apply upd_keeps

theorem readUnits_keeps {o s : State} (h : Keeps o s) (tier : Nat) (a1 : Nat) (a2 : Nat) (a3 : Nat) : Keeps o (readUnits tier a1 a2 a3 s).2 := by
  induction a1 generalizing s tier a2 a3 with
  | zero =>
    unfold readUnits
    iterate 25 all_goals try first
      | with_reducible assumption
      | with_reducible exact Keeps.refl _
      | with_reducible apply readFull_keeps
      | intro _
      | split
      | with_reducible apply ite_keeps
      | with_reducible apply ite2_keeps
      | with_reducible apply iteR_keeps
      | with_reducible apply next_keeps
      | with_reducible apply each_keeps
      | with_reducible apply foldl_keeps'
      | with_reducible apply foldl2_keeps
      | with_reducible apply foldl3_keeps
      | with_reducible apply foldl4_keeps
      | with_reducible apply chain_keeps
      | with_reducible apply gather_keeps
      | with_reducible apply readThen_keeps
      | dsimp only
      | (refine Keeps.of_eq (by with_reducible assumption) ?_)
      | with_reducible apply upd_keeps
  | succ n ih =>
    unfold readUnits
    iterate 25 all_goals try first
      | with_reducible assumption
      | with_reducible exact Keeps.refl _
      | with_reducible apply ih
      | with_reducible apply readFull_keeps
      | intro _
      | split
      | with_reducible apply ite_keeps
      | with_reducible apply ite2_keeps
      | with_reducible apply iteR_keeps
      | with_reducible apply next_keeps
      | with_reducible apply each_keeps
      | with_reducible apply foldl_keeps'
      | with_reducible apply foldl2_keeps
      | with_reducible apply foldl3_keeps
      | with_reducible apply foldl4_keeps
      | with_reducible apply chain_keeps
      | with_reducible apply gather_keeps
      | with_reducible apply readThen_keeps
      | dsimp only
      | (refine Keeps.of_eq (by with_reducible assumption) ?_)
      | with_reducible apply upd_keeps

theorem runMemRead_keeps {o s : State} (h : Keeps o s) (q : Req) : Keeps o (runMemRead q s).2 := by
  unfold runMemRead
  iterate 25 all_goals try first
    | with_reducible assumption
    | with_reducible exact Keeps.refl _
    | with_reducible apply readUnits_keeps
    | intro _
    | split
    | with_reducible apply ite_keeps
    | with_reducible apply ite2_keeps
    | with_reducible apply iteR_keeps
    | with_reducible apply next_keeps
    | with_reducible apply each_keeps
    | with_reducible apply foldl_keeps'
    | with_reducible apply foldl2_keeps
    | with_reducible apply foldl3_keeps
    | with_reducible apply foldl4_keeps
    | with_reducible apply chain_keeps
    | with_reducible apply gather_keeps
    | with_reducible apply readThen_keeps
    | dsimp only
    | (refine Keeps.of_eq (by with_reducible assumption) ?_)
    | with_reducible apply upd_keeps

theorem writeQuant_keeps {o s : State} (h : Keeps o s) (a0 : Nat) (off : Nat) (v : W32) : Keeps o (writeQuant a0 off v s) := by
  unfold writeQuant
  iterate 25 all_goals try first
    | with_reducible assumption
    | with_reducible apply State.modSel_keeps
    | split
    | with_reducible apply next_keeps
    | with_reducible apply upd_keeps

theorem writeRng_keeps {o s : State} (h : Keeps o s) (a0 : Nat) (off : Nat) (v : W32) : Keeps o (writeRng a0 off v s) := by
  unfold writeRng
  iterate 25 all_goals try first
    | with_reducible assumption
    | with_reducible apply State.modRngTest_keeps
    | split
    | with_reducible apply next_keeps
    | with_reducible apply upd_keeps

theorem streamCmd_keeps {o s : State} (h : Keeps o s) (a0 : Nat) (v : W32) : Keeps o (streamCmd a0 v s) := by
  unfold streamCmd
  iterate 25 all_goals try first
    | with_reducible assumption
    | with_reducible apply startNow_keeps
    | with_reducible apply doResume_keeps
    | with_reducible apply doStop_keeps
    | with_reducible apply doClose_keeps
    | with_reducible apply doPark_keeps
    | with_reducible apply streamErr_keeps
    | with_reducible apply doAbort_keeps
    | split
    | with_reducible apply next_keeps
    | with_reducible apply upd_keeps

theorem writeStream_keeps {o s : State} (h : Keeps o s) (a0 : Nat) (off : Nat) (v : W32) : Keeps o (writeStream a0 off v s) := by
  unfold writeStream
  iterate 25 all_goals try first
    | with_reducible assumption
    | with_reducible apply writeSeedHi_keeps
    | with_reducible apply writeStartHi_keeps
    | with_reducible apply writeParkHi_keeps
    | with_reducible apply writeInvT_keeps
    | with_reducible apply writeLoHalf_keeps
    | with_reducible apply streamCmd_keeps
    | with_reducible apply streamErr_keeps
    | with_reducible apply State.modStream_keeps
    | split
    | with_reducible apply next_keeps
    | with_reducible apply upd_keeps

theorem writeReg_keeps {o s : State} (h : Keeps o s) (a0 : Nat) (off : Nat) (v : W32) : Keeps o (writeReg a0 off v s) := by
  unfold writeReg
  iterate 25 all_goals try first
    | with_reducible assumption
    | with_reducible apply writeTxn_keeps
    | with_reducible apply writeSap_keeps
    | with_reducible apply writeSec_keeps
    | with_reducible apply writeLinkReg_keeps
    | with_reducible apply writeProt_keeps
    | with_reducible apply writeBellows_keeps
    | with_reducible apply writeSched_keeps
    | with_reducible apply writeTag_keeps
    | with_reducible apply writeQuant_keeps
    | with_reducible apply writeSession_keeps
    | with_reducible apply writeMemReg_keeps
    | with_reducible apply writeTimeline_keeps
    | with_reducible apply writeRng_keeps
    | with_reducible apply writeEvrec_keeps
    | with_reducible apply writePwr_keeps
    | with_reducible apply writeEth_keeps
    | with_reducible apply writeStream_keeps
    | with_reducible apply writeImageReg_keeps
    | split
    | with_reducible apply next_keeps
    | with_reducible apply upd_keeps

theorem writeRaced_keeps {o s : State} (h : Keeps o s) (a0 : Nat) (off : Nat) (v : W32) (raced : W32) : Keeps o (writeRaced a0 off v raced s) := by
  unfold writeRaced
  iterate 25 all_goals try first
    | with_reducible assumption
    | with_reducible apply writeReg_keeps
    | with_reducible apply flushInt_keeps
    | with_reducible apply State.modInt_keeps
    | split
    | with_reducible apply next_keeps
    | with_reducible apply upd_keeps

theorem execRegWrite_keeps {o s : State} (h : Keeps o s) (q : Raced Req) : KeepsR o (execRegWrite q s) := by
  unfold execRegWrite
  iterate 25 all_goals try first
    | with_reducible assumption
    | with_reducible exact Keeps.refl _
    | with_reducible apply done_keeps
    | with_reducible apply writeRaced_keeps
    | with_reducible apply resetAfter_keeps
    | with_reducible apply serve_keeps
    | intro _
    | split
    | with_reducible apply ite_keeps
    | with_reducible apply ite2_keeps
    | with_reducible apply iteR_keeps
    | with_reducible apply next_keeps
    | with_reducible apply each_keeps
    | with_reducible apply foldl_keeps'
    | with_reducible apply foldl2_keeps
    | with_reducible apply foldl3_keeps
    | with_reducible apply foldl4_keeps
    | with_reducible apply chain_keeps
    | with_reducible apply gather_keeps
    | with_reducible apply readThen_keeps
    | dsimp only
    | (refine Keeps.of_eq (by with_reducible assumption) ?_)
    | with_reducible apply upd_keeps

theorem execIntDest_keeps {o s : State} (h : Keeps o s) (a0 : Nat) (v : W32) : KeepsR o (execIntDest a0 v s) := by
  unfold execIntDest
  iterate 25 all_goals try first
    | with_reducible assumption
    | with_reducible exact Keeps.refl _
    | with_reducible apply byReader_keeps
    | with_reducible apply writeIntDest_keeps
    | intro _
    | split
    | with_reducible apply ite_keeps
    | with_reducible apply ite2_keeps
    | with_reducible apply iteR_keeps
    | with_reducible apply next_keeps
    | with_reducible apply each_keeps
    | with_reducible apply foldl_keeps'
    | with_reducible apply foldl2_keeps
    | with_reducible apply foldl3_keeps
    | with_reducible apply foldl4_keeps
    | with_reducible apply chain_keeps
    | with_reducible apply gather_keeps
    | with_reducible apply readThen_keeps
    | dsimp only
    | (refine Keeps.of_eq (by with_reducible assumption) ?_)
    | with_reducible apply upd_keeps

theorem runMemWrite_keeps {o s : State} (h : Keeps o s) (q : Req) : Keeps o (runMemWrite q s).2 := by
  unfold runMemWrite
  iterate 25 all_goals try first
    | with_reducible assumption
    | with_reducible exact Keeps.refl _
    | with_reducible apply ingressRest_keeps
    | with_reducible apply writeTagged_keeps
    | with_reducible apply ingressBad_keeps
    | with_reducible apply State.modProf_keeps
    | intro _
    | split
    | with_reducible apply ite_keeps
    | with_reducible apply ite2_keeps
    | with_reducible apply iteR_keeps
    | with_reducible apply next_keeps
    | with_reducible apply each_keeps
    | with_reducible apply foldl_keeps'
    | with_reducible apply foldl2_keeps
    | with_reducible apply foldl3_keeps
    | with_reducible apply foldl4_keeps
    | with_reducible apply chain_keeps
    | with_reducible apply gather_keeps
    | with_reducible apply readThen_keeps
    | dsimp only
    | (refine Keeps.of_eq (by with_reducible assumption) ?_)
    | with_reducible apply upd_keeps

theorem execRead8_keeps {o s : State} (h : Keeps o s) : KeepsR o (execRead8 s) := by
  unfold execRead8
  iterate 25 all_goals try first
    | with_reducible assumption
    | with_reducible apply smbReply_keeps
    | split
    | with_reducible apply next_keeps
    | with_reducible apply upd_keeps

theorem smbWrite_keeps {o s : State} (h : Keeps o s) (data : List Byte) (pecOk : Bool) {f : W32 → State → State} (hf : ∀ {o s : State} (v : W32), Keeps o s → Keeps o (f v s)) : KeepsR o (smbWrite data pecOk f s) := by
  unfold smbWrite
  iterate 25 all_goals try first
    | with_reducible assumption
    | with_reducible apply done_keeps
    | with_reducible apply State.modPwr_keeps
    | with_reducible apply emit_keeps
    | with_reducible apply hf
    | split
    | with_reducible apply next_keeps

theorem execWrite_keeps {o s : State} (h : Keeps o s) (data : Raced (List Byte)) (pecOk : Bool) : KeepsR o (execWrite data pecOk s) := by
  unfold execWrite
  iterate 25 all_goals try first
    | with_reducible assumption
    | with_reducible exact Keeps.refl _
    | with_reducible apply smbDenied_keeps
    | with_reducible apply writeRaced_keeps
    | with_reducible apply smbWrite_keeps
    | with_reducible apply resetAfter_keeps
    | intro _
    | split
    | with_reducible apply ite_keeps
    | with_reducible apply ite2_keeps
    | with_reducible apply iteR_keeps
    | with_reducible apply next_keeps
    | with_reducible apply each_keeps
    | with_reducible apply foldl_keeps'
    | with_reducible apply foldl2_keeps
    | with_reducible apply foldl3_keeps
    | with_reducible apply foldl4_keeps
    | with_reducible apply chain_keeps
    | with_reducible apply gather_keeps
    | with_reducible apply readThen_keeps
    | dsimp only
    | (refine Keeps.of_eq (by with_reducible assumption) ?_)
    | with_reducible apply upd_keeps

theorem execRegisterWrite_keeps {o s : State} (h : Keeps o s) (a0 : Nat) (off : W32) (v : Raced W32) : KeepsR o (execRegisterWrite a0 off v s) := by
  unfold execRegisterWrite
  iterate 25 all_goals try first
    | with_reducible assumption
    | with_reducible exact Keeps.refl _
    | with_reducible apply done_keeps
    | with_reducible apply smbDenied_keeps
    | with_reducible apply writeRaced_keeps
    | with_reducible apply byReader_keeps
    | with_reducible apply resetAfter_keeps
    | intro _
    | split
    | with_reducible apply ite_keeps
    | with_reducible apply ite2_keeps
    | with_reducible apply iteR_keeps
    | with_reducible apply next_keeps
    | with_reducible apply each_keeps
    | with_reducible apply foldl_keeps'
    | with_reducible apply foldl2_keeps
    | with_reducible apply foldl3_keeps
    | with_reducible apply foldl4_keeps
    | with_reducible apply chain_keeps
    | with_reducible apply gather_keeps
    | with_reducible apply readThen_keeps
    | dsimp only
    | (refine Keeps.of_eq (by with_reducible assumption) ?_)
    | with_reducible apply upd_keeps

theorem execSetOffset_keeps {o s : State} (h : Keeps o s) (data : List Byte) (pecOk : Bool) : KeepsR o (execSetOffset data pecOk s) := by
  unfold execSetOffset
  iterate 25 all_goals try first
    | with_reducible assumption
    | with_reducible exact Keeps.refl _
    | with_reducible apply smbWrite_keeps
    | intro _
    | split
    | with_reducible apply ite_keeps
    | with_reducible apply ite2_keeps
    | with_reducible apply iteR_keeps
    | with_reducible apply next_keeps
    | with_reducible apply each_keeps
    | with_reducible apply foldl_keeps'
    | with_reducible apply foldl2_keeps
    | with_reducible apply foldl3_keeps
    | with_reducible apply foldl4_keeps
    | with_reducible apply chain_keeps
    | with_reducible apply gather_keeps
    | with_reducible apply readThen_keeps
    | dsimp only
    | (refine Keeps.of_eq (by with_reducible assumption) ?_)
    | with_reducible apply upd_keeps

theorem execSmbusTimeout_keeps {o s : State} (h : Keeps o s) : KeepsR o (execSmbusTimeout s) := by
  unfold execSmbusTimeout
  iterate 25 all_goals try first
    | with_reducible assumption
    | split
    | with_reducible apply next_keeps
    | with_reducible apply upd_keeps

theorem execMemRead_keeps {o s : State} (h : Keeps o s) (q : Req) (ups : List Upset) : KeepsR o (execMemRead q ups s) := by
  unfold execMemRead
  iterate 25 all_goals try first
    | with_reducible assumption
    | with_reducible exact Keeps.refl _
    | with_reducible apply done_keeps
    | with_reducible apply serve_keeps
    | with_reducible apply applyUpsets_keeps
    | with_reducible apply runMemRead_keeps
    | intro _
    | split
    | with_reducible apply ite_keeps
    | with_reducible apply ite2_keeps
    | with_reducible apply iteR_keeps
    | with_reducible apply next_keeps
    | with_reducible apply each_keeps
    | with_reducible apply foldl_keeps'
    | with_reducible apply foldl2_keeps
    | with_reducible apply foldl3_keeps
    | with_reducible apply foldl4_keeps
    | with_reducible apply chain_keeps
    | with_reducible apply gather_keeps
    | with_reducible apply readThen_keeps
    | dsimp only
    | (refine Keeps.of_eq (by with_reducible assumption) ?_)
    | with_reducible apply upd_keeps

theorem execMemWrite_keeps {o s : State} (h : Keeps o s) (q : Req) (ups : List Upset) : KeepsR o (execMemWrite q ups s) := by
  unfold execMemWrite
  iterate 25 all_goals try first
    | with_reducible assumption
    | with_reducible exact Keeps.refl _
    | with_reducible apply done_keeps
    | with_reducible apply serve_keeps
    | with_reducible apply runMemWrite_keeps
    | with_reducible apply applyUpsets_keeps
    | intro _
    | split
    | with_reducible apply ite_keeps
    | with_reducible apply ite2_keeps
    | with_reducible apply iteR_keeps
    | with_reducible apply next_keeps
    | with_reducible apply each_keeps
    | with_reducible apply foldl_keeps'
    | with_reducible apply foldl2_keeps
    | with_reducible apply foldl3_keeps
    | with_reducible apply foldl4_keeps
    | with_reducible apply chain_keeps
    | with_reducible apply gather_keeps
    | with_reducible apply readThen_keeps
    | dsimp only
    | (refine Keeps.of_eq (by with_reducible assumption) ?_)
    | with_reducible apply upd_keeps

theorem exec_keeps {o s : State} (h : Keeps o s) (i : Instr) : KeepsR o (exec i s) := by
  cases i with
  | registerWrite r off v => exact execRegisterWrite_keeps h _ _ _
  | sessionOpen q => exact execSessionOpen_keeps h _
  | sessionClose q => exact execSessionClose_keeps h _
  | sessionLeaseExpiry sess => exact execSessionLeaseExpiry_keeps h _
  | nop q => exact execNop_keeps h _
  | stMessageRefused ip port raw => exact execStMessageRefused_keeps h _ _ _
  | regRead q => exact execRegRead_keeps h _
  | regWrite q => exact execRegWrite_keeps h _
  | memRead q ups => exact execMemRead_keeps h _ _
  | memWrite q ups => exact execMemWrite_keeps h _ _
  | streamOpen q => exact execStreamOpen_keeps h _
  | submit q => exact execSubmit_keeps h _
  | streamBind q => exact execStreamBind_keeps h _
  | destWrite q => exact execDestWrite_keeps h _
  | destRead q => exact execDestRead_keeps h _
  | coChallenge q => exact execCoChallenge_keeps h _
  | coAuth q => exact execCoAuth_keeps h _
  | authLockoutEnd => exact execAuthLockoutEnd_keeps h
  | coEnrol q => exact execCoEnrol_keeps h _
  | attest q => exact execAttest_keeps h _
  | certRead q => exact execCertRead_keeps h _
  | keyAgree q => exact execKeyAgree_keeps h _
  | sakLoad q => exact execSakLoad_keeps h _
  | saCtrl q => exact execSaCtrl_keeps h _
  | markKeyLoad q => exact execMarkKeyLoad_keeps h _
  | svnCommit q => exact execSvnCommit_keeps h _
  | keyRevoke q => exact execKeyRevoke_keeps h _
  | fwWrite q => exact execFwWrite_keeps h _
  | zeroise q => exact execZeroise_keeps h _
  | secZeroise r v => exact execSecZeroise_keeps h _ _
  | zeroiseWipeComplete => exact execZeroiseWipeComplete_keeps h
  | selftest q => exact execSelftest_keeps h _
  | random q => exact execRandom_keeps h _
  | tile via q => exact execTile_keeps h _ _
  | signal q => exact execSignal_keeps h _
  | ringAdmit via q => exact execRingAdmit_keeps h _ _
  | ringAbort via q => exact execRingAbort_keeps h _ _
  | ringClose via q => exact execRingClose_keeps h _ _
  | ringLeaseExpiry stream => exact execRingLeaseExpiry_keeps h _
  | arp senderMac senderIp targetIp => exact execArp_keeps h _ _ _
  | neighbourSolicitation source target => exact execNeighbourSolicitation_keeps h _ _
  | echoRequest source dest v6 data => exact execEchoRequest_keeps h _ _ _ _
  | udpOtherPort dport => exact execUdpOtherPort_keeps h _
  | macsecDrop sc an isProtected icvOk pn => exact execMacsecDrop_keeps h _ _ _ _ _
  | addressResolution entry found => exact execAddressResolution_keeps h _ _
  | ethLinkUp at16 fails => exact execEthLinkUp_keeps h _ _
  | ethLinkDown => exact execEthLinkDown_keeps h
  | ptpSync sec ns offset => exact execPtpSync_keeps h _ _ _
  | ptpAnnounce a => exact execPtpAnnounce_keeps h _
  | announceReceiptTimeout => exact execAnnounceReceiptTimeout_keeps h
  | ethPtpCfg r v => exact execEthPtpCfg_keeps h _ _
  | tlIncrement tau sapStart cc => exact execTlIncrement_keeps h _ _ _
  | wclkInEdge since sinceInc => exact execWclkInEdge_keeps h _ _
  | wclkLoss since => exact execWclkLoss_keeps h _
  | ptpLoss ms => exact execPtpLoss_keeps h _
  | tlAutoStep sec ns => exact execTlAutoStep_keeps h _ _
  | tlLoad r => exact execTlLoad_keeps h _
  | tlStep r sec ns => exact execTlStep_keeps h _ _ _
  | tlCtrl r v => exact execTlCtrl_keeps h _ _
  | tlStatLen r v => exact execTlStatLen_keeps h _ _
  | quantLatch => exact execQuantLatch_keeps h
  | tlPosLo r => exact execTlPosLo_keeps h _
  | tileArrival link => exact execTileArrival_keeps h _
  | stepSelect stage cc ups seg => exact execStepSelect_keeps h _ _ _ _
  | stepStall stage cc link => exact execStepStall_keeps h _ _ _
  | stepComplete stage cc consumed => exact execStepComplete_keeps h _ _ _
  | watchdogAbort die steps waited => exact execWatchdogAbort_keeps h _ _ _
  | chSubmit r => exact execChSubmit_keeps h _
  | chRestart r => exact execChRestart_keeps h _
  | descriptorCheck ch => exact execDescriptorCheck_keeps h _
  | bellowsUnitTransfer ch ups => exact execBellowsUnitTransfer_keeps h _ _
  | tileFetchStart link head entries ups => exact execTileFetchStart_keeps h _ _ _ _
  | waitLimit ch waited => exact execWaitLimit_keeps h _ _
  | start r => exact execStart_keeps h _
  | stop r => exact execStop_keeps h _
  | park r => exact execPark_keeps h _
  | parkComplete stream => exact execParkComplete_keeps h _
  | resume r => exact execResume_keeps h _
  | restoreComplete stream ups => exact execRestoreComplete_keeps h _ _
  | close r => exact execClose_keeps h _
  | closeComplete stream => exact execCloseComplete_keeps h _
  | abort r => exact execAbort_keeps h _
  | streamLoHalfWrite r off v => exact execStreamLoHalfWrite_keeps h _ _ _
  | streamSeedHi r v => exact execStreamSeedHi_keeps h _ _
  | streamInvT r v => exact execStreamInvT_keeps h _ _
  | streamStartHi r v => exact execStreamStartHi_keeps h _ _
  | streamParkHi r v => exact execStreamParkHi_keeps h _ _
  | queueHead r v => exact execQueueHead_keeps h _ _
  | store r profile => exact execStore_keeps h _ _
  | delete r profile => exact execDelete_keeps h _ _
  | prefetch r profile => exact execPrefetch_keeps h _ _
  | profileCmdEnd r => exact execProfileCmdEnd_keeps h _
  | profileFetchComplete profile ups => exact execProfileFetchComplete_keeps h _ _
  | txnAppend r => exact execTxnAppend_keeps h _
  | txnSubmit r immediate rtppos => exact execTxnSubmit_keeps h _ _ _
  | txnClear r => exact execTxnClear_keeps h _
  | txnCancel r => exact execTxnCancel_keeps h _
  | intEnable r v => exact execIntEnable_keeps h _ _
  | intDest r v => exact execIntDest_keeps h _ _
  | imageLen r v => exact execImageLen_keeps h _ _
  | verify r => exact execVerify_keeps h _
  | verifyComplete => exact execVerifyComplete_keeps h
  | activate r => exact execActivate_keeps h _
  | activateComplete ups => exact execActivateComplete_keeps h _
  | deactivate r => exact execDeactivate_keeps h _
  | discard r => exact execDiscard_keeps h _
  | hbmTrainingComplete fail => exact execHbmTrainingComplete_keeps h _
  | ddrTrainingComplete dimms => exact execDdrTrainingComplete_keeps h _
  | tierFillComplete tier => exact execTierFillComplete_keeps h _
  | dronePage tier device ups => exact execDronePage_keeps h _ _ _
  | pageRepair tier device ups => exact execPageRepair_keeps h _ _ _
  | flitReceive k bytes checks => exact execFlitReceive_keeps h _ _ _
  | flitSend k => exact execFlitSend_keeps h _
  | tileMessageSend k => exact execTileMessageSend_keeps h _
  | replayTimeout k => exact execReplayTimeout_keeps h _
  | creditTimeout k data => exact execCreditTimeout_keeps h _ _
  | laneLockLoss k => exact execLaneLockLoss_keeps h _
  | klCtrl r v => exact execKlCtrl_keeps h _ _
  | trainingTimeout k => exact execTrainingTimeout_keeps h _
  | trainingRetry k => exact execTrainingRetry_keeps h _
  | holdExpiry link => exact execHoldExpiry_keeps h _
  | gapSend link position => exact execGapSend_keeps h _ _
  | klLinkPeer r v => exact execKlLinkPeer_keeps h _ _
  | klRingMember r v => exact execKlRingMember_keeps h _ _
  | ethDevAddr r v => exact execEthDevAddr_keeps h _ _
  | sapCmdStart r port => exact execSapCmdStart_keeps h _ _
  | startExt r port => exact execStartExt_keeps h _ _
  | sapCmdStop r port => exact execSapCmdStop_keeps h _ _
  | stopNow r port => exact execStopNow_keeps h _ _
  | sapCmdCancel r port => exact execSapCmdCancel_keeps h _ _
  | sapFrameStart port => exact execSapFrameStart_keeps h _
  | slaveFrameStart port bitClocks => exact execSlaveFrameStart_keeps h _ _
  | clkLost port => exact execClkLost_keeps h _
  | sapMask r port v lastTwoClocks => exact execSapMask_keeps h _ _ _ _
  | sapSlotMap r port slot v => exact execSapSlotMap_keeps h _ _ _ _
  | rngTestOutLo r => exact execRngTestOutLo_keeps h _
  | evrecData0 r => exact execEvrecData0_keeps h _
  | evrecData7 r => exact execEvrecData7_keeps h _
  | evrecCtrl r v => exact execEvrecCtrl_keeps h _ _
  | freezeExpiry r => exact execFreezeExpiry_keeps h _
  | evrecClear r v => exact execEvrecClear_keeps h _ _
  | clearEraseComplete => exact execClearEraseComplete_keeps h
  | slotProgramComplete => exact execSlotProgramComplete_keeps h
  | sectorEraseComplete => exact execSectorEraseComplete_keeps h
  | minuteTick => exact execMinuteTick_keeps h
  | counterPersist => exact execCounterPersist_keeps h
  | vinPresent mv => exact execVinPresent_keeps h _
  | vinStable mv => exact execVinStable_keeps h _
  | vinFault mv => exact execVinFault_keeps h _
  | railRegulation rail => exact execRailRegulation_keeps h _
  | pwrGoodRise => exact execPwrGoodRise_keeps h
  | railFault rail mv => exact execRailFault_keeps h _ _
  | railsOff => exact execRailsOff_keeps h
  | modRstNAssert => exact execModRstNAssert_keeps h
  | modRstNRelease brdPos => exact execModRstNRelease_keeps h _
  | resetEnd brdPos => exact execResetEnd_keeps h _
  | bootStageComplete ms => exact execBootStageComplete_keeps h _
  | standby r => exact execStandby_keeps h _
  | wake r => exact execWake_keeps h _
  | wakeComplete => exact execWakeComplete_keeps h
  | pwrReset r v => exact execPwrReset_keeps h _ _
  | thermalSample temps => exact execThermalSample_keeps h _
  | telemetryUpdate mv ma mw mj => exact execTelemetryUpdate_keeps h _ _ _ _
  | pwrEnergyLo r => exact execPwrEnergyLo_keeps h _
  | setOffset data pecOk => exact execSetOffset_keeps h _ _
  | read => exact execRead_keeps h
  | read8 => exact execRead8_keeps h
  | write data pecOk => exact execWrite_keeps h _ _
  | alertResponse => exact execAlertResponse_keeps h
  | wclkOutFall => exact execWclkOutFall_keeps h
  | standbyDomainOff mv => exact execStandbyDomainOff_keeps h _
  | railOutOfTolerance rail => exact execRailOutOfTolerance_keeps h _
  | smbusTimeout => exact execSmbusTimeout_keeps h
  | boundaryScanAccess ir => exact execBoundaryScanAccess_keeps h _
  | igmpMldReport v6 query => exact execIgmpMldReport_keeps h _ _

end Sys2Proof.Machine
end

