-- ==== Sys2Proof/Laws/PerInstr.lean ====
section
/-! SUPPORT. What well-formedness gives of every command, one lemma a command. -/

namespace Sys2Proof.Laws.Ranges

open Sys2Proof

/-- A well-formed command names a reader there is, and a request of at most 8,192 bytes of payload (R330). -/
def Statement (i : Instr) : Prop :=
  i.wf = true →
    (∀ w r, i.access? = some (w, r) → r ≤ 8) ∧ ∀ typ q, i.request? = some (typ, q) → q.payload.length ≤ 8192

theorem of_reader {i : Instr} {w : Machine.Reach} {r : Nat} (ha : i.access? = some (w, r)) (hq : i.request? = none)
    (h : i.wf = true → readerOk r = true) : Statement i := by
  intro hw
  refine ⟨fun w' r' e => ?_, fun typ q e => ?_⟩
  · rw [ha, Option.some.injEq, Prod.mk.injEq] at e
    exact e.2 ▸ of_decide_eq_true (h hw)
  · rw [hq] at e
    cases e

theorem of_request {i : Instr} {typ : Byte} {q : Req} (ha : i.access? = none) (hq : i.request? = some (typ, q))
    (h : i.wf = true → q.wf = true) : Statement i := by
  intro hw
  refine ⟨fun w' r' e => ?_, fun typ' q' e => ?_⟩
  · rw [ha] at e
    cases e
  · rw [hq, Option.some.injEq, Prod.mk.injEq] at e
    exact e.2 ▸ of_decide_eq_true (h hw)

theorem of_other {i : Instr} (ha : i.access? = none) (hq : i.request? = none) : Statement i := by
  refine fun _ => ⟨fun w r e => ?_, fun typ q e => ?_⟩
  · rw [ha] at e
    cases e
  · rw [hq] at e
    cases e

theorem and_left {a b : Bool} (h : (a && b) = true) : a = true := by
  cases a
  · cases h
  · rfl

theorem registerWrite (r : Nat) (off : W32) (v : Raced W32) : Statement (.registerWrite r off v) := of_other rfl rfl
theorem sessionOpen (q : Req) : Statement (.sessionOpen q) := of_other rfl rfl
theorem sessionClose (q : Req) : Statement (.sessionClose q) := of_request rfl rfl id
theorem sessionLeaseExpiry (sess : Nat) : Statement (.sessionLeaseExpiry sess) := of_other rfl rfl
theorem nop (q : Req) : Statement (.nop q) := of_request rfl rfl id
theorem stMessageRefused (ip : BitVec 128) (port : W16) (raw : List Byte) : Statement (.stMessageRefused ip port raw) := of_other rfl rfl
theorem regRead (q : Req) : Statement (.regRead q) := of_request rfl rfl id
theorem regWrite (q : Raced Req) : Statement (.regWrite q) := of_request rfl rfl id
theorem memRead (q : Req) (ups : List Upset) : Statement (.memRead q ups) := of_request rfl rfl (fun h => and_left h)
theorem memWrite (q : Req) (ups : List Upset) : Statement (.memWrite q ups) := of_request rfl rfl (fun h => and_left h)
theorem streamOpen (q : Req) : Statement (.streamOpen q) := of_request rfl rfl id
theorem submit (q : Req) : Statement (.submit q) := of_request rfl rfl id
theorem streamBind (q : Req) : Statement (.streamBind q) := of_request rfl rfl id
theorem destWrite (q : Req) : Statement (.destWrite q) := of_request rfl rfl id
theorem destRead (q : Req) : Statement (.destRead q) := of_request rfl rfl id
theorem coChallenge (q : Req) : Statement (.coChallenge q) := of_request rfl rfl id
theorem coAuth (q : Req) : Statement (.coAuth q) := of_request rfl rfl id
theorem authLockoutEnd : Statement .authLockoutEnd := of_other rfl rfl
theorem coEnrol (q : Req) : Statement (.coEnrol q) := of_request rfl rfl id
theorem attest (q : Req) : Statement (.attest q) := of_request rfl rfl id
theorem certRead (q : Req) : Statement (.certRead q) := of_request rfl rfl id
theorem keyAgree (q : Req) : Statement (.keyAgree q) := of_request rfl rfl id
theorem sakLoad (q : Req) : Statement (.sakLoad q) := of_request rfl rfl id
theorem saCtrl (q : Req) : Statement (.saCtrl q) := of_request rfl rfl id
theorem markKeyLoad (q : Req) : Statement (.markKeyLoad q) := of_request rfl rfl id
theorem svnCommit (q : Req) : Statement (.svnCommit q) := of_request rfl rfl id
theorem keyRevoke (q : Req) : Statement (.keyRevoke q) := of_request rfl rfl id
theorem fwWrite (q : Req) : Statement (.fwWrite q) := of_request rfl rfl id
theorem zeroise (q : Req) : Statement (.zeroise q) := of_request rfl rfl id
theorem secZeroise (r : Nat) (v : W32) : Statement (.secZeroise r v) := of_reader rfl rfl id
theorem zeroiseWipeComplete : Statement .zeroiseWipeComplete := of_other rfl rfl
theorem selftest (q : Req) : Statement (.selftest q) := of_request rfl rfl id
theorem random (q : Req) : Statement (.random q) := of_request rfl rfl id
theorem tile (via : Option Nat) (q : Req) : Statement (.tile via q) := of_other rfl rfl
theorem signal (q : Req) : Statement (.signal q) := of_other rfl rfl
theorem ringAdmit (via : Option Nat) (q : Req) : Statement (.ringAdmit via q) := of_other rfl rfl
theorem ringAbort (via : Option Nat) (q : Req) : Statement (.ringAbort via q) := of_other rfl rfl
theorem ringClose (via : Option Nat) (q : Req) : Statement (.ringClose via q) := of_other rfl rfl
theorem ringLeaseExpiry (stream : Nat) : Statement (.ringLeaseExpiry stream) := of_other rfl rfl
theorem arp (senderMac : BitVec 48) (senderIp targetIp : W32) : Statement (.arp senderMac senderIp targetIp) := of_other rfl rfl
theorem neighbourSolicitation (source target : BitVec 128) : Statement (.neighbourSolicitation source target) := of_other rfl rfl
theorem echoRequest (source dest : BitVec 128) (v6 : Bool) (data : List Byte) : Statement (.echoRequest source dest v6 data) := of_other rfl rfl
theorem udpOtherPort (dport : W16) : Statement (.udpOtherPort dport) := of_other rfl rfl
theorem macsecDrop (sc : Nat) (an : Nat) (isProtected icvOk : Bool) (pn : Nat) : Statement (.macsecDrop sc an isProtected icvOk pn) := of_other rfl rfl
theorem addressResolution (entry : Nat) (found : Option (BitVec 48)) : Statement (.addressResolution entry found) := of_other rfl rfl
theorem ethLinkUp (at16 : Bool) (fails : Nat) : Statement (.ethLinkUp at16 fails) := of_other rfl rfl
theorem ethLinkDown : Statement .ethLinkDown := of_other rfl rfl
theorem ptpSync (sec : BitVec 48) (ns : BitVec 30) (offset : Int) : Statement (.ptpSync sec ns offset) := of_other rfl rfl
theorem ptpAnnounce (a : Announce) : Statement (.ptpAnnounce a) := of_other rfl rfl
theorem announceReceiptTimeout : Statement .announceReceiptTimeout := of_other rfl rfl
theorem ethPtpCfg (r : Nat) (v : W32) : Statement (.ethPtpCfg r v) := of_reader rfl rfl id
theorem tlIncrement (tau : Nat) (sapStart : Bool) (cc : Nat) : Statement (.tlIncrement tau sapStart cc) := of_other rfl rfl
theorem wclkInEdge (since sinceInc : Nat) : Statement (.wclkInEdge since sinceInc) := of_other rfl rfl
theorem wclkLoss (since : Nat) : Statement (.wclkLoss since) := of_other rfl rfl
theorem ptpLoss (ms : Nat) : Statement (.ptpLoss ms) := of_other rfl rfl
theorem tlAutoStep (sec : BitVec 48) (ns : BitVec 30) : Statement (.tlAutoStep sec ns) := of_other rfl rfl
theorem tlLoad (r : Nat) : Statement (.tlLoad r) := of_reader rfl rfl id
theorem tlStep (r : Nat) (sec : BitVec 48) (ns : BitVec 30) : Statement (.tlStep r sec ns) := of_reader rfl rfl (fun h => and_left h)
theorem tlCtrl (r : Nat) (v : W32) : Statement (.tlCtrl r v) := of_reader rfl rfl id
theorem tlStatLen (r : Nat) (v : W32) : Statement (.tlStatLen r v) := of_reader rfl rfl id
theorem quantLatch : Statement .quantLatch := of_other rfl rfl
theorem tlPosLo (r : Nat) : Statement (.tlPosLo r) := of_reader rfl rfl id
theorem tileArrival (link : Nat) : Statement (.tileArrival link) := of_other rfl rfl
theorem stepSelect (stage cc : Nat) (ups : List Upset) (seg : Segment) : Statement (.stepSelect stage cc ups seg) := of_other rfl rfl
theorem stepStall (stage : Nat) (cc : Nat) (link : Nat) : Statement (.stepStall stage cc link) := of_other rfl rfl
theorem stepComplete (stage : Nat) (cc : Nat) (consumed : List (Nat × Nat)) : Statement (.stepComplete stage cc consumed) := of_other rfl rfl
theorem watchdogAbort (die : Nat) (steps : List (Nat × Nat)) (waited : Nat) : Statement (.watchdogAbort die steps waited) := of_other rfl rfl
theorem chSubmit (r : Nat) : Statement (.chSubmit r) := of_reader rfl rfl id
theorem chRestart (r : Nat) : Statement (.chRestart r) := of_reader rfl rfl id
theorem descriptorCheck (ch : Nat) : Statement (.descriptorCheck ch) := of_other rfl rfl
theorem bellowsUnitTransfer (ch : Nat) (ups : List Upset) : Statement (.bellowsUnitTransfer ch ups) := of_other rfl rfl
theorem tileFetchStart (link : Nat) (head entries : List Byte) (ups : List Upset) : Statement (.tileFetchStart link head entries ups) := of_other rfl rfl
theorem waitLimit (ch : Nat) (waited : Nat) : Statement (.waitLimit ch waited) := of_other rfl rfl
theorem start (r : Nat) : Statement (.start r) := of_reader rfl rfl id
theorem stop (r : Nat) : Statement (.stop r) := of_reader rfl rfl id
theorem park (r : Nat) : Statement (.park r) := of_reader rfl rfl id
theorem parkComplete (stream : Nat) : Statement (.parkComplete stream) := of_other rfl rfl
theorem resume (r : Nat) : Statement (.resume r) := of_reader rfl rfl id
theorem restoreComplete (stream : Nat) (ups : List Upset) : Statement (.restoreComplete stream ups) := of_other rfl rfl
theorem close (r : Nat) : Statement (.close r) := of_reader rfl rfl id
theorem closeComplete (stream : Nat) : Statement (.closeComplete stream) := of_other rfl rfl
theorem abort (r : Nat) : Statement (.abort r) := of_reader rfl rfl id
theorem streamLoHalfWrite (r : Nat) (off v : W32) : Statement (.streamLoHalfWrite r off v) := of_reader rfl rfl id
theorem streamSeedHi (r : Nat) (v : W32) : Statement (.streamSeedHi r v) := of_reader rfl rfl id
theorem streamInvT (r : Nat) (v : W32) : Statement (.streamInvT r v) := of_reader rfl rfl id
theorem streamStartHi (r : Nat) (v : W32) : Statement (.streamStartHi r v) := of_reader rfl rfl id
theorem streamParkHi (r : Nat) (v : W32) : Statement (.streamParkHi r v) := of_reader rfl rfl id
theorem queueHead (r : Nat) (v : W32) : Statement (.queueHead r v) := of_reader rfl rfl id
theorem store (r : Nat) (profile : Nat) : Statement (.store r profile) := of_reader rfl rfl (fun h => and_left h)
theorem delete (r : Nat) (profile : Nat) : Statement (.delete r profile) := of_reader rfl rfl (fun h => and_left h)
theorem prefetch (r : Nat) (profile : Nat) : Statement (.prefetch r profile) := of_reader rfl rfl (fun h => and_left h)
theorem profileCmdEnd (r : Nat) : Statement (.profileCmdEnd r) := of_other rfl rfl
theorem profileFetchComplete (profile : Nat) (ups : List Upset) : Statement (.profileFetchComplete profile ups) := of_other rfl rfl
theorem txnAppend (r : Nat) : Statement (.txnAppend r) := of_reader rfl rfl id
theorem txnSubmit (r : Nat) (immediate rtppos : Bool) : Statement (.txnSubmit r immediate rtppos) := of_reader rfl rfl id
theorem txnClear (r : Nat) : Statement (.txnClear r) := of_reader rfl rfl id
theorem txnCancel (r : Nat) : Statement (.txnCancel r) := of_reader rfl rfl id
theorem intEnable (r : Nat) (v : W32) : Statement (.intEnable r v) := of_reader rfl rfl id
theorem intDest (r : Nat) (v : W32) : Statement (.intDest r v) := of_reader rfl rfl id
theorem imageLen (r : Nat) (v : W32) : Statement (.imageLen r v) := of_reader rfl rfl id
theorem verify (r : Nat) : Statement (.verify r) := of_reader rfl rfl id
theorem verifyComplete : Statement .verifyComplete := of_other rfl rfl
theorem activate (r : Nat) : Statement (.activate r) := of_reader rfl rfl id
theorem activateComplete (ups : List Upset) : Statement (.activateComplete ups) := of_other rfl rfl
theorem deactivate (r : Nat) : Statement (.deactivate r) := of_reader rfl rfl id
theorem discard (r : Nat) : Statement (.discard r) := of_reader rfl rfl id
theorem hbmTrainingComplete (fail : W16) : Statement (.hbmTrainingComplete fail) := of_other rfl rfl
theorem ddrTrainingComplete (dimms : List Dimm) : Statement (.ddrTrainingComplete dimms) := of_other rfl rfl
theorem tierFillComplete (tier : Nat) : Statement (.tierFillComplete tier) := of_other rfl rfl
theorem dronePage (tier device : Nat) (ups : List Upset) : Statement (.dronePage tier device ups) := of_other rfl rfl
theorem pageRepair (tier device : Nat) (ups : List Upset) : Statement (.pageRepair tier device ups) := of_other rfl rfl
theorem flitReceive (k : Nat) (bytes checks : List Byte) : Statement (.flitReceive k bytes checks) := of_other rfl rfl
theorem flitSend (k : Nat) : Statement (.flitSend k) := of_other rfl rfl
theorem tileMessageSend (k : Nat) : Statement (.tileMessageSend k) := of_other rfl rfl
theorem replayTimeout (k : Nat) : Statement (.replayTimeout k) := of_other rfl rfl
theorem creditTimeout (k : Nat) (data : Bool) : Statement (.creditTimeout k data) := of_other rfl rfl
theorem laneLockLoss (k : Nat) : Statement (.laneLockLoss k) := of_other rfl rfl
theorem klCtrl (r : Nat) (v : W32) : Statement (.klCtrl r v) := of_reader rfl rfl id
theorem trainingTimeout (k : Nat) : Statement (.trainingTimeout k) := of_other rfl rfl
theorem trainingRetry (k : Nat) : Statement (.trainingRetry k) := of_other rfl rfl
theorem holdExpiry (link : Nat) : Statement (.holdExpiry link) := of_other rfl rfl
theorem gapSend (link position : Nat) : Statement (.gapSend link position) := of_other rfl rfl
theorem klLinkPeer (r : Nat) (v : W32) : Statement (.klLinkPeer r v) := of_reader rfl rfl id
theorem klRingMember (r : Nat) (v : W32) : Statement (.klRingMember r v) := of_reader rfl rfl id
theorem ethDevAddr (r : Nat) (v : W32) : Statement (.ethDevAddr r v) := of_reader rfl rfl id
theorem sapCmdStart (r port : Nat) : Statement (.sapCmdStart r port) := of_reader rfl rfl (fun h => and_left h)
theorem startExt (r port : Nat) : Statement (.startExt r port) := of_reader rfl rfl (fun h => and_left h)
theorem sapCmdStop (r port : Nat) : Statement (.sapCmdStop r port) := of_reader rfl rfl (fun h => and_left h)
theorem stopNow (r port : Nat) : Statement (.stopNow r port) := of_reader rfl rfl (fun h => and_left h)
theorem sapCmdCancel (r port : Nat) : Statement (.sapCmdCancel r port) := of_reader rfl rfl (fun h => and_left h)
theorem sapFrameStart (port : Nat) : Statement (.sapFrameStart port) := of_other rfl rfl
theorem slaveFrameStart (port bitClocks : Nat) : Statement (.slaveFrameStart port bitClocks) := of_other rfl rfl
theorem clkLost (port : Nat) : Statement (.clkLost port) := of_other rfl rfl
theorem sapMask (r port : Nat) (v : W32) (lastTwoClocks : Bool) : Statement (.sapMask r port v lastTwoClocks) := of_reader rfl rfl (fun h => and_left h)
theorem sapSlotMap (r port slot : Nat) (v : W32) : Statement (.sapSlotMap r port slot v) := of_reader rfl rfl (fun h => and_left (and_left h))
theorem rngTestOutLo (r : Nat) : Statement (.rngTestOutLo r) := of_reader rfl rfl id
theorem evrecData0 (r : Nat) : Statement (.evrecData0 r) := of_reader rfl rfl id
theorem evrecData7 (r : Nat) : Statement (.evrecData7 r) := of_reader rfl rfl id
theorem evrecCtrl (r : Nat) (v : W32) : Statement (.evrecCtrl r v) := of_reader rfl rfl id
theorem freezeExpiry (r : Nat) : Statement (.freezeExpiry r) := of_other rfl rfl
theorem evrecClear (r : Nat) (v : W32) : Statement (.evrecClear r v) := of_other rfl rfl
theorem clearEraseComplete : Statement .clearEraseComplete := of_other rfl rfl
theorem slotProgramComplete : Statement .slotProgramComplete := of_other rfl rfl
theorem sectorEraseComplete : Statement .sectorEraseComplete := of_other rfl rfl
theorem minuteTick : Statement .minuteTick := of_other rfl rfl
theorem counterPersist : Statement .counterPersist := of_other rfl rfl
theorem vinPresent (mv : Nat) : Statement (.vinPresent mv) := of_other rfl rfl
theorem vinStable (mv : Nat) : Statement (.vinStable mv) := of_other rfl rfl
theorem vinFault (mv : Nat) : Statement (.vinFault mv) := of_other rfl rfl
theorem railRegulation (rail : Nat) : Statement (.railRegulation rail) := of_other rfl rfl
theorem pwrGoodRise : Statement .pwrGoodRise := of_other rfl rfl
theorem railFault (rail mv : Nat) : Statement (.railFault rail mv) := of_other rfl rfl
theorem railsOff : Statement .railsOff := of_other rfl rfl
theorem modRstNAssert : Statement .modRstNAssert := of_other rfl rfl
theorem modRstNRelease (brdPos : BitVec 3) : Statement (.modRstNRelease brdPos) := of_other rfl rfl
theorem resetEnd (brdPos : BitVec 3) : Statement (.resetEnd brdPos) := of_other rfl rfl
theorem bootStageComplete (ms : Nat) : Statement (.bootStageComplete ms) := of_other rfl rfl
theorem standby (r : Nat) : Statement (.standby r) := of_reader rfl rfl id
theorem wake (r : Nat) : Statement (.wake r) := of_reader rfl rfl id
theorem wakeComplete : Statement .wakeComplete := of_other rfl rfl
theorem pwrReset (r : Nat) (v : W32) : Statement (.pwrReset r v) := of_reader rfl rfl id
theorem thermalSample (temps : List (Nat × W16)) : Statement (.thermalSample temps) := of_other rfl rfl
theorem telemetryUpdate (mv ma mw mj : Nat) : Statement (.telemetryUpdate mv ma mw mj) := of_other rfl rfl
theorem pwrEnergyLo (r : Nat) : Statement (.pwrEnergyLo r) := of_reader rfl rfl id
theorem setOffset (data : List Byte) (pecOk : Bool) : Statement (.setOffset data pecOk) := of_other rfl rfl
theorem read : Statement .read := of_other rfl rfl
theorem read8 : Statement .read8 := of_other rfl rfl
theorem write (data : Raced (List Byte)) (pecOk : Bool) : Statement (.write data pecOk) := of_other rfl rfl
theorem alertResponse : Statement .alertResponse := of_other rfl rfl
theorem wclkOutFall : Statement .wclkOutFall := of_other rfl rfl
theorem standbyDomainOff (mv : Nat) : Statement (.standbyDomainOff mv) := of_other rfl rfl
theorem railOutOfTolerance (rail : Nat) : Statement (.railOutOfTolerance rail) := of_other rfl rfl
theorem smbusTimeout : Statement .smbusTimeout := of_other rfl rfl
theorem boundaryScanAccess (ir : Nat) : Statement (.boundaryScanAccess ir) := of_other rfl rfl
theorem igmpMldReport (v6 : Bool) (query : Bool) : Statement (.igmpMldReport v6 query) := of_other rfl rfl

end Sys2Proof.Laws.Ranges
end

