-- ==== Sys2Proof/Tests/Slice0.lean ====
section
/-! SUPPORT. Tests: ill-formed commands refused, single steps with values from the manual, and for every statement with
hypotheses a state and operands that meet them. -/

-- One theorem at a time: checked side by side, the tests outgrow the memory the check gives.
set_option Elab.async false

namespace Sys2Proof.Tests

open Sys2Proof Sys2Proof.Machine

/-! ## States -/

/-- Session 0 open, the port up, power ON. -/
def live : State :=
  { sessions := [(0, { isOpen := true })], eth := { up := true, devAddr := 5, ptpState := .listening }
    pwr := { state := .on, stage := 5 } }

/-- A request of session 0 to the device. -/
def req (payload : List Byte) (arg : W64) : Req := ⟨0, 5, 9, 7, arg, 0x0A000001, 4000, payload⟩

/-- A request of session 3, which is not open. -/
def stray : Req := ⟨3, 5, 9, 7, 0, 0x0A000001, 4000, []⟩

/-- The module operational and SECURE, session 0 a Crypto Officer's with a key-encryption key. -/
def officer : State :=
  { live with
    sessions := [(0, { isOpen := true, role := true, co := true, kek := some 1 })]
    sec := { lifecycle := .secure, mode := .operational, creds := [(0, 1)], profileKey := some 1, fwSvn := 3 } }

/-- Memory READY, one image active: one stage, one link, and a plan of one stream at level 0. -/
def loaded : State :=
  { live with
    profCap := 16, profiles := [(1, { stored := true, len := 64, slot := some 0 })]
    mem := { ready := true, hbmTrained := true, ddrTrained := true, sramDone := true, hbmDone := true, ddrDone := true, used := [0, 2, 4, 6]
             dimms := List.replicate 8 ⟨true, true, true, 0, 2, 3⟩ }
    image := { state := .active, active := some {
      id := 7, stages := [⟨0, 0, 1, 0, 0, 0, 4, 0⟩], programs := [⟨0, 0, []⟩]
      links := [⟨0, 0xFFFF, 0, 0, 1, 2, 0, 0, 0, 0⟩, ⟨1, 0xFFFF, 0, 2, 1, 2, 0, 2, 0, 0⟩, ⟨2, 0, 0xFFFF, 4, 1, 2, 0, 0, 0, 0⟩]
      plans := [⟨0, 0, 3, 1, 4, 64, 480, [], 512, 64, 0⟩] } } }

/-! ## Ill-formed commands are refused, one for each check -/

theorem test_reader_nine_is_ill_formed : (Instr.registerWrite 9 0 ⟨0, 0⟩).wf = false := by decide
theorem test_long_payload_is_ill_formed : Req.wf (req (List.replicate 8193 0) 0) = false := by decide +kernel
theorem test_upset_of_tier_four_is_ill_formed : (Instr.memRead (req [] 0) [⟨4, 0, 1, 0⟩]).wf = false := by decide
theorem test_upset_site_six_is_ill_formed : (Instr.activateComplete [⟨0, 6, 0, 1⟩]).wf = false := by decide
theorem test_link_seven_is_ill_formed : (Instr.tile (some 7) (req [] 0)).wf = false := by decide
theorem test_lease_of_session_eight_is_ill_formed : (Instr.sessionLeaseExpiry 8).wf = false := by decide
theorem test_second_of_ns_is_ill_formed : (Instr.ptpSync 0 1000000000 0).wf = false := by decide
theorem test_step_second_of_ns_is_ill_formed : (Instr.tlStep 0 0 1000000000).wf = false := by decide
theorem test_profile_past_20_bits_is_ill_formed : (Instr.store 0 1048576).wf = false := by decide
theorem test_fetch_past_20_bits_is_ill_formed : (Instr.profileFetchComplete 1048576 []).wf = false := by decide
theorem test_stream_past_16_bits_is_ill_formed : (Instr.closeComplete 65536).wf = false := by decide
theorem test_channel_four_of_macsec_is_ill_formed : (Instr.macsecDrop 4 0 true true 0).wf = false := by decide
theorem test_association_four_is_ill_formed : (Instr.macsecDrop 0 4 true true 0).wf = false := by decide
theorem test_entry_4096_is_ill_formed : (Instr.addressResolution 4096 none).wf = false := by decide
theorem test_state_ram_has_two_sites : (Instr.dronePage 0 0 [⟨3, 2, 0, 1⟩]).wf = false := by decide
theorem test_link_past_the_weight_links_is_ill_formed : (Instr.tileArrival (65536 + 144)).wf = false := by decide
theorem test_stage_144_is_ill_formed : (Instr.stepSelect 144 0 [] ⟨0, []⟩).wf = false := by decide
theorem test_die_four_is_ill_formed : (Instr.watchdogAbort 4 [] 0).wf = false := by decide
theorem test_stage_of_watchdog_is_ill_formed : (Instr.watchdogAbort 0 [(144, 0)] 0).wf = false := by decide
theorem test_channel_256_is_ill_formed : (Instr.descriptorCheck 256).wf = false := by decide
theorem test_seven_sockets_are_ill_formed : (Instr.ddrTrainingComplete []).wf = false := by decide
theorem test_fill_of_tier_three_is_ill_formed : (Instr.tierFillComplete 3).wf = false := by decide
theorem test_device_sixteen_is_ill_formed : (Instr.dronePage 1 16 []).wf = false := by decide
theorem test_send_on_link_seven_is_ill_formed : (Instr.flitSend 7).wf = false := by decide
theorem test_flit_without_check_bytes_is_ill_formed : (Instr.flitReceive 0 (List.replicate 256 0) []).wf = false := by decide +kernel
theorem test_branch_nine_is_ill_formed : (Instr.gapSend 0 9).wf = false := by decide
theorem test_port_four_is_ill_formed : (Instr.sapCmdStart 0 4).wf = false := by decide
theorem test_slot_32_is_ill_formed : (Instr.sapSlotMap 0 0 32 0).wf = false := by decide
theorem test_rail_zero_is_ill_formed : (Instr.railRegulation 0).wf = false := by decide
theorem test_sensor_32_is_ill_formed : (Instr.thermalSample [(32, 0)]).wf = false := by decide
theorem test_long_block_is_ill_formed : (Instr.setOffset (List.replicate 256 0) true).wf = false := by decide +kernel
theorem test_well_formed_command : (Instr.sapSlotMap 8 3 31 0).wf = true := by decide

/-! ## The block and its commands -/

theorem witness_StepRunsTheFrontCommand : State.reset.pending = [] := by decide
theorem live_tidy : live.Tidy := ⟨by decide, by decide, by decide⟩
theorem witness_EveryStepKeepsDataCanonical : State.reset.Tidy ∧ ∃ t, step State.reset = .next t :=
  ⟨⟨by decide, by decide, by decide⟩, _, rfl⟩
theorem witness_EndOfCommandFrame : live.Tidy ∧ live.bureau.openRec = none := ⟨live_tidy, by decide⟩
theorem witness_WrittenBytesReadBack :
    2 < 3 ∧ live.mem.wf = true ∧ (live.tier 2).chk = [] ∧ (2 ≠ 1 ∨ 0 < 0 ∨ 0 + [(1 : Byte)].length ≤ 1) := by decide

/-! ## Registers -/

theorem witness_RegisterAccessesActOrAreIgnored :
    live.actsAs (reachOf 0x110004) 0 = true ∧ live.actsAs (reachOf 0xFFC) 0 = true ∧ live.actsAs (reachOf 0x120000) 0 = true ∧
    live.actsAs (reachOf 0x1001) 0 = true ∧ live.pwr.resetReq = false ∧ live.rng.lock = false ∧
    ({ live with rng := { lock := true } } : State).actsAs (reachOf 0x110008) 0 = true ∧ live.actsAs .session 0 = true := by
  decide
theorem witness_SmbusStaysInItsSubset :
    (Instr.tlLoad 8).access? = some (.session, 8) ∧ live.pwr.standbyOn = true ∧ live.smbReach .session = false ∧
    live.smbReach (reachOf 0x1000) = false ∧ (Instr.tlLoad 1).access? = some (.session, 1) ∧ (live.sess 1).isOpen = false ∧
    (Instr.wake 9).access? = some (.always, 9) ∧ ({ live with eth := {} } : State).receives = false := by decide
theorem witness_PositionCapturesAreKeptApart :
    live.Tidy ∧ (live.sess 0).isOpen = true ∧ live.receives = true := ⟨live_tidy, by decide, by decide⟩

/-! ## Requests and sessions -/

/-- Session 0 has answered request 7. -/
def answered : State :=
  { live with sessions := [(0, { isOpen := true, replies := [(7, replyMsg 0x03 (req [] 0) 0 (.ok []))] })] }
/-- Request 7 has opened session 0; and every session is open. -/
def opened : State :=
  { live with eth := { live.eth with opens := [(7, 0x0A000001, 4000, 0, replyMsg 0x01 (req [] 0) 0 (.ok []))] } }
def crowded : State := { live with sessions := (List.range 8).map fun i => (i, { isOpen := true }) }

theorem witness_RequestNeedsAnOpenSessionHere :
    (Instr.nop stray).request? = some (0x03, stray) ∧ live.pwr.resetReq = false ∧ live.receives = true ∧
    forUs stray.dstDev live = true ∧ (live.sess stray.session.toNat).isOpen = false ∧
    ({ stray with session := 8 } : Req).session.toNat = 8 ∧ ({ stray with dstDev := 6 } : Req).dstDev ≠ live.eth.devAddr := by
  decide
theorem witness_RepliesAreKeptAndSentAgain :
    (Instr.nop (req [] 0)).request? = some (0x03, req [] 0) ∧ answered.pwr.resetReq = false ∧ answered.receives = true ∧
    forUs 5 answered = true ∧ (answered.sess 0).isOpen = true ∧ answered.kl.waits = [] ∧
    (answered.sess 0).replies.find? (·.1 = 7) = some (7, replyMsg 0x03 (req [] 0) 0 (.ok [])) := by decide
theorem witness_kept_reply : live.Tidy ∧ live.eth.up = true ∧ live.eth.macsec.en = false ∧ State.reset.eth.up = false :=
  ⟨live_tidy, by decide, by decide, by decide⟩
theorem witness_SessionsOpenAndClose :
    live.executes (req [] 0) = true ∧ live.receives = true ∧ forUs 5 live = true ∧ live.eth.opens = [] ∧
    (req [] 0x101).arg.toNat = 1 + 256 * 1 ∧ (req [] 0xFF).arg.toNat = 0xFF + 256 * 0 ∧ (req [] 7).arg.toNat = 7 + 256 * 0 ∧
    (live.sess 0).isOpen = true ∧ (live.sess 1).isOpen = false ∧ (∀ j, j < 1 → (live.sess j).isOpen = true) ∧
    crowded.receives = true ∧ (∀ j, j < 8 → (crowded.sess j).isOpen = true) ∧ (req [] 8).arg.toNat = 8 + 256 * 0 ∧
    (opened.eth.opens.find? fun o => o.1 == 7 && o.2.1 == 0x0A000001 && o.2.2.1 == 4000 && decide (o.2.2.2.1 < 8)).isSome =
      true ∧ live.executes (req [0] 0) = true := by decide +kernel

/-- 28 bytes with the checks of R331 passed up to the address: version 1, TYPE 3, for device 5. -/
def datagram (dst : Byte) : List Byte :=
  let head : List Byte := [1, 3, 0, 0, dst, 0, 9, 0, 7, 0, 0, 0, 0, 0, 0, 0, 0, 0, 0, 0, 0, 0, 0, 0]
  head ++ leBytes 4 (crc32c head).toNat

theorem witness_MessageThatFailsACheckIsRefused :
    live.receives = true ∧ (datagram 6).length = 28 ∧ field (datagram 6) 12 2 = 0 ∧
    (crc32c ((datagram 6).take 24)).toNat = field (datagram 6) 24 4 ∧ field (datagram 6) 0 1 = 1 ∧
    field (datagram 6) 2 1 / 4 = 0 ∧ field (datagram 6) 14 2 = 0 ∧
    (rawReq 0 0 (datagram 6)).dstDev = 6 ∧ forUs 6 live = false ∧
    ¬ (crc32c ((List.replicate 28 (0 : Byte)).take 24)).toNat = field (List.replicate 28 0) 24 4 := by decide +kernel

theorem witness_RegisterMessagesReadAndWrite :
    live.executes (req [1, 0, 0, 0] 0x1000) = true ∧ field [1, 0, 0, 0] 0 4 = 1 ∧
    live.executes (req (List.replicate 8 0) 0) = true ∧ (∀ p ∈ regPairs (List.replicate 8 0), p.1 % 4 = 0) ∧
    live.executes (req [1, 0, 0, 0, 0, 0, 0, 0] 0) = true ∧ live.pwr.resetReq = false ∧
    (regPairs [1, 0, 0, 0, 0, 0, 0, 0]).findIdx? (fun p => p.1 % 4 != 0) = some 0 := by decide

/-- A read of 64 bytes, a write of 512 bytes, at the first host address of tier 0 to 2; and a state whose word 8 of tier 2 is
stored as poison. -/
def memReq (space : Nat) (payload : List Byte) : Req := req payload (BitVec.ofNat 64 (space * 2 ^ 48))
def poisoned : State := loaded.setTier 2 { loaded.mem.t2 with chk := [(8, 0xFF)] }
/-- The first address of session 0's staging buffer. -/
def stageReq (n : Nat) : Req := req (List.replicate n 0) (BitVec.ofNat 64 (3 * 2 ^ 48 + 0x01000000))

theorem witness_MemoryMessagesReadAndWrite :
    loaded.executes (memReq 2 [64, 0, 0, 0]) = true ∧ memArgOk (memReq 2 []) = true ∧ memSpace (memReq 2 []) = 2 ∧
    memAddr (memReq 2 []) = 0 ∧ loaded.mem.ready = true ∧ live.mem.ready = false ∧ memSpace (memReq 3 []) = 3 ∧
    firstRefused false 2 0 1 loaded = none ∧ (readUnits 2 1 0 0 loaded).1 = .inl (List.replicate 64 0) ∧
    (readUnits 2 1 0 64 poisoned).1 = .inr (.err 9 0 64) ∧
    firstRefused true 2 0 8 loaded = none ∧ (ingressRest 2 [(0, 512)] loaded).1 = true ∧
    (ingressRest 2 [(0, 64)] poisoned).1 = false ∧ (firstRefused true 0 0 1 loaded).isSome = true := by decide +kernel
theorem witness_staging_is_written :
    memArgOk (stageReq 64) = true ∧ memSpace (stageReq 64) = 3 ∧ memAddr (stageReq 64) = 0x01000000 ∧
    memAddr (memReq 3 []) < 0x01000000 := by decide +kernel

/-- An open of a plan, its ID left to the device: INV_T 1.0, LOG2 depths 4, 2 slots. -/
def openBody (plan : Byte) : List Byte :=
  [0, 0, plan, 8, 1, 0, 0, 0] ++ List.replicate 16 0 ++ [0xFF, 0xFF, 0, 0, 0, 0, 0x80, 0x3F, 4, 4, 2, 0, 0, 0, 0, 0] ++
    List.replicate 8 0
/-- The plan laid over two devices, this one (address 5) its member 0, member 1 at device 9; with the member tables not set,
and with them set; Kryter link K0 reaches device 9. -/
def group (ring : List (Nat × W32)) : State :=
  { loaded with
    kl := { ring := ring, links := [(0, { state := .up, valid := true, peerAddr := 9 })] }
    image := { loaded.image with active := loaded.image.active.map fun m => { m with
      plans := [⟨0, 0, 3, 2, 4, 64, 480, [], 512, 64, 0⟩] } } }
def grouped : State := group [(0, 0x80000005), (1, 0x80000009)]

theorem witness_StreamOpenIsDecidedAndAnswered :
    loaded.executes (req (openBody 0) 0) = true ∧ (openBody 0).length = 48 ∧
    (match (decideOpen (openBody 0) loaded).1 with | .inr o => decide (o.plan.seqGroup ≤ 1) | .inl _ => false) = true ∧
    (match (decideOpen (openBody 1) loaded).1 with | .inl x => x.code == 0x10 | .inr _ => false) = true ∧
    (match (decideOpen (openBody 0) grouped).1 with | .inr o => decide (1 < o.plan.seqGroup) | .inl _ => false) = true ∧
    grouped.ringSelf 0 2 = some 0 ∧ ((grouped.plan? 0).map fun p => ringReach p grouped) = some true ∧
    (group []).ringSelf 0 2 = none := by decide +kernel
/-- An open that restores a context at tier 1, address 0x40000, where there is none. -/
def restoreBody : List Byte := (((openBody 0).set 3 12).set 42 4).set 46 1
theorem witness_restore_is_refused :
    openRestores restoreBody = true ∧
    (match (decideOpen restoreBody loaded).1 with | .inl x => x.code == 0x15 | .inr _ => false) = true := by decide +kernel

/-- Stream 0 ADMITTED, with a command queue of 16 entries. -/
def admitted : State :=
  { loaded with streams := [(0, { state := .admitted })], queues := [(0, { pages := 1, depth := 16 })] }
/-- The word behind the first entry of the queue stored as poison. -/
def spoiltQueue : State :=
  admitted.setTier 1 { admitted.mem.t1 with chk := [(((admitted.queue 0).base + 64) / 8, 0xFF)] }

theorem witness_SubmissionsAndBindingsTakeEffect :
    admitted.executes (req (List.replicate 64 0) 0) = true ∧ (admitted.queue 0).present = true ∧
    takesEntries (admitted.stream 0) = true ∧
    (admitted.queue 0).held + 1 + (admitted.stream 0).restoring ≤ (admitted.queue 0).depth ∧
    (admitted.queue 0).depth < (admitted.queue 0).held + 17 ∧ (admitted.queue 1).present = false ∧
    (ingressRest 1 (entryRuns (admitted.queue 0) 1) admitted).1 = true ∧
    (ingressRest 1 (entryRuns (spoiltQueue.queue 0) 1) spoiltQueue).1 = false ∧
    admitted.executes (req [0xFF, 0xFF, 0xFF, 0xFF] 0) = true ∧ field [0xFF, 0xFF, 0xFF, 0xFF] 0 2 = 0xFFFF ∧
    (admitted.stream 0).isOpen = true := by decide +kernel

/-- Entry 4095 in use by stream 0's completions. -/
def bound : State := { admitted with streams := [(0, { state := .admitted, cplDest := some 4095 })] }

theorem witness_DestinationsAreWrittenAndRead :
    live.executes (req (List.replicate 64 0) 0) = true ∧ destInUse 0 live = false ∧
    destOk (BitVec.ofNat 512 (leNat (List.replicate 64 0))) = true ∧
    destOk (BitVec.ofNat 512 (leNat (List.replicate 64 0xFF))) = false ∧ destInUse 4095 bound = true ∧
    live.executes (req [] 4095) = true := by decide +kernel

/-! ## Security services -/

theorem witness_BarredServiceChangesNothing :
    (Instr.coEnrol (req [] 0)).service? = some (0x62, .any, false, req [] 0) ∧ live.executes (req [] 0) = true ∧
    (serviceBarred .any false false (req [] 0) live).isSome = true ∧
    (serviceBarred .any false false (req [] 0) { officer with sec := { officer.sec with lifecycle := .zeroised } }).isSome =
      true ∧
    (serviceBarred .co false false (req [] 0) { officer with sessions := live.sessions }).isSome = true := by decide

/-- A module before its first enrolment, and one where a User asks. -/
def fresh : State := { officer with sec := { officer.sec with lifecycle := .provisioning, creds := [] } }
def user : State := { officer with sessions := [(0, { isOpen := true })] }
/-- A credential and a signature's worth of bytes: credential 1, a key of ones, or none. -/
def enrol (key : Byte) : List Byte := [1] ++ List.replicate 7 0 ++ List.replicate 96 key

theorem witness_OfficerServicesTakeEffect :
    officer.executes (req [] 0) = true ∧ serviceBarred .role1 false false (req [] 0) officer = none ∧
    officer.executes (req (enrol 1) 0) = true ∧ (enrol 1).length = 104 ∧ field (enrol 1) 0 1 ≤ 3 ∧
    officer.sec.lockout = false ∧
    serviceBarred .any false false (req (enrol 1) 0) user = none ∧ user.sec.lifecycle = .secure ∧ (user.sess 0).co = false ∧
    serviceBarred .any false false (req (enrol 1) 0) fresh = none ∧ fresh.sec.lifecycle = .provisioning ∧
    pairAt (enrol 1) 8 ≠ 0 ∧ pairAt (enrol 0) 8 = 0 ∧ officer.sec.lifecycle = .secure ∧ (officer.sess 0).co = true ∧
    cput 0 1 0 officer.sec.creds = officer.sec.creds ∧ cput 0 0 0 officer.sec.creds = [] ∧
    cput 0 1 0 (cput 0 1 1 officer.sec.creds) ≠ cput 0 1 1 officer.sec.creds ∧
    cput 0 1 0 (cput 0 1 1 officer.sec.creds) ≠ [] := by
  decide +kernel
theorem witness_lockout_refuses :
    ({ officer with sec := { officer.sec with lockout := true } } : State).sec.lockout = true ∧
    serviceBarred .role1 false false (req [] 0) { officer with sec := { officer.sec with lockout := true } } = none := by
  decide
theorem witness_ReportsAndDrawsAreAnswered :
    officer.executes (req (List.replicate 48 0) 0) = true ∧
    serviceBarred .any false true (req [] 0) { officer with sec := { officer.sec with lifecycle := .zeroised } } = none ∧
    field [0, 32, 0, 0] 0 4 = 8192 ∧ officer.executes (req [0, 32, 0, 0] 0) = true ∧ officer.executes (req [] 256) = true ∧
    (req [] 256).arg.toNat = 256 ∧ serviceBarred .any false false (req [] 256) officer = none := by decide +kernel

/-- SAK_LOAD of receive channel 3, association 3. -/
def sak : Req := req ([1, 3, 3, 0] ++ List.replicate 76 0) 0

theorem witness_KeyServicesTakeEffect :
    officer.executes (req (List.replicate 96 0) 0) = true ∧ serviceBarred .co false false sak officer = none ∧
    sakForm sak = true ∧ officer.executes sak = true ∧ serviceBarred .coKek false false sak officer = none ∧
    saInUse 1 3 3 officer.eth.macsec = false ∧ saInUse 1 3 3 { rxEnable := 8, rx := [(15, { key := 1 })] } = true ∧
    officer.executes (req [3, 15, 0, 0, 0, 0, 0, 0] 0) = true ∧ 2 ^ 30 ≤ field [3, 15, 0, 0, 0, 0, 0, 64] 4 4 ∧
    field [3, 15, 0, 0, 255, 255, 255, 63] 4 4 < 2 ^ 30 ∧ field [3, 15, 0, 0, 0, 0, 0, 0] 0 1 = 3 ∧
    officer.eth.macsec.tx.any (·.1 == 3) = false ∧
    ({ tx := [(3, { key := 1 })] } : Macsec).tx.any (·.1 == 3) = true ∧
    officer.executes (req (List.replicate 40 0) 0) = true := by decide +kernel
theorem witness_FloorsRevocationAndFirmware :
    officer.executes (req [] 0) = true ∧ officer.sec.fwFloor.toNat < officer.sec.fwSvn.toNat ∧
    ({ officer.sec with fwFloor := 3 } : Sec).fwSvn.toNat ≤ ({ officer.sec with fwFloor := 3 } : Sec).fwFloor.toNat ∧
    officer.executes (req [] 1) = true ∧ (0 : W32).toNat ≤ officer.sec.imgFloor.toNat ∧
    ({ id := 1, svn := 1 } : Image).svn.toNat > officer.sec.imgFloor.toNat ∧
    officer.executes (req [] 0x700) = true ∧ (req [] 0x700).arg.toNat = 256 * 7 ∧
    ((0x80 : BitVec 8) ||| (1 <<< 7 : BitVec 8)) = 0x80 ∧ ((0x7F : BitVec 8) ||| (1 <<< 7 : BitVec 8)) = BitVec.allOnes 8 ∧
    ((0 : BitVec 8) ||| (1 <<< 7 : BitVec 8)) ≠ BitVec.allOnes 8 ∧
    officer.executes (req (List.replicate 64 0) 0) = true ∧ serviceBarred .co false false (req [] 0) officer = none := by
  decide +kernel
theorem witness_ZeroiseTakesEveryKey :
    officer.executes (req [] 0) = true ∧ ((officer.counted (req [] 0)).sess 0).co = true ∧
    officer.actsAs .subset 0 = true ∧ officer.actsAs .subset 8 = true ∧ (user.sess 0).co = false ∧
    ({ officer with sec := { officer.sec with wiping := true } } : State).sec.wiping = true := by decide

/-! ## Device links, neighbours and the port -/

/-- Kryter links K0 and K6 UP; a ring member at device 9; stream 1 a ring stream. -/
def linked : State :=
  { loaded with
    kl := { links := [(0, { state := .up, valid := true }), (6, { state := .up, valid := true })], ring := [(0, 0x80000009)] }
    streams := [(1, { state := .running, ring := some ⟨9, 1, 0⟩ })] }

/-- A device-link message: signal records, to no session. -/
def devMsg (payload : List Byte) : Req := { req payload 0 with session := 0xFF }

theorem witness_DeviceLinkMessagesAreTaken :
    (linked.klink 6).state = .up ∧ field [1] 0 1 = 1 ∧ field [2] 0 1 = 2 ∧ field [3] 0 1 = 3 ∧ linked.receives = true ∧
    forUs 5 linked = true ∧ linked.eth.devAddr.toNat < 0xFFFE ∧ (devMsg []).srcDev ≠ 0xFFFE ∧
    linked.memberWord 9 = some 0x80000009 ∧ (devMsg (List.replicate 8 0)).session = 0xFF ∧ (devMsg []).arg.toNat < 2 ^ 48 ∧
    field (devMsg [0, 0]).payload 0 2 = (devMsg [0, 0]).arg.toNat % 65536 ∧ (List.replicate 8 (0 : Byte)).length / 8 = 1 ∧
    live.memberWord 9 = none ∧ live.receives = true ∧ (req [] 0).session ≠ 0xFF ∧
    0xFFFE ≤ ({ live.eth with devAddr := 0xFFFF } : Eth).devAddr.toNat ∧ forUs 5 live = true ∧
    (linked.stream 1).isOpen = true ∧ (linked.stream 1).ring.isSome = true := by decide
theorem witness_device_link_message (q : Req) :
    (Instr.signal q, (0x51 : Byte)) ∈ [(Instr.tile none q, 0x50), (.signal q, 0x51), (.ringAdmit none q, 0x52),
      (.ringAbort none q, 0x52), (.ringClose none q, 0x52)] := by simp

/-- The port with an address, MACsec on, a PTP master, and destination entry 1 an on-link RTP one. -/
def port : State :=
  { live with eth := { live.eth with
      ip4 := 0xC0A80001, ip6 := 1, macsec := { en := true }, ptpState := .slave
      master := some ⟨0, [128], 5, 0⟩, dest := [(1, 1)] } }

theorem witness_protected_frame_passes :
    let m : Macsec := { en := true, rxEnable := 8, rx := [(15, { key := 1, pn := 7 })] }
    let s : State := { port with eth := { port.eth with macsec := m } }
    s.receives = true ∧ s.eth.macsec.en = true ∧ s.sec.mode ≠ .error ∧ s.eth.macsec.rxEnable.getLsbD 3 = true ∧
    s.eth.macsec.rx.find? (·.1 = 3 * 4 + 3) = some (15, { key := 1, pn := 7 }) ∧ 7 ≤ 7 + s.eth.macsec.window.toNat := by decide
theorem witness_NeighbourFramesAreAnswered :
    port.receives = true ∧ (1 : W32) ≠ 0 ∧ (1 : W32) ≠ port.eth.ip4 ∧ port.eth.ip4 ≠ 0 ∧
    (port.eth.ip4 != 0 && (0xC0A80001 : BitVec 128) == port.eth.ip4.setWidth 128) = true ∧
    (1 : W16) ≠ port.eth.stPort ∧ port.eth.macsec.en = true ∧ port.eth.macsec.rxEnable.getLsbD 3 = false ∧
    destKind (port.dest 1) ≠ 0 ∧ destField (port.dest 1) 40 6 = 0 ∧ destMulticast (port.dest 1) = false ∧
    (false = (port.eth.ptpV6 && port.eth.ptpProf != 1)) ∧ port.eth.ptpState ≠ .faulty := by decide +kernel
theorem witness_owned_address : port.ownsV6 1 = true := Bool.or_eq_true_iff.2 (.inr (by decide))

/-- A port without its link, trained to no speed yet. -/
def dark : State := { live with eth := { live.eth with up := false } }

theorem witness_PortLinkAndMasterComeAndGo :
    dark.eth.up = false ∧ dark.eth.linkEn = true ∧ dark.pwr.inReset = false ∧ dark.pwr.state ≠ .shutdown ∧
    2 ≤ dark.pwr.stage.toNat ∧ dark.eth.speed = 0 ∧ ({ dark.eth with speed := 1 } : Eth).speed = 1 ∧
    ({ dark.eth with speed := 2 } : Eth).speed = 2 ∧ 2 < 3 ∧ 3 ≤ 3 ∧ (0xFFFE : W32).setWidth 16 = (0xFFFE : W16) ∧
    (7 : W32).setWidth 16 ≠ (0xFFFE : W16) ∧ live.eth.up = true ∧ live.actsAs .subset 0 = true ∧
    (∀ k, k < 7 → (live.klink k).state ≠ .up) ∧ live.receives = true ∧ live.eth.ptpState ≠ .faulty ∧
    live.eth.master = none ∧
    keyBefore (announceKey ⟨0, [127], 6, 0⟩) (announceKey ⟨0, [128], 5, 0⟩) = true ∧
    keyBefore (announceKey ⟨0, [128], 6, 0⟩) (announceKey ⟨0, [128], 5, 0⟩) = false ∧ port.eth.master.isSome = true ∧
    port.receives = true ∧ port.actsAs .session 0 = true := by decide

/-! ## The media timeline -/

/-- FREE at position 0, a LOAD pending under WCLK; LOCKED under PTP; LOCKED under WCLK. -/
def loading : State := { live with tl := { src := 2, state := .holdover, loadPending := true, loadPos := 100 } }
def ptp : State := { live with eth := { live.eth with ptpState := .slave }, tl := { src := 1, state := .locked, far := true, ptpKnown := true } }
def wclk : State := { live with tl := { src := 2, state := .locked } }

theorem witness_IncrementMovesTheTimelineByOne :
    incrementDue 0 live = false ∧ incrementDue (2 ^ 32 * 20834) live = true ∧ live.tl.loadPending = false ∧
    incrementDue 0 loading = true ∧ loading.tl.loadPending = true ∧ loading.tl.src ≠ 0 := by decide +kernel
theorem witness_PeriodsLatchAtTheirBoundaries :
    live.period.boundary 0 = true ∧ live.period.boundary 479 = false ∧ live.period.boundary 480 = true ∧
    live.period.lenWaits = false ∧ ({ lenWaits := true } : Period).boundary 0 = true ∧ live.actsAs .session 0 = true ∧
    (48 ≤ (48 : BitVec 23).toNat ∧ (48 : BitVec 23).toNat ≤ 4800000) ∧ ¬ 48 ≤ (47 : BitVec 23).toNat ∧
    live.actsAs .subset 8 = true ∧
    live.quant.closing = [] ∧ ({ live with quant := { live.quant with closing := [{}] } } : State).quant.closing = [{}] ∧
    live.tl.state ≠ .holdover ∧ loading.tl.state = .holdover ∧ loading.period.boundary 479 = false := by decide
theorem witness_ServoUpdatesKeepTheRateLimit :
    live.receives = true ∧ ptp.receives = true ∧ ptp.eth.ptpState = .slave ∧ live.eth.ptpState = .listening ∧ ptp.tl.src = 1 ∧
    live.tl.src ≠ 1 ∧ ptp.tl.far = true ∧ max 1 ptp.tl.loss.toNat ≤ 1000 ∧ ¬ max 1 ptp.tl.loss.toNat ≤ 0 ∧
    ptp.tl.state = .locked ∧ ({ ptp.tl with state := .holdover } : Timeline).state = .holdover ∧ wclk.tl.src = 2 ∧
    31250 < 31251 ∧ wclk.tl.state = .locked ∧ wclk.tl.realign = false ∧
    ({ wclk.tl with realign := true } : Timeline).realign = true ∧
    ({ wclk.tl with state := .acquiring, consec := 46 } : Timeline).consec < 47 ∧
    47 ≤ ({ wclk.tl with state := .acquiring, consec := 47 } : Timeline).consec ∧ loading.tl.src = 2 ∧
    loading.tl.state = .holdover ∧ 20811 < 20812 ∧ 20812 ≤ 20855 ∧ 20855 < 20856 := by decide
theorem witness_TimelineCommandsTakeEffectOrAreRefused :
    ptp.tl.src = 1 ∧ ptp.tl.far = true ∧ ptp.tl.autoStep = true ∧ ptp.idle = true ∧ ptp.tl.ptpKnown = true ∧
    ptp.actsAs .session 0 = true ∧ live.tl.far = false ∧
    live.idle = true ∧ live.tl.src ≠ 1 ∧ admitted.idle = false ∧ admitted.actsAs .session 0 = true ∧
    ((0 : W32).setWidth 2 : BitVec 2) = live.tl.src ∧ ((3 : W32).setWidth 2 : BitVec 2) = 3 := by decide

/-! ## Scheduling -/

/-- Stage 0 runs a step of stream 1; a buffer of link 0 is empty and one of its tiles is in flight. -/
def row : Row := { stream := 1, slot := 0 }
def stepIn (st : StepState) (per : Option W32) : Step :=
  { plan := 0, kidx := 0, kind := 4096, prog := 0, rep := 0, batch := 0, round := 0, rows := [row], state := st, period := per }
def staged (st : StepState) (per : Option W32) : State :=
  { linked with
    stages := [(0, { steps := [stepIn st per] })], bellows := { links := [(0, { empty := 2, flight := [0] })] } }

/-- A GATE record that reads one image link and writes another. -/
def gateRec (reads writes : Nat) : Rec :=
  ⟨1, 0, 0, 0, List.replicate 8 0 ++ [9, 0] ++ leBytes 2 (0xC000 + writes) ++ leBytes 2 (0xC000 + reads) ++ List.replicate 50 0⟩
/-- Stages 0 and 1 of one die: stage 1 waits for a tile of link 1, which stage 0's program writes; stage 0's step as given. -/
def reader : ProgEnt := ⟨0, 0, [gateRec 0 1]⟩
def looped (t : Step) (ls : List (Nat × LinkSt)) : State :=
  { live with
    image := { state := .active, active := some {
      stages := [⟨0, 0, 1, 0, 0, 0, 4, 0⟩, ⟨1, 0, 1, 0, 0, 0, 4, 0⟩], programs := [reader, ⟨1, 1, [gateRec 1 0]⟩]
      links := [⟨0, 1, 0, 0, 1, 2, 0, 0, 0, 0⟩, ⟨1, 0, 1, 0, 1, 2, 0, 0, 0, 0⟩], dir := [(7, 0, 64, 16)]
      plans := [⟨0, 0, 3, 1, 4, 64, 480, [], 512, 64, 0⟩] } }
    streams := [(1, { state := .running })]
    stages := [(0, { steps := [t] }), (1, { steps := [{ stepIn .wait none with kidx := 1, prog := 1, await := some 1 }] })]
    bellows := { links := ls } }
/-- Stage 0 waits for a tile of link 0, which stage 1's program writes. -/
def waiting : State := looped { stepIn .wait none with await := some 0 } []
/-- Stage 0's step runs; with the tiles it reads, and the buffers free to write. -/
def running (full empty : Nat) : State := looped (stepIn .run (some 0)) [(0, { full := full }), (1, { empty := empty })]
def runSel : Sel := { stage := 0, e := ⟨0, 0, 1, 0, 0, 0, 4, 0⟩, g := reader, t := stepIn .run (some 0) }

theorem witness_TilesStallsAndTheWatchdog :
    (linked.img.flow? 0).isSome = true ∧ ((staged .run none).linkSt 0).flight = [0] ∧ (linked.linkSt 0).flight = [] ∧
    (linked.stage 0).steps.find? (·.state == .run) = none ∧
    ((running 0 0).stage 0).steps.find? (·.state == .run) = some (stepIn .run (some 0)) ∧
    (running 0 0).img.prog? 0 = some reader ∧ (running 0 0).img.stage? 0 = some runSel.e ∧ 0 ∈ reader.reads ∧
    (running 0 0).tilesFor runSel 0 = 0 ∧ (running 1 0).tilesFor runSel 0 ≠ 0 ∧ 1 ∈ reader.writes ∧ 1 ∉ reader.reads ∧
    (running 0 0).bufferFree 1 = false ∧ (running 0 1).bufferFree 1 = true := by decide +kernel
theorem witness_watchdog_cycle :
    (waiting.sched 0).wdogEn = true ∧ (waiting.sched 0).limitInForce ≤ 1250000 ∧ 1023 < (waiting.sched 0).limitInForce ∧
    (let found := [(0, 0), (1, 0)].filterMap fun (g, i) => ((waiting.stage g).steps[i]?).map fun t => (g, t)
     decide (found.length = 2) && found.all (fun y => waiting.waitsWithin found y) && found.any fun y => y.2.streams.contains 1) =
      true ∧
    (waiting.img.stage? 0).map (·.die) = some 0 := by decide +kernel

/-- The first word of the program section, at tier 2, stored as poison. -/
def unread : State := { looped (stepIn .ready none) [] with mem := { t2 := { chk := [(0, 0xFF)] } } }

theorem witness_StepsAreSelectedAndCompleted :
    ((staged .ready none).stage 0).next = some (stepIn .ready none) ∧
    ((staged .ready (some 0)).stage 0).next = some (stepIn .ready (some 0)) ∧ (linked.img.prog? 0).isSome = true ∧
    (linked.img.stage? 0).isSome = true ∧ (linked.stage 0).next = none ∧
    ((staged .run none).stage 0).steps.any (·.state == .run) = true ∧ ((staged .ready none).img.ramUnits 0).isEmpty = true ∧
    (match beginStep { runSel with t := stepIn .ready none, g := ⟨0, 0, []⟩ } [] (staged .ready none) with
      | (some _, _) => true | _ => false) = true ∧
    (match beginStep { runSel with t := stepIn .ready none } [] unread with | (none, _) => true | _ => false) = true ∧
    ((staged .run none).stage 0).steps.find? (·.state == .run) = some (stepIn .run none) ∧
    (staged .run none).plan? 0 = linked.plan? 0 ∧ (linked.plan? 0).isSome = true ∧ kindLevel 4096 ≠ 0 ∧
    (⟨0, 0, []⟩ : ProgEnt).recs.length ≤ (stepIn .run none).op ∧ (stepIn .run (some 0)).op < reader.recs.length := by
  decide +kernel
theorem witness_records_run_and_wait :
    ((running 0 0).now? runSel).isSome = true ∧ (stepIn .run (some 0)).state = .run ∧ (stepIn .run (some 0)).op < 1 ∧
    reader.recs[0]? = some (gateRec 0 1) ∧ (gateRec 0 1).cls ≠ 5 ∧
    (match takeTiles runSel (gateRec 0 1) [] (running 0 0) with | (none, _) => true | _ => false) = true := by decide +kernel
theorem witness_tiles_leave_as_buffers_take_them :
    (writeTiles [(1, true, true, [1])] (running 0 0)).1.1 = some 1 ∧ (writeTiles [(1, true, true, [1])] (running 0 1)).1.1 = none := by
  decide +kernel

/-! ## Bellows -/

/-- A control descriptor, and the block list it names: one linear entry of 64 bytes from tier 1 to tier 2. -/
def desc : Desc := { tier := 1, addr := 0x1000 }
def blockList : List Byte :=
  leBytes 2 0xFFFF ++ leBytes 2 0 ++ [1, 9, 2, 0] ++ leBytes 4 64 ++ leBytes 4 0 ++ leBytes 12 0 ++ leBytes 4 64
def busyChannel (x : Channel) : State :=
  { loaded with bellows := { loaded.bellows with channels := [(0, x)], links := [(0, { empty := 2 })] } }
def listed : State := writeMem 1 0x1000 blockList (busyChannel { control := [desc] })
/-- The same descriptor checked; a block of link 0 with two tiles to start, its list known; one whose list is to come. -/
def taken : Desc := { desc with checked := true, block := blockList }
def moveList : List Byte := leBytes 2 0 ++ leBytes 2 0 ++ [1, 1, 2, 0] ++ leBytes 4 64 ++ leBytes 4 0 ++ leBytes 12 0 ++ leBytes 4 64
def tiles : Desc := { role := 1, link := 0, checked := true, block := moveList, bytes := 64, tiles := 2 }
def unlisted : Desc := { role := 1, link := 0, bytes := 64, tiles := 1 }
def fetching (d : Desc) : State := busyChannel { data := [d] }
/-- Word 0 of tier 1, where the list's one piece begins, stored as poison. -/
def poisonedSource : State :=
  (busyChannel { control := [taken] }).setTier 1 { loaded.mem.t1 with chk := [(0, 0xFF)] }

theorem witness_ChannelQueuesTakeAndEndDescriptors :
    live.actsAs .session 0 = true ∧ (live.channel 0).state ≠ .halted ∧ (live.channel 0).control.length < 16 ∧
    16 ≤ ((busyChannel { control := List.replicate 16 desc }).channel 0).control.length ∧
    ((busyChannel { state := .halted }).channel 0).state = .halted ∧ (live.channel 0).control = [] ∧
    (listed.channel 0).control = [desc] ∧ desc.checked = false ∧ taken.checked = true ∧ desc.tier ≠ 3 ∧
    ({ desc with tier := 3 } : Desc).tier = 3 ∧ desc.addr + 16 ≤ listed.tierTop 1 ∧ (readBlock desc listed).1 = some blockList ∧
    desc.addr + 16 + 16 * (readHead blockList).count ≤ listed.tierTop 1 ∧
    max 1024 live.bellows.waitLim.toNat ≤ 1250000 ∧ (live.channel 0).state ≠ .wait := by decide +kernel
theorem witness_descriptor_waits :
    ((busyChannel { state := .wait, control := [desc] }).channel 0).control = [desc] ∧
    ((busyChannel { state := .wait, control := [desc] }).channel 0).state = .wait ∧
    (busyChannel { state := .wait, control := [desc] }).waitOver desc = false ∧
    (busyChannel { state := .wait, control := [{ desc with link := 0 }] }).waitOver { desc with link := 0 } = true := by
  decide +kernel
theorem witness_descriptor_list_is_checked :
    (readBlock { desc with addr := 0 } poisonedSource).1 = none ∧
    (readBlock desc listed).2.blockStatus (readHead blockList) (blockPieces blockList) = 0 ∧
    listed.blockStatus (readHead (blockList.set 8 63)) (blockPieces blockList) ≠ 0 ∧
    (let last := loaded.tierTop 1 - 16
     let s := writeMem 1 last (blockList.take 16) loaded
     (readBlock { desc with addr := last } s).1.isSome && decide (last + 16 ≤ s.tierTop 1) &&
       decide (s.tierTop 1 < last + 16 + 16)) = true := by decide +kernel
theorem witness_ChannelsMoveUnitsAndTiles :
    (live.channel 0).control = [] ∧ ((busyChannel { control := [taken] }).channel 0).control = [taken] ∧
    ((busyChannel { control := [taken] }).channel 0).state ≠ .halted ∧ taken.role = 0 ∧
    (busyChannel { control := [taken] }).dataReady 0 = false ∧ ((blockPieces taken.block)[taken.entry]?).isSome = true ∧
    (blockPieces taken.block)[1]? = none ∧ loaded.img.link? (readHead blockList).link = none ∧
    loaded.img.linkChannel 0 = some 0 ∧ (loaded.img.flow? 0).isSome = true ∧ loaded.img.flow? 9 = none ∧
    (fetching tiles).block 0 0 = some tiles ∧ (fetching unlisted).block 0 0 = some unlisted ∧ loaded.block 0 0 = none ∧
    ((busyChannel { state := .halted, data := [tiles] }).channel 0).state = .halted ∧
    (readHead moveList).link = 0 ∧ (readHead moveList).bytes = 64 ∧ (readHead blockList).link ≠ 0 ∧
    (fetching unlisted).blockStatus (readHead moveList) (blockPieces moveList) = 0 := by decide +kernel
/-- The list's piece. -/
def piece : Piece := ⟨0, 0, 64, false, 1, 0, 0, false⟩
theorem witness_units_move :
    blockPieces blockList = [piece] ∧
    (match moveLeg 0 false (readHead blockList) [piece] piece none 0 taken (busyChannel { control := [taken] }) with
      | (.ok _ _, _) => true | _ => false) = true ∧
    (match moveLeg 0 false (readHead blockList) [piece] piece none 0 taken poisonedSource with
      | (.ue _ _, _) => true | _ => false) = true := by decide +kernel
theorem witness_tiles_are_fetched :
    ((loaded.img.flow? 0).map fun e => [tiles, { tiles with started := 2 }, { tiles with role := 4 }, { tiles with role := 5 }].map
      fun d => (fetching d).fetchReady e d) = some [true, false, true, true] ∧
    (readHead moveList).dir = 0 ∧ ((loaded.img.flow? 0).map fun e => e.remote) = some false ∧
    ((loaded.img.flow? 0).bind fun e => (takeBuffer e (fetching tiles)).map fun (h, t) =>
      match moveTile 0 e (readHead moveList) (blockPieces moveList) h 1026 tiles t with
      | (.ok _ _, _) => true | _ => false) = some true := by decide +kernel

/-! ## Streams -/

/-- Stream 1 on plan 0; session 0 selects it. -/
def withStream (x : Stream) : State :=
  { loaded with
    streams := [(1, x)], admitted := [(0, [1])]
    sessions := [(0, { isOpen := true, sel := { stream := 1, queue := 33 } })]
    queues := [(33, { page := 2, pages := 1, depth := 64, head := 0, tail := 3 })] }

theorem witness_StreamCommandsActOrAreRefused :
    (withStream {}).actsAs .session 0 = true ∧ (withStream {}).selStream 0 = 1 ∧
    cmdFree ((withStream { state := .running }).stream 1) = true ∧ cmdFree { busy := some .park } = false ∧
    ((withStream { state := .running }).stream 1).isOpen = true ∧ ({} : Stream).isOpen = false ∧
    ({ held := some 1 } : Stream).held.isSome = true ∧ ({ ring := some ⟨9, 1, 0⟩ } : Stream).ring.isSome = true ∧
    loaded.groupOf 0 ≤ 1 ∧ abortable .running = true ∧ abortable .closing = false ∧ (loaded.plan? 0).isSome = true ∧
    ((loaded.plan? 0).map fun p => (startRefusal p 48000 (withStream { startPos := 48000 }).pos, startRefusal { p with rate := 0 } 48001 0,
      startRefusal p 0 48000)) = some (none, some 6, some 5) ∧ (live.plan? 0) = none ∧
    cmdFree ((withStream { state := .stopped }).stream 1) = true ∧
    ((withStream { state := .running, run := { created := 1, lastEnd := 5 } }).stream 1).run.created ≠ 0 ∧
    ((withStream { state := .closing }).stream 1).holdsLoad = false := by decide +kernel

/-- Stream 1 ADMITTED with its context place at tier 1, address 0x40000; that stream parking and holding the spill tile;
and the state its park leaves, where RESUME finds the context. -/
def idle1 : Stream := { state := .admitted, park := 0x4000000000040000, keyId := 5, voice := 1, area := some 0, holdsLoad := true }
def parking : State :=
  { withStream { idle1 with busy := some .park, ctxAddr := idle1.park } with
    bellows := { loaded.bellows with spill := [(0, { holders := [1] })] } }
def parked : State := match exec (.parkComplete 1) parking with
  | .next t => t
  | _ => {}

theorem witness_ContextsAreParkedAndRestored :
    ((loaded.plan? 0).map fun p => (loaded.img.spillDie p, decide (p.seqGroup ≤ 1))) = some (0, true) ∧
    cmdFree idle1 = true ∧ parkTier idle1.park = 1 ∧ parkAddr idle1.park % 512 = 0 ∧
    (withStream idle1).inHost 1 0x40000 512 = true ∧ overlaps 1 0x40000 512 (1, 0, 512) = false ∧
    parking.holdsSpill 0 1 = true ∧ ((loaded.plan? 0).map fun p =>
      (readFixed 6 1 1 (parking.areaBase p 1) ((parking.stream 1).ctxTokens.toNat * p.kvBytes) parking).1) = some (some []) := by
  decide +kernel
theorem witness_resume_after_park :
    (parked.stream 1).state = .parked ∧ cmdFree (parked.stream 1) = true ∧ parked.ctxPlace idle1.park none = true ∧
    ((loaded.plan? 0).bind fun p => (readCtxHeader idle1.park parked).1.map fun b =>
      (parked.ctxPlace idle1.park (some b), ctxRefusal b p 64 parked, admitRefusal p none parked)) = some (true, none, none) := by
  decide +kernel
/-- The parked stream resuming, its firmware's descriptor on the channel, with some bytes of its context or its tag changed. -/
def resuming (f : Tier → Tier) : State :=
  let s := { parked with streams := [(1, { idle1 with state := .parked, busy := some .resume, ctxAddr := idle1.park })]
                         bellows := { parked.bellows with spill := [(0, { holders := [1] })] } }
  s.setTier 1 (f (s.tier 1))
theorem witness_firmware_runs :
    (queueFirmware 0 2 1 parking).firmwareRuns 0 2 1 = true ∧ (queueFirmware 0 3 1 (resuming id)).firmwareRuns 0 3 1 = true ∧
    (parking.modChannel 0 fun c => { c with state := .halted }).firmwareRuns 0 2 1 = false ∧
    ((resuming id).stream 1).busy = some .resume ∧ (resuming id).holdsSpill 0 1 = true ∧ parking.holdsSpill 0 2 = false := by
  decide +kernel
theorem witness_sections_move :
    ((loaded.plan? 0).map fun p => ((moveSections 0 1 p (unseat p 1 (queueFirmware 0 2 1 parking))).1.isSome,
      ((unseat p 1 (queueFirmware 0 2 1 parking)).stream 1).busy)) = some (true, some .park) := by decide +kernel
/-- A context of 512 bytes as its header gives its length, with a tag. -/
def context : Tier := { bytes := [(0x40009, 2)] }
def restoring (tag : W32) : State :=
  { withStream { idle1 with state := .parked, busy := some .resume, ctxAddr := idle1.park } with
    mem := { loaded.mem with t1 := { context with tags := [(512, tag)] } } }
theorem outcome_of_clean (t : Tier) (h : t.chk = []) (w : Nat) : t.outcome w = .clean := by
  simp only [Tier.outcome, Tier.chkDiff, h, cget]; rfl
theorem readFixed_clean (cls st tier a n : Nat) (s : State) (h : (s.tier tier).chk = []) :
    readFixed cls st tier a n s = (some ((s.tier tier).read a n), s) := by
  have o := outcome_of_clean _ h
  have p : ∀ l : List Nat, (l.any fun _ => WordOutcome.clean == .poison) = false := fun l =>
    List.any_eq_false.2 fun _ _ => by decide
  simp only [readFixed, countCe, countPoison, Tier.deliver, h, List.isEmpty_nil, if_true, o, p,
    show WordOutcome.clean.ok = true from rfl, Bool.not_true, Bool.false_eq_true, if_false]
  rw [List.find?_eq_none.2 fun _ _ => by simp]
theorem readContext_granule (tier a key : Nat) (s : State) (h : (s.tier tier).chk = [])
    (ht : tagOf key false 0 ((s.tier tier).read (512 * (a / 512 + 0)) 512) = (s.tier tier).tag (a / 512 + 0)) :
    readContext tier a key 1 0 s = (.ok ((s.tier tier).read (512 * (a / 512 + 0)) 512 ++ []), s) := by
  simp only [readContext, readGranule, readFixed_clean _ _ _ _ _ _ h, ht, if_true]
theorem readContext_bad (tier a key : Nat) (s : State) (h : (s.tier tier).chk = [])
    (ht : tagOf key false 0 ((s.tier tier).read (512 * (a / 512 + 0)) 512) ≠ (s.tier tier).tag (a / 512 + 0)) :
    readContext tier a key 1 0 s = (.bad tier (a / 512 + 0) 0, s) := by
  simp only [readContext, readGranule, readFixed_clean _ _ _ _ _ _ h, ht, if_false]
theorem restoring_tag (v : W32) : ((restoring v).tier 1).tag (0x40000 / 512 + 0) = v := by
  have a : auxResidue 0#72 = 0 := by decide +kernel
  simp [restoring, State.tier, Tier.tag, context, cget, a]
theorem witness_restore_reads_a_granule (v : W32)
    (hv : tagOf 5 false 0 (((restoring v).tier 1).read (512 * (0x40000 / 512 + 0)) 512) = v) :
    ∃ b, readContext 1 0x40000 5 1 0 (restoring v) = (.ok b, restoring v) :=
  ⟨_, readContext_granule 1 0x40000 5 (restoring v) rfl (hv.trans (restoring_tag v).symm)⟩
theorem witness_restore_finds_a_bad_granule (v : W32)
    (hv : tagOf 5 false 0 (((restoring v).tier 1).read (512 * (0x40000 / 512 + 0)) 512) ≠ v) :
    readContext 1 0x40000 5 1 0 (restoring v) = (.bad 1 512 0, restoring v) :=
  readContext_bad 1 0x40000 5 (restoring v) rfl fun h => hv (h.trans (restoring_tag v))
theorem witness_context_cannot_be_read :
    (match readContext 1 0x40000 5 1 0 (resuming fun t => { t with chk := [(0x40000 / 8, 0xFF)] }) with
      | (.ue _ _, _) => true | _ => false) = true := by decide +kernel
theorem witness_StreamWindowWritesCommit :
    seedStates { state := .admitted } = true ∧ seedStates {} = false ∧ fpFinitePos 0x3F800000 = true ∧ fpFinitePos 0 = false ∧
    fpFinitePos 0x7F800000 = false ∧ fpFinitePos 1 = true ∧ startStates { state := .parked } = true ∧ startStates {} = false ∧
    ((withStream {}).sess 0).sel.queue.toNat = 33 ∧ ((withStream {}).queue 33).present = true ∧
    ((3 : W32) - ((withStream {}).queue 33).head).toNat ≤ ((withStream {}).queue 33).held ∧
    ((withStream {}).queue 33).held < ((4 : W32) - ((withStream {}).queue 33).head).toNat ∧
    ((withStream {}).queue 0).present = false := by decide

/-! ## Profiles, transactions, interrupts -/

/-- Session 0 has staged a profile of 64 bytes for profile 2, and runs a command. -/
def staging (busy : Option (Nat × Nat)) : State :=
  { loaded with sessions := [(0, { isOpen := true, prof := { busy := busy, staging := [(0, 64), (4, 2)] } })] }

theorem witness_ProfileCommandsTakeEffect :
    ((staging (some (1, 2))).sess 0).prof.busy.isSome = true ∧ ((staging none).sess 0).prof.busy = none ∧
    (staging none).sec.wiping = false ∧ storeRefusal 0 2 (staging (some (1, 2))) = none ∧
    storeRefusal 0 3 (staging (some (1, 3))) = some 2 ∧ storeRefusal 0 16 (staging (some (1, 16))) = some 1 ∧
    (staging none).profCap.toNat ≤ 16 ∧ 15 < (staging none).profCap.toNat ∧ ((staging none).profile 1).stored = true ∧
    (staging none).placeable 1 = true ∧ (staging none).pins 1 = 0 ∧
    ({ staging none with profiles := [(1, { stored := true, armPins := 1 })] } : State).pins 1 ≠ 0 ∧
    ({ staging none with profiles := [(1, { stored := true })] } : State).profile 1 = { stored := true } ∧
    (({ staging none with profiles := [(1, { stored := true, fetching := some 0 })] } : State).profile 1).fetching =
      some 0 ∧ ((staging none).profile 1).fetching = none ∧
    ({ staging none with profiles := [(1, { stored := true })], profCap := 0 } : State).placeable 1 = true ∧
    (((staging none).modSess 0 fun x => { x with prof := { x.prof with busy := some (2, 1) } }).sess 0).prof.busy = some (2, 1) ∧
    (((staging none).modSess 0 fun x => { x with prof := { x.prof with busy := some (3, 1) } }).sess 0).prof.busy = some (3, 1) := by
  decide +kernel

/-- RESET of stream 1 as an action; a build buffer that holds one SAP_MASK action at position 100. -/
def building (build : List (BitVec 128)) : State :=
  { withStream { state := .running } with
    sessions := [(0, { isOpen := true, txn := { build := build, posLo := 100 } })] }

theorem witness_TransactionsAreBuiltAndSubmitted :
    ((building []).sess 0).txn.build.length < 64 ∧ 64 ≤ ((building (List.replicate 64 0)).sess 0).txn.build.length ∧
    ({ building [] with txn := { set := [⟨0, [], none, [], [], false, none⟩] } } : State).txn.set.find?
      (fun t => t.id == ((building []).sess 0).txn.cancelId && !t.armed) = some ⟨0, [], none, [], [], false, none⟩ ∧
    (building []).txn.set.find? (fun t => t.id == ((building []).sess 0).txn.cancelId && !t.armed) = none ∧
    commitPos true true ((building []).sess 0).txn (building []) = none ∧
    commitPos false false ((building [0x10]).sess 0).txn (building []) = some 100 ∧
    checkActions (some 100) false [0x10] 0 [] ((building []).takenBy none) [] (building []) = .inl [100] ∧
    checkActions (some 100) false [0xFF] 0 [] ((building []).takenBy none) [] (building []) = .inr (2, 0) ∧
    256 ≤ ({ building [] with txn := { set := List.replicate 256 ⟨0, [], none, [], [], true, none⟩ } } : State).txn.set.length ∧
    (building []).txn.set.length < 256 := by decide +kernel
theorem witness_InterruptRegistersAreWritten :
    live.actsAs .session 0 = true ∧ (0x80000001 : W32).getLsbD 31 = true ∧
    destKind (live.dest ((0x80000001 : W32).setWidth 12 : BitVec 12).toNat) ≠ 2 ∧
    destKind (({ live with eth := { live.eth with dest := [(1, 2)] } } : State).dest 1) = 2 := by decide +kernel

/-! ## Images and memory -/

def imageIn (st : ImgState) : State := { loaded with image := { state := st, staged := some { id := 7 } } }

theorem witness_ImageCommandsMoveBetweenStates :
    loaded.actsAs .session 0 = true ∧ (imageIn .empty).imageTakes = true ∧ live.imageTakes = false ∧
    (imageIn .staged).image.state = .staged ∧ (imageIn .verified).image.state = .verified ∧
    loaded.image.state = .active ∧ loaded.openStreams = 0 ∧ (withStream { state := .running }).openStreams ≠ 0 := by
  decide +kernel
/-- An image with nothing to read, and one with a section or a tensor in the word that is poison. -/
def spoiled : State := (imageIn .activating).setTier 2 { (imageIn .activating).mem.t2 with chk := [(8, 0xFF)] }
def tensor : TensorEnt := ⟨0, 0, 2, 0, 0, 0, 1, 16, 0, 64, 0, 0, []⟩
theorem witness_VerifyAndActivateEnd :
    (imageIn .verifying).image.state = .verifying ∧ (imageIn .activating).image.staged = some { id := 7 } ∧
    (readSections { id := 7 } [3, 6] (imageIn .activating)).1 = none ∧ ({ id := 7 } : Image).tensorsByTid = [] ∧
    (checkDigests [] (copyTables { id := 7 } (imageIn .activating))).1 = none ∧
    (fillCaches { id := 7 } [] (imageIn .activating)).1 = none ∧
    (readSections { id := 7 } [2, 4, 7, 8, 9, 10] (imageIn .activating)).1 = none ∧ (imageIn .empty).image.state ≠ .verifying ∧
    (imageIn .empty).image.state ≠ .activating := by decide +kernel
theorem witness_zeros_are_no_image :
    (verifyImage (verifyRead 128 (imageIn .verifying)).1 0 (verifyRead 128 (imageIn .verifying)).2).isSome = true := by
  decide +kernel
theorem witness_activation_fails :
    (readSections { id := 7, dir := [(2, 64, 64, 64)] } [2, 4, 7, 8, 9, 10] spoiled).1 ≠ none ∧
    (readSections { id := 7, dir := [(3, 64, 64, 64)] } [3, 6] spoiled).1 ≠ none ∧
    (checkDigests [(tensor, 0)] spoiled).1 = some { code := 0x81, sec := 5, entry := 0 } := by decide +kernel
/-- Boot's stage TRAINING, with what it has trained and filled. -/
def training (m : Mem) : State := { live with pwr := { stage := 3 }, mem := m }
theorem witness_TrainingAndFillMakeMemoryReady :
    (training {}).pwr.stage = 3 ∧ (training {}).mem.hbmTrained = false ∧ (training {}).mem.ddrTrained = false ∧
    (training { hbmTrained := true }).mem.hbmTrained = true ∧ live.pwr.stage ≠ 3 ∧ (training {}).pwr.state = .boot ∧
    3 ≤ (training {}).pwr.stage.toNat ∧ (training { ddrTrained := true }).mem.ddrDone = false ∧
    (training { ddrTrained := true }).filling 2 = true ∧ (training { ddrTrained := true }).filling 1 = false ∧
    (∀ i, i < 8 → usable (List.replicate 8 ⟨true, true, true, 0, 2, 3⟩) i = true ∧
      ((List.replicate 8 (⟨true, true, true, 0, 2, 3⟩ : Dimm))[i]?).map (·.part) = some 0) := by decide
theorem witness_DroneWalksAndRepairs :
    (loaded.devices 1).contains 15 = true ∧ loaded.fillDone 1 = true ∧ loaded.prot.ctrl.getLsbD 1 = true ∧
    (loaded.dev (devKey 1 15)).queue = [] ∧ loaded.pwr.state ≠ .standby ∧ loaded.pwr.state ≠ .shutdown ∧
    (live.devices 1).contains 16 = false ∧ 0 + 1 < loaded.devicePages 1 ∧ loaded.devicePages 1 ≤ 12582911 + 1 ∧
    (({ loaded with prot := { devs := [(devKey 0 3, { queue := [786432 * 3] })] } } : State).dev (devKey 0 3)).queue =
      [786432 * 3] := by decide +kernel
theorem witness_WordCodeCorrectsOneBitAndFindsTwo : 0 < 2 ^ 64 ∧ 63 < 64 ∧ 71 < 72 ∧ 0 < 71 := by decide


/-! ## Kryter -/

/-- Kryter link 0 in a state; flits of a peer at board position 1 and of device 9. -/
def link (x : KLink) : State := { live with kl := { links := [(0, x)] } }
def initFlit : List Byte := flitBytes flitInit false 0 0 0 0 ([1, 0] ++ leBytes 2 9 ++ leBytes 2 imageMember ++ [0, 0, 64, 0, 8])
def idleFlit : List Byte := flitBytes flitIdle false 0 0xFFF 3 1 []
def dataFlit : List Byte := flitBytes flitData true 1 0xFFF 0 0 []

theorem witness_FlitsAreCheckedAndTaken :
    ((link {}).klink 0).state = .disabled ∧ ((link { state := .training }).klink 0).state = .training ∧
    flitOf [] [] = none ∧ field initFlit 0 1 % 16 = flitInit ∧
    initFails 0 (slice 6 246 initFlit) (link { state := .training }) = none ∧ field idleFlit 0 6 % 16 = flitIdle ∧
    field dataFlit 0 6 % 16 = flitData ∧ ((link { state := .up }).klink 0).state = .up ∧
    BitVec.ofNat 12 (bitsOf (field dataFlit 0 6) 8 12) ≠ ((link { state := .up }).klink 0).ack + 1 := by decide +kernel
/-- An INIT flit of a peer at this device's own position; a CTRL flit next in order. -/
def ownFlit : List Byte := flitBytes flitInit false 0 0 0 0 ([0, 0] ++ leBytes 2 9 ++ leBytes 2 imageMember ++ [0, 0, 64, 0, 8])
def ctrlFlit : List Byte := flitBytes flitCtrl false 0 0xFFF 0 0 []
theorem witness_flits_in_training_and_in_order :
    (initFails 0 (slice 6 246 ownFlit) (link { state := .training })).isSome = true ∧ field idleFlit 0 1 % 16 ≠ flitInit ∧
    field ctrlFlit 0 6 % 16 = flitCtrl ∧
    BitVec.ofNat 12 (bitsOf (field ctrlFlit 0 6) 8 12) = ((link { state := .up, ack := 0xFFF }).klink 0).ack + 1 := by
  decide +kernel
theorem witness_ctrl_flit_passes : flitOf ctrlFlit (laneChecks ctrlFlit) = some ctrlFlit := by decide +kernel
theorem witness_init_flit_passes : flitOf initFlit (laneChecks initFlit) = some initFlit := by decide +kernel
theorem witness_idle_flit_passes : flitOf idleFlit (laneChecks idleFlit) = some idleFlit := by decide +kernel
/-- Lane 2 of an IDLE flit with one byte wrong is corrected, and so is a check byte; with two bytes wrong the flit fails. -/
theorem test_lane_code_corrects_one_byte :
    flitOf (idleFlit.modify 70 (· ^^^ 0x5A)) (laneChecks idleFlit) = some idleFlit := by decide +kernel
theorem test_lane_code_corrects_a_check_byte :
    flitOf idleFlit ((laneChecks idleFlit).modify 15 (· ^^^ 1)) = some idleFlit := by decide +kernel
theorem test_two_wrong_bytes_of_a_lane_fail :
    flitOf ((idleFlit.modify 70 (· ^^^ 0x5A)).modify 71 (· ^^^ 0x5A)) (laneChecks idleFlit) = none := by decide +kernel
/-- The RING record in place 28 of a body has its message's first record in place 29; one in place 29 in place 0 of the next. -/
theorem test_ring_records_name_their_first_record :
    (placeRings 28 0 [[5, 0, 0, 0, 0, 0, 0, 0]]) = ([[5, 0, 0, 0, 29, 0, 0, 0]], 3) ∧
    (placeRings 29 0 [[5, 0, 0, 0, 0, 0, 0, 0]]) = ([[5, 0, 0, 0, 0, 0, 0, 0]], 3) ∧
    (placeRings 0 1 [[5, 1], [1, 0, 0, 0, 1, 0, 0, 0]]) = ([[5, 1], [1, 0, 0, 0, 1, 0, 0, 0]], 0) := by decide
theorem witness_data_flit_passes : flitOf dataFlit (laneChecks dataFlit) = some dataFlit := by decide +kernel
theorem witness_LinksSendAndMeetTheirLimits :
    ((link { state := .up }).klink 6).state = .disabled ∧ ((link { state := .up }).klink 0).resend = 0 ∧
    ((link { state := .up }).klink 0).ctrlQ = [] ∧ ((link { state := .up, retry := [(0, [])], oldest := 1 }).klink 0).oldest < 2 ∧
    2 ≤ ((link { state := .up, retry := [(0, [])], oldest := 2 }).klink 0).oldest ∧
    ((link { state := .up, sendQ := [[1]] }).klink 0).sendQ ≠ [] ∧ ((link { state := .up, ctrlQ := [[1]] }).klink 0).credC = 0 ∧
    ((link { state := .up, retry := [(0, [7])], resend := 1 }).klink 0).retry[1 - 1]? = some (0, [7]) ∧
    ((link { state := .up, ctrlQ := [[1]], credC := 1 }).klink 0).credC ≠ 0 ∧
    ((link { state := .up, sendQ := [[1]], credD := 1 }).klink 0).credD ≠ 0 ∧
    1024 ≤ ((link { state := .up, retry := List.replicate 1024 (0, []) }).klink 0).retry.length ∧
    ((link { state := .training }).klink 0).state = .training ∧ ((link { state := .down }).klink 0).state = .down ∧ (link { state := .up }).linksOver 0 = [] ∧
    (link { state := .up }).branchesOver 0 = [] := by decide +kernel

/-- Link 1 of the image comes from another device over Kryter link 0. -/
def apart (k : KImg) : State :=
  { loaded with
    kl := { links := [(0, { state := .up, valid := true, peerPos := 1 })], imgs := [(1, k)] } }
def branch : Branch := { pos := 1, empty := 1, gapQ := [(0, 1)] }

theorem witness_KryterRegistersHoldsAndGaps :
    live.actsAs .session 0 = true ∧ (∀ k, k < 7 → (live.klink k).state ≠ .up) ∧ loaded.planOpen 0 = false ∧
    (withStream { state := .running }).planOpen 0 = true ∧ live.devLink? 0 = none ∧ (loaded.devLink? 1).isSome = true ∧
    (loaded.img.plans.any fun p => loaded.img.planUses p 1 && loaded.planOpen p.plan) = false ∧
    (0x40000001 : W32).toNat / 2 ^ 30 = 1 ∧ (0x80000002 : W32).toNat / 2 ^ 30 = 2 ∧ (0xC0000000 : W32).toNat / 2 ^ 30 = 3 ∧
    loaded.kl.pos.toNat ∉ [1] ∧ [1].length = max 1 0 ∧ (loaded.img.link? 1).isSome = true ∧ loaded.img.link? 9 = none ∧
    (loaded.kimg 1).holding = false ∧ ({ branch with gapQ := [] } : Branch).gapQ = [] ∧ branch.gapQ = [(0, 1)] ∧
    ({ branch with empty := 0 } : Branch).empty = 0 ∧ ((loaded.kimg 1).branches.find? (·.pos = 7)) = none ∧
    ((apart {}).klink 0).state = .up ∧
    ((apart { holding := true }).kimg 1).holding = true ∧
    (((apart { branches := [branch] }).kimg 1).branches.find? (·.pos = 1)) = some branch ∧
    (apart { branches := [branch] }).branchWay 1 branch = some (.kryter 0) ∧ branch.empty ≠ 0 := by decide +kernel

/-! ## Serial audio -/

/-- Port 3 as given, the timeline at position 96. -/
def port3 (x : Sap) : State := { live with saps := [(3, x)], tl := { pos := 96 } }
def run3 : Sap := { state := .running, p0 := 48, next := 90, active := 1, mask := 2 }

theorem witness_SerialPortCommandsAndMasks :
    (port3 {}).actsAs .session 0 = true ∧ ((port3 {}).sap 3).state = .stopped ∧ ({} : Sap).startable = true ∧
    ({ slots := 4 } : Sap).startable = false ∧ ({} : Sap).ratio = 1 ∧
    (port3 { pos := 145 }).pos + ({} : Sap).runin.toNat * ({} : Sap).ratio < 145 ∧
    ¬ (port3 { pos := 144 }).pos + ({} : Sap).runin.toNat * ({} : Sap).ratio < 144 ∧ (port3 {}).pos < 97 ∧ ¬ (port3 {}).pos < 96 ∧
    run3.running = true ∧ ({} : Sap).running = false ∧ ({ run3 with txnMask := some 5 } : Sap).txnMask.isSome = true ∧
    run3.txnMask = none ∧ ({ state := .armed } : Sap).running = false := by decide
theorem witness_SerialPortFrames :
    ((port3 run3).sap 3).master = true ∧ ((port3 run3).sap 3).state ≠ .stopped ∧ run3.ext = false ∧
    ((port3 { run3 with next := 95 }).sap 3).next.toNat + 1 ≤ (port3 run3).pos ∧ sapEnded run3 = false ∧
    sapEnded { run3 with p1 := some 41 } = true ∧ sapEnded { run3 with p1 := some 42 } = false ∧
    (64 = run3.slots.toNat * sapBits run3.slotBits) ∧ overrunCount { run3 with next := 93 } 96 = 0 ∧
    overrunCount { run3 with next := 92 } 96 = 1 ∧ (port3 run3).pos < (97 : W64).toNat ∧
    ({ run3 with next := 97, master := false, inUnder := true } : Sap).p0.toNat ≤ (97 : W64).toNat ∧
    ({ run3 with master := false } : Sap).running = true := by decide
theorem witness_SlotMapIsWrittenWhereNoFrameReadsIt :
    run3.active.getLsbD 0 = true ∧ run3.active.getLsbD 31 = false ∧ (run3.late.getD run3.mask).getLsbD 1 = true ∧
    (run3.late.getD run3.mask).getLsbD 31 = false ∧ (({ run3 with late := some 0 } : Sap).late.getD 2).getLsbD 1 = false := by
  decide

/-! ## The event recorder -/

def event : Event := ⟨0x0A03, 2, 0, 0, 0, 0⟩
def recording (b : Bureau) : State := { officer with bureau := b }

theorem witness_EventRecorderRegisters :
    officer.actsAs .always 8 = true ∧ officer.actsAs .always 0 = true ∧ (recording { clearing := some 0 }).bureau.clearing.isSome = true ∧
    officer.bureau.clearing = none ∧ officer.bureau.openRec = none ∧
    (recording { openRec := some (0, 0x0A03, 2, 5, 0) }).bureau.openRec = some (0, 0x0A03, 2, 5, 0) ∧
    (officer.reader 0).cursor = 0 ∧ (0 : W16) ≠ 1 ∧ officer.pwr.standbyOn = true ∧
    officer.actsAs .session 0 = true ∧ (officer.sess 0).co = true ∧ (live.sess 0).co = false ∧ (0x434C4541 : W32) ≠ 0 := by decide
theorem witness_EventsWaitAndTheFlashCompletes :
    ({ queue := List.replicate 256 event } : Bureau).queue.length = 256 ∧
    recurs event { queue := List.replicate 256 event } = false ∧
    (recording { programming := some event }).bureau.programming = some event ∧
    (recording { erasing := some 3 }).bureau.erasing = some 3 ∧ (recording { clearing := some 0 }).bureau.clearing = some 0 ∧
    officer.bureau.programming = none ∧ officer.bureau.erasing = none ∧ officer.bureau.clearing = none ∧
    officer.pwr.standbyOn = true ∧ ({ standbyOn := false } : Pwr).standbyOn = false := by decide +kernel

/-! ## Power, reset and boot -/

def powered (p : Pwr) : State := { live with pwr := p }

theorem witness_SupplyStartsAndStopsTheDomains :
    (powered { standbyOn := false }).pwr.standbyOn = false ∧ 40000 ≤ 40000 ∧ 39999 < 40000 ∧
    (powered { state := .shutdown, down := some .rail, rails := 0, cleared := true }).pwr.cleared = true ∧
    (powered { state := .shutdown, down := some .vin, rails := 0 }).pwr.down = some .vin ∧ 47000 ≤ 47000 ∧
    (powered { state := .shutdown, down := some .rail, rails := 0 }).pwr.down ≠ some .vin ∧
    live.powered = true ∧ (powered { state := .shutdown, down := some .rail }).powered = false ∧ 44999 < 45000 ∧ 60000 < 60001 ∧ live.pwr.standbyOn = true := by decide
theorem witness_RailsComeUpInOrderAndFail :
    (powered { state := .shutdown, rails := 5 }).pwr.rails + 1 = 6 ∧ 6 ≤ 6 ∧ 5 ≠ (powered { rails := 5 }).pwr.rails + 1 ∧
    (powered { rails := 6, pwrGood := false }).pwr.down = none ∧ (powered { rails := 6 }).powered = true ∧
    (powered { state := .shutdown, rails := 5 }).pwr.down = none ∧ live.pwr.down = none ∧ live.pwr.state ≠ .shutdown ∧
    (powered { rails := 6, pwrGood := true }).pwr.pwrGood = true ∧ ¬ 7 ≤ (powered { rails := 6 }).pwr.rails ∧
    (powered { down := some .vin }).pwr.down.isSome = true ∧ (powered { down := some .vin }).pwr.state ≠ .shutdown ∧
    0 < (powered { down := some .vin, state := .shutdown, rails := 2 }).pwr.rails := by decide
theorem witness_ModuleResetBeginsAndEnds :
    live.pwr.standbyOn = true ∧ live.pwr.inReset = false ∧ live.pwr.state ≠ .shutdown ∧ live.pwr.down = none ∧
    live.actsAs .always 8 = true ∧ mayReset 0x52530003 live = true ∧ mayReset 3 live = false ∧
    mayReset 0x52530003 (powered {}) = false ∧ (powered { inReset := true }).pwr.inReset = true ∧
    (powered { state := .shutdown, down := some .rail }).pwr.down = some .rail ∧
    (powered { state := .shutdown, down := some .thermal }).allCool = true ∧ (powered { standbyOn := false }).pwr.standbyOn = false ∧ (powered { inReset := true }).pwr.cause ≠ 2 ∧
    (powered { inReset := true, rstLow := true }).pwr.rstLow = true ∧ (powered { inReset := true, cause := 2 }).pwr.cause = 2 ∧
    (powered { inReset := true, resetDue := true }).pwr.resetDue = true := by decide
theorem witness_BootStagesAndPowerStates :
    (powered {}).pwr.state = .boot ∧ (powered {}).pwr.inReset = false ∧ (powered { stage := 1 }).sec.mode ≠ .error ∧
    ({ powered { stage := 1 } with sec := { mode := .error } } : State).sec.mode = .error ∧
    ({ powered { stage := 3 } with mem := { fault := true } } : State).mem.fault = true ∧ (powered { stage := 3 }).mem.hbmTrained = false ∧
    ({ powered { stage := 3 } with mem := { hbmTrained := true, ddrTrained := true } } : State).mem.fault = false ∧
    (powered { stage := 2 }).pwr.stage = 2 ∧ 5 ≤ live.pwr.stage.toNat ∧ (powered { stage := 4 }).mem.ready = false ∧
    ({ powered { stage := 4 } with mem := { ready := true } } : State).mem.ready = true ∧ live.actsAs .always 0 = true ∧
    mayStandby live = true ∧ mayStandby (powered {}) = false ∧ mayStandby loaded = false ∧
    (powered { state := .standby, waking := true }).pwr.waking = true := by decide
theorem witness_SensorsAndTelemetryAreKept :
    live.pwr.standbyOn = true ∧ (powered { standbyOn := false }).pwr.standbyOn = false ∧ 4 < 5 ∧ live.sensor 21 = false ∧
    live.sensor 32 = false ∧ 16 * 95 ≤ (1520 : W16).toInt ∧ 4 ∉ live.pwr.warned ∧ ¬ 16 * 95 ≤ (1519 : W16).toInt ∧
    (1440 : W16).toInt ≤ 16 * 90 ∧ 16 * 105 ≤ (1680 : W16).toInt ∧ live.pwr.ttrip = false ∧ live.actsAs .always 0 = true := by
  decide
theorem witness_SmbusAndTestPort :
    live.pwr.standbyOn = true ∧ ([1, 2, 3, 4] : List Byte).length = 4 ∧ ([1] : List Byte).length ≠ 4 ∧
    live.smbReach (reachOf 0xE0000) = true ∧ live.smbReach (reachOf 0x1000) = false ∧
    ({ live with smbOff := 0xE003C } : State).smbOff.toNat = 0xE003C ∧ (powered { standbyOn := false }).pwr.standbyOn = false ∧
    (0 < 2 ∨ live.sec.lifecycle = .provisioning) ∧ 2 ≤ 2 ∧ officer.sec.lifecycle ≠ .provisioning := by decide

/-! ## Single steps, with the manual's values -/

/-- The check bytes R298 gives for data bits 0 and 63. -/
theorem test_check_byte_of_bit_0 : checkByte 1 = 0x83 := by decide +kernel
theorem test_check_byte_of_bit_63 : checkByte (2 ^ 63) = 0xC7 := by decide +kernel
/-- The record of the example of chapter 21. -/
theorem test_record_of_the_example : recordBytes ⟨0x0702, 3, 1, 2, 0xF6180, 0⟩ 1234567 42 0 8000 =
    0xA5001F40000F618000000002000000010000000300000000002A0012D6870702 := by decide +kernel
/-- The canonical tree of R71's example gives 16,777,220. -/
theorem test_tree_of_the_example :
    tree fadd 0 [0x4B800000, 0x3F800000, 0x3F800000, 0x3F800000, 0x3F800000] = 0x4B800002 := by decide +kernel
/-- The saturating example of chapter 4. -/
theorem test_saturation_is_carried :
    tree addInt32 (0, false) [(2000000000, false), (500000000, false), (-600000000, false)] = (1547483647, true) := by decide
/-- The CURRENT-ASYM example of chapter 3: zp = -96, codes 96, -128 and -32. -/
theorem test_codes_of_the_example :
    (convCode 6 (-96) 0x40400000 0x43400000).1 = 96 ∧ (convCode 6 (-96) 0xBF000000 0xC2000000).1 = 128 ∧
    (convCode 6 (-96) 0x3F810000 0x42810000).1 = 224 := by decide +kernel
/-- The pooling examples of chapter 6: the largest value's index, the NaN set aside. -/
theorem test_top_of_the_example :
    (candidates 1 [0x3F000000, 0x80000000, 0x3F400000, 0x7FC00000, 0x3F400000]).map (·.1) = [2] ∧
    (candidates 1 [0xBF000000, 0x80000000, 0, 0x7FC00000, 0]).map (·.1) = [2] := by decide +kernel
/-- SAP1 of chapter 19's example: START at 1,005,000 is accepted and the first frame is -24. -/
theorem test_start_of_the_example :
    (match exec (.sapCmdStart 0 1)
        { live with tl := { pos := 1005000 }, saps := [(1, { format := 2, slots := 8, runin := 24, rate := 2, pos := 1008000 })] } with
      | .next t => ((t.sap 1).state, (t.sap 1).next)
      | _ => (.stopped, 0)) = (.armed, 1007952) := by decide +kernel
/-- R221's example: a length of 4,800 written at 1,000,100 waits for the boundary at 1,000,320. -/
theorem test_boundary_of_the_example :
    ({ len := 4800, lenWaits := true } : Period).boundary 1000100 = false ∧
    ({ len := 4800, lenWaits := true } : Period).boundary 1000320 = true ∧
    ({ len := 4800, activeLen := 4800, anchor := 1000320 } : Period).boundary 1005120 = true := by decide

end Sys2Proof.Tests
end

section
/-! The obligations of the media timeline: a read of TL_POS_LO captures TL [63:32] for its reader alone (R227). -/

namespace Sys2Proof.Machine

/-! ## The end of a command leaves the readers -/

@[simp] theorem trackPeak_readers (s : State) : (trackPeak s).readers = s.readers := by
  unfold trackPeak
  dsimp only
  split <;> rfl

@[simp] theorem sendTo_readers (entry : Nat) (typ session : Byte) (dst : W16) (arg : W64) (payload : List Byte) (s : State) :
    (sendTo entry typ session dst arg payload s).readers = s.readers := by
  unfold sendTo
  split
  · rfl
  · exact sendOut_readers _ s

@[simp] theorem flushInt_readers (s : State) (i : Nat) : (flushInt s i).readers = s.readers := by
  unfold flushInt
  dsimp only
  split
  · rfl
  · split <;> simp

@[simp] theorem flushInts_readers (s : State) : (flushInts s).readers = s.readers :=
  List.foldlRecOn (motive := fun t => t.readers = s.readers) (List.range 8) flushInt rfl
    fun t ht i _ => (flushInt_readers t i).trans ht

@[simp] theorem flushEvents_readers (s : State) : (flushEvents s).readers = s.readers := by
  unfold flushEvents
  split <;> rfl

/-- The port, the interrupt bits and Bureau hold nothing of a reader (R424, R441, R452). -/
@[simp] theorem State.settle_readers (s : State) : s.settle.readers = s.readers := by simp [State.settle]

@[simp] theorem State.settle_reader (s : State) (i : Nat) : s.settle.reader i = s.reader i := by simp [State.reader]

/-! ## Reads and captures of the position -/

/-- A session's reach does not depend on the register: only the SMBus port's does (R9, R441). -/
theorem State.actsAs_of_open {s : State} {r : Nat} (w : Reach) (hr : r < 8) (hopen : (s.sess r).isOpen = true)
    (hrec : s.receives = true) : s.actsAs w r = true := by simp [State.actsAs, hr, hopen, hrec]

/-- What a read of TL_POS_LO does, as one update by the laws of the readers' table (R227). -/
theorem exec_tlPosLo_of_acts {s : State} {r : Nat} (h : s.actsAs .subset r = true) :
    exec (.tlPosLo r) s = .next (s.modReader r fun x => { x with tlHi := hi32 s.tl.pos }).settle := by
  rw [exec_tlPosLo, execTlPosLo, byReader_acts h, readPosLo]

/-- TL_POS_HI stands at 0x0001_0010 (R226) and reads the reader's own capture. -/
theorem readReg_tlPosHi (r : Nat) (s : State) : readReg r 0x10010 s = ((s.reader r).tlHi, s) := rfl

/-- Settles O9: the capture is an entry of the reader's own, which the end of the command leaves as it is. -/
theorem positionCapturesAreKeptApart : Obligations.PositionCapturesAreKeptApart := by
  unfold Obligations.PositionCapturesAreKeptApart
  intro r i s ⟨_, _, hreaders⟩ hr hopen hrec _
  have hcap (j : Nat) := State.reader_modReader s r j (fun x => { x with tlHi := hi32 s.tl.pos }) hreaders
  refine ⟨_, exec_tlPosLo_of_acts (State.actsAs_of_open .subset hr hopen hrec), ?_, ?_, ?_⟩
  · rw [State.settle_reader, hcap, if_pos rfl]
  · intro hne
    rw [State.settle_reader, hcap, if_neg hne]
  · rw [readReg_tlPosHi]

end Sys2Proof.Machine
end

section
/-! The obligations of the serial audio ports: a slot map is written where no frame reads it (R379). -/

namespace Sys2Proof.Machine

/-! ## When a slot of a port can be written -/

@[simp] theorem Sap.halted_iff (x : Sap) : x.halted = true ↔ x.state = .stopped ∨ x.state = .armed := by
  simp [Sap.halted]

/-- R379's condition: no frame is sent, or the slot is 0 in both masks; a late write of the mask is the shadow while it waits. -/
def Sap.SlotUnread (x : Sap) (slot : Nat) : Prop :=
  x.state = .stopped ∨ x.state = .armed ∨
    (x.active.getLsbD slot = false ∧ (x.late.getD x.mask).getLsbD slot = false)

/-- The model's guard of a slot map write decides R379's condition. -/
theorem Sap.slotGuard_iff (x : Sap) (slot : Nat) :
    (x.halted || (!x.active.getLsbD slot && !(x.late.getD x.mask).getLsbD slot)) = true ↔ x.SlotUnread slot := by
  rw [Sap.SlotUnread, Bool.or_eq_true, Sap.halted_iff, or_assoc, Bool.and_eq_true, Bool.not_eq_true', Bool.not_eq_true']

/-! ## The two answers to a write -/

theorem writeSlotMap_of_unread {n slot : Nat} {v : W32} {s : State} (h : (s.sap n).SlotUnread slot) :
    writeSlotMap n slot v s = s.modSap n fun x => { x with map := cput 0 slot (v &&& 0x8000FFFF) x.map } :=
  if_pos ((Sap.slotGuard_iff _ _).2 h)

theorem writeSlotMap_of_not_unread {n slot : Nat} {v : W32} {s : State} (h : ¬ (s.sap n).SlotUnread slot) :
    writeSlotMap n slot v s = s.modSap n fun x => { x with cmdErr := true } :=
  if_neg (mt (Sap.slotGuard_iff _ _).1 h)

/-- A reader that reaches the block writes the slot of a port that exists. -/
theorem exec_sapSlotMap_of_acts {r n slot : Nat} {v : W32} {s t : State} (hacts : s.actsAs .session r = true) (hn : n < 4)
    (hslot : slot < 32) (ht : writeSlotMap n slot v s = t) : exec (.sapSlotMap r n slot v) s = .next t.settle :=
  exec_byReader (exec_sapSlotMap r n slot v s) hacts (by simp [hn, hslot, ht])

/-- Settles O52: R379's condition is what the guard of the write decides; it writes the slot, or sets CMD_ERR alone. -/
theorem slotMapIsWrittenWhereNoFrameReadsIt : Obligations.SlotMapIsWrittenWhereNoFrameReadsIt := by
  unfold Obligations.SlotMapIsWrittenWhereNoFrameReadsIt
  intro r n slot v s hacts hn hslot
  constructor
  · intro (haccept : (s.sap n).SlotUnread slot)
    exact exec_sapSlotMap_of_acts hacts hn hslot (writeSlotMap_of_unread haccept)
  · intro (hrefuse : ¬ (s.sap n).SlotUnread slot)
    exact exec_sapSlotMap_of_acts hacts hn hslot (writeSlotMap_of_not_unread hrefuse)

end Sys2Proof.Machine
end

section
/-! The obligations of the block as a whole: one step, the queue behind it, the canonical form, reset. -/

namespace Sys2Proof.Machine

/-! ## Logic -/

/-- A value that equals one apart from `c` is apart from `c`: for guards over flags and states. -/
theorem ne_of_eq_ne {α : Sort u} {a b c : α} (h : a = b) (hne : b ≠ c) : a ≠ c := fun hc => hne (h.symm.trans hc)

/-- Two branchings of equivalent conditions and equal branches. -/
theorem ite_of_iff {α : Sort u} {p q : Prop} [Decidable p] [Decidable q] {a b c d : α} (h : p ↔ q) (hpos : a = c) (hneg : b = d) :
    (if p then a else b) = if q then c else d := ite_congr (propext h) (fun _ => hpos) (fun _ => hneg)

/-! ## Steps and the canonical form -/

/-- Settles O1: `step` matches on the queue. -/
theorem stepRunsTheFrontCommand : Obligations.StepRunsTheFrontCommand := by
  unfold Obligations.StepRunsTheFrontCommand
  refine ⟨fun c rest s => rfl, fun s hempty => ?_⟩
  rw [step, hempty]

/-- Settles O2: every command answers a next state that keeps the queue (`exec_keeps`). -/
theorem everyCommandAnswersAndKeepsTheQueue : Obligations.EveryCommandAnswersAndKeepsTheQueue := by
  unfold Obligations.EveryCommandAnswersAndKeepsTheQueue
  intro c s
  obtain ⟨t, hnext, hkeeps⟩ := exec_keeps (Keeps.refl s) c
  exact ⟨t, hnext, hkeeps.pending⟩

/-- What keeps each part of the canonical form keeps the whole. -/
theorem Keeps.tidy {s t : State} (h : Keeps s t) (hs : s.Tidy) : t.Tidy := by
  obtain ⟨hmem, hsess, hreaders⟩ := hs
  exact ⟨h.mem hmem, h.sess hsess, h.readers hreaders⟩

/-- The canonical form does not speak of the queue. -/
theorem State.Tidy.withPending {s : State} (h : s.Tidy) (rest : List Instr) : State.Tidy { s with pending := rest } := h

/-- Settles O3: an idle step changes nothing, and each command keeps the form (`exec_keeps`). -/
theorem everyStepKeepsDataCanonical : Obligations.EveryStepKeepsDataCanonical := by
  unfold Obligations.EveryStepKeepsDataCanonical
  intro s t hs hstep
  unfold step at hstep
  split at hstep
  · cases hstep
    exact hs
  · next c rest _ =>
    obtain ⟨u, hnext, hkeeps⟩ := exec_keeps (Keeps.refl { s with pending := rest }) c
    rw [hnext] at hstep
    cases hstep
    exact hkeeps.tidy (hs.withPending rest)

/-- Settles O4: every field of the reset state has its reset value. -/
theorem resetLeavesTheBlockQuiet : Obligations.ResetLeavesTheBlockQuiet := by
  unfold Obligations.ResetLeavesTheBlockQuiet
  have htidy : State.reset.Tidy := ⟨reset_mem_wf, canonical_nil, canonical_nil⟩
  exact ⟨htidy, rfl, rfl, rfl, rfl, rfl, rfl, fun _ => rfl, fun _ => rfl⟩

/-! ## The end of a command -/

/-- What each part of the end of a command may change, in a form that composes (R416, R451, R455). -/
structure EndFrame (s t : State) : Prop where
  rest : t = { s with
    eth := t.eth, sessions := t.sessions, bureau := t.bureau, outbox := t.outbox, stats := t.stats }
  eth : { t.eth with txDrop := 0, macsec := {} } = { s.eth with txDrop := 0, macsec := {} }
  live : { t.stats with livePeak := 0 } = { s.stats with livePeak := 0 }
  sess : canonical {} s.sessions = true →
    canonical {} t.sessions = true ∧ ∀ i, { t.sess i with int := {} } = { s.sess i with int := {} }
  ring : s.bureau.openRec = none → t.bureau.openRec = none ∧ t.bureau.ring = s.bureau.ring

namespace EndFrame

theorem refl (s : State) : EndFrame s s := ⟨rfl, rfl, rfl, fun h => ⟨h, fun _ => rfl⟩, fun h => ⟨h, rfl⟩⟩

theorem trans {s t u : State} (h : EndFrame s t) (k : EndFrame t u) : EndFrame s u := by
  refine ⟨?_, k.eth.trans h.eth, k.live.trans h.live, fun hs => ?_, fun hopen => ?_⟩
  · rw [k.rest, h.rest]
  · obtain ⟨ht, hsess⟩ := h.sess hs
    obtain ⟨hu, hsess'⟩ := k.sess ht
    exact ⟨hu, fun i => (hsess' i).trans (hsess i)⟩
  · obtain ⟨hopen', hring⟩ := h.ring hopen
    obtain ⟨hopen'', hring'⟩ := k.ring hopen'
    exact ⟨hopen'', hring'.trans hring⟩

theorem foldl {α : Type} {f : State → α → State} (hf : ∀ s a, EndFrame s (f s a)) (l : List α) (s : State) :
    EndFrame s (l.foldl f s) :=
  List.foldlRecOn (motive := EndFrame s) l f (refl s) fun t ht a _ => ht.trans (hf t a)

end EndFrame

theorem trackPeak_endFrame (s : State) : EndFrame s (trackPeak s) := by
  unfold trackPeak
  dsimp only
  split
  · exact ⟨rfl, rfl, rfl, fun h => ⟨h, fun _ => rfl⟩, fun h => ⟨h, rfl⟩⟩
  · exact .refl s

theorem modMacsec_endFrame (f : Macsec → Macsec) (s : State) : EndFrame s (s.modMacsec f) :=
  ⟨rfl, rfl, rfl, fun h => ⟨h, fun _ => rfl⟩, fun h => ⟨h, rfl⟩⟩

theorem txDrop_endFrame (s : State) : EndFrame s (txDrop s) :=
  ⟨rfl, rfl, rfl, fun h => ⟨h, fun _ => rfl⟩, fun h => ⟨h, rfl⟩⟩

theorem outbox_endFrame (l : List Out) (s : State) : EndFrame s { s with outbox := l } :=
  ⟨rfl, rfl, rfl, fun h => ⟨h, fun _ => rfl⟩, fun h => ⟨h, rfl⟩⟩

theorem record_endFrame (c : W16) (a b d e : W32) (s : State) : EndFrame s (record c a b d e s) :=
  ⟨rfl, rfl, rfl, fun h => ⟨h, fun _ => rfl⟩, fun h => ⟨h, rfl⟩⟩

/-- A source that fires changes only the interrupt fields of sessions (R451). -/
theorem sess_fire_withoutInt (n i : Nat) (s : State) (h : canonical {} s.sessions = true) :
    { (fire n s).sess i with int := {} } = { s.sess i with int := {} } := by
  unfold fire State.sess
  rw [cget_cmap _ _ _ h rfl]
  split <;> rfl

theorem fire_endFrame (n : Nat) (s : State) : EndFrame s (fire n s) :=
  ⟨rfl, rfl, rfl, fun h => ⟨(fire_keeps (.refl s) n).sess h, fun i => sess_fire_withoutInt n i s h⟩, fun h => ⟨h, rfl⟩⟩

theorem modSess_endFrame (i : Nat) (f : Session → SessInt) (s : State) :
    EndFrame s (s.modSess i fun x => { x with int := f x }) where
  rest := by unfold State.modSess; split <;> rfl
  eth := by rw [State.modSess_eth]
  live := by rw [State.modSess_stats]
  sess h := by
    refine ⟨(State.modSess_keeps (.refl s) i _).sess h, fun j => ?_⟩
    rw [State.sess_modSess _ _ _ _ h]
    split
    · next hij => rw [hij.1]
    · rfl
  ring h := by rw [State.modSess_bureau]; exact ⟨h, rfl⟩

/-- A frame that is protected uses one packet number, and its limits are events of source 5 (R346). -/
theorem macsecSend_endFrame {s t : State} (h : macsecSend s = some t) : EndFrame s t := by
  have report (c : Prop) [Decidable c] (p q : W32) (u : State) :
      EndFrame u (if c then fire 5 (record 0x0605 p q 0 0 u) else u) := by
    split
    · exact (record_endFrame ..).trans (fire_endFrame ..)
    · exact .refl u
  unfold macsecSend at h
  split at h
  · split at h
    · cases h
    · split at h
      · cases h
      · split at h
        · cases h
        · cases h
          exact ((modMacsec_endFrame _ s).trans (report _ _ 1 _)).trans (report _ _ 2 _)
  · cases h
    exact .refl s

theorem sendOut_endFrame (m : Out) (s : State) : EndFrame s (sendOut m s) := by
  unfold sendOut
  split
  · split
    · next h => exact (macsecSend_endFrame h).trans (outbox_endFrame _ _)
    · exact txDrop_endFrame s
  · exact txDrop_endFrame s

theorem sendTo_endFrame (entry : Nat) (typ session : Byte) (dst : W16) (arg : W64) (payload : List Byte) (s : State) :
    EndFrame s (sendTo entry typ session dst arg payload s) := by
  unfold sendTo
  split
  · exact txDrop_endFrame s
  · exact sendOut_endFrame _ s

theorem flushInt_endFrame (s : State) (i : Nat) : EndFrame s (flushInt s i) := by
  unfold flushInt
  dsimp only
  split
  · exact .refl s
  · split
    · exact (modSess_endFrame i _ s).trans ((modSess_endFrame i _ _).trans (sendTo_endFrame ..))
    · exact modSess_endFrame i _ s

theorem flushInts_endFrame (s : State) : EndFrame s (flushInts s) := EndFrame.foldl flushInt_endFrame _ s

/-- With no record open, an arriving event opens none and programs no slot yet (R414, R417). -/
theorem arrive_of_none (frozen : Bool) (e : Event) {b : Bureau} (h : b.openRec = none) :
    (arrive frozen b e).openRec = none ∧ (arrive frozen b e).ring = b.ring := by
  have hrec : recurs e b = false := by rw [recurs, h]
  have hclose : closeRec b = b := by rw [closeRec, h]
  rw [arrive, hrec, hclose]
  dsimp only
  split
  · contradiction
  · split
    · exact ⟨h, rfl⟩
    · split <;> exact ⟨h, rfl⟩

theorem arrives_of_none (frozen : Bool) (es : List Event) {b : Bureau} (h : b.openRec = none) :
    (es.foldl (arrive frozen) b).openRec = none ∧ (es.foldl (arrive frozen) b).ring = b.ring :=
  List.foldlRecOn (motive := fun c => c.openRec = none ∧ c.ring = b.ring) es (arrive frozen) ⟨h, rfl⟩
    fun _ ⟨hc, hring⟩ e _ => (arrive_of_none frozen e hc).imp_right fun k => k.trans hring

theorem flushEvents_endFrame (s : State) : EndFrame s (flushEvents s) := by
  unfold flushEvents
  split
  · exact .refl s
  · exact ⟨rfl, rfl, rfl, fun h => ⟨h, fun _ => rfl⟩, fun h => arrives_of_none _ _ h⟩

theorem settle_endFrame (s : State) : EndFrame s s.settle :=
  ((trackPeak_endFrame s).trans (flushInts_endFrame _)).trans (flushEvents_endFrame _)

/-- What the end of a command leaves, field by field. -/
theorem EndFrame.settled {s t : State} (h : EndFrame s t) (hs : canonical {} s.sessions = true) : Settled s t := by
  obtain ⟨hrest, heth, hlive, hsess, hring⟩ := h
  constructor
  case eth => exact heth
  case live => exact hlive
  case sess => exact (hsess hs).2
  case ring => exact fun hopen => (hring hopen).2
  all_goals rw [hrest]

/-- Settles O5: each part of the end of a command keeps within its frame. -/
theorem endOfCommandFrame : Obligations.EndOfCommandFrame := by
  unfold Obligations.EndOfCommandFrame
  intro s ⟨_, hsess, _⟩
  exact (settle_endFrame s).settled hsess

/-! ## Stored bytes -/

/-- Settles O6: the tier written reads back, and a write leaves its other bytes and the other tiers. -/
theorem writtenBytesReadBack : Obligations.WrittenBytesReadBack := by
  unfold Obligations.WrittenBytesReadBack
  intro s tier a bs htier hwf hchk
  have hread (t x : Nat) (ht : t < 4) : (writeMem tier a bs s).byte t x =
      if t = tier then ((s.tier tier).write a bs).1.byte x else s.byte t x := by
    rw [writeMem_plain hchk, State.byte, State.setTier_tier _ _ _ _ htier ht]
    split
    · simp [Tier.write, hchk]
    · rfl
  refine ⟨fun i hi => ?_, fun t x ht hne => ?_⟩
  · rw [hread _ _ htier, if_pos rfl, Tier.byte_write (wf_tier hwf tier) hchk a i bs hi]
  · rw [hread _ _ ht]
    split
    · next heq =>
      rw [Tier.byte_write_other (wf_tier hwf tier) hchk a x bs (hne.resolve_left (not_not_intro heq)), heq, State.byte]
    · rfl

end Sys2Proof.Machine
end

section
/-! The obligations of the register space (R4 to R7, R441, R446): what a write reaches, and whom the SMBus port is denied. -/

namespace Sys2Proof.Machine

/-! ## Which readers act -/

/-- The SMBus port acts where its subset reaches, while the standby domain runs (R441). -/
theorem State.actsAs_smbus (s : State) (w : Reach) : s.actsAs w 8 = (s.pwr.standbyOn && s.smbReach w) := by
  simp [State.actsAs]

/-- A reader that acts is not denied (R441). -/
theorem State.not_denied_of_acts {s : State} {w : Reach} {r : Nat} (h : s.actsAs w r = true) :
    (decide (r = 8) && s.pwr.standbyOn && !s.smbReach w) = false := by
  by_cases hr : r = 8
  · subst hr
    rw [State.actsAs_smbus, Bool.and_eq_true] at h
    simp [h.2]
  · simp [hr]

/-- A session that is not open, or that no message reaches, does not act, and no reader but nine exists (R9). -/
theorem State.not_acts {s : State} {w : Reach} {r : Nat} (hr : r ≠ 8)
    (h : 8 < r ∨ (s.sess r).isOpen = false ∨ s.receives = false) : s.actsAs w r = false := by
  rw [State.actsAs]
  split
  · next hlt =>
    rcases h with h | h | h
    · omega
    · simp [h]
    · simp [h]
  · simp [hr]

/-- What a reader that acts nowhere asks for does nothing. -/
theorem byReader_idle {w : Reach} {r : Nat} {f : State → State} {s : State} (h : s.actsAs w r = false) (hr : r ≠ 8) :
    byReader w r f s = .next s := by
  simp [byReader, h, hr]

/-! ## Register writes -/

theorem exec_registerWrite_of_acts {r : Nat} {off v raced : W32} {s : State} (h : s.actsAs (reachOf off.toNat) r = true) :
    exec (.registerWrite r off ⟨v, raced⟩) s = .next (resetAfter (writeRaced r off.toNat v raced s)).settle := by
  rw [exec_registerWrite, execRegisterWrite, State.not_denied_of_acts h, if_neg Bool.false_ne_true, byReader_acts h]

/-- Only INT_PENDING has more to a write than the value the race leaves (R7, R452). -/
theorem writeRaced_of_ne (r : Nat) {off : Nat} (v raced : W32) (s : State) (h : off ≠ 0x1100) :
    writeRaced r off v raced s = writeReg r off (raceWrite off v raced) s := by
  rw [writeRaced, if_neg h]

/-- A misaligned offset, the read-only IDENT block and offsets past the last block (R4, R446). -/
theorem writeReg_ignored (r : Nat) {off : Nat} (v : W32) (s : State) (h : off % 4 ≠ 0 ∨ off < 0x1000 ∨ 0x120000 ≤ off) :
    writeReg r off v s = s := by
  unfold writeReg
  split
  · rfl
  · next hlow =>
    rw [Bool.or_eq_true, decide_eq_true_eq, decide_eq_true_eq] at hlow
    have hoff : 0x120000 ≤ off := by omega
    split
    · omega
    · split
      · omega
      · dsimp only
        split
        case h_17 => rfl
        all_goals omega

/-- RNG_CTRL, RNG_SEED_LO and RNG_SEED_HI stand while LOCK is set (R123). -/
theorem writeReg_rng_locked (r : Nat) {off : Nat} (v : W32) {s : State} (hlock : s.rng.lock = true)
    (h : off = 0x110000 ∨ off = 0x110004 ∨ off = 0x110008) : writeReg r off v s = s := by
  rcases h with rfl | rfl | rfl
  all_goals
    change (if s.rng.lock then s else _) = s
    rw [if_pos hlock]

/-- RNG_SEED_LO is the low word of the seed while LOCK is clear (R123). -/
theorem writeReg_rngSeedLo (r : Nat) (v : W32) {s : State} (hlock : s.rng.lock = false) :
    writeReg r 0x110004 v s = { s with rng := { s.rng with seed := join (hi32 s.rng.seed) v } } := by
  change (if s.rng.lock then s else _) = _
  rw [hlock]
  rfl

/-- A register without a W1C flag takes the whole value. -/
theorem raceWrite_of_no_flags {off : Nat} (v raced : W32) (h : w1cFlags off = 0) : raceWrite off v raced = v := by
  rw [raceWrite, h, show ~~~(raced &&& 0) = BitVec.allOnes 32 by simp, BitVec.and_allOnes]

/-- Settles O7: what a reader that acts writes, by the register's own effect, and the read of RNG_TEST_OUT_LO. -/
theorem registerAccessesActOrAreIgnored : Obligations.RegisterAccessesActOrAreIgnored := by
  unfold Obligations.RegisterAccessesActOrAreIgnored
  refine ⟨fun r off v raced s hacts hreset => ?_, fun r s hacts => ?_⟩
  · have hexec (hoff : off.toNat ≠ 0x1100) : exec (.registerWrite r off ⟨v, raced⟩) s =
        .next (resetAfter (writeReg r off.toNat (raceWrite off.toNat v raced) s)).settle := by
      rw [exec_registerWrite_of_acts hacts, writeRaced_of_ne r v raced s hoff]
    refine ⟨hexec, fun hign => ?_, fun hlock hoff => ?_, fun hlock hoff => ?_⟩
    · rw [hexec (by omega), writeReg_ignored r _ s hign, resetAfter_off hreset]
    · rw [hexec (by omega), writeReg_rng_locked r _ hlock hoff, resetAfter_off hreset]
    · rw [hexec (by omega), hoff, raceWrite_of_no_flags v raced rfl, writeReg_rngSeedLo r v hlock, resetAfter_off]
      exact hreset
  · exact exec_byReader (exec_rngTestOutLo r s) hacts rfl

/-! ## The SMBus port outside its subset -/

theorem exec_registerWrite_denied {off v raced : W32} {s : State} (hs : s.pwr.standbyOn = true)
    (hreach : s.smbReach (reachOf off.toNat) = false) :
    exec (.registerWrite 8 off ⟨v, raced⟩) s = .next (smbDenied off.toNat s).settle := by
  rw [exec_registerWrite, execRegisterWrite, hs, hreach]
  exact done_def _

/-- EVREC_CLEAR is no register of the SMBus port's (R422, R441). -/
theorem exec_evrecClear_smbus (v : W32) {s : State} (hs : s.pwr.standbyOn = true) :
    exec (.evrecClear 8 v) s = .next (denied (evrecErr s)).settle := by
  rw [exec_evrecClear, execEvrecClear, hs]
  exact done_def _

/-- Settles O8: an access outside the subset is `denied`, and one of a session that does not act does nothing. -/
theorem smbusStaysInItsSubset : Obligations.SmbusStaysInItsSubset := by
  unfold Obligations.SmbusStaysInItsSubset
  refine ⟨fun c w s haccess hs hreach => ?_, fun off v raced s hs hreach hoff => ?_, fun v raced s hs => ⟨?_, ?_⟩,
    fun c w r s haccess hr hclosed => ?_⟩
  · obtain ⟨f, hf⟩ := exec_access s haccess
    rw [hf, byReader_denied (by rw [State.actsAs_smbus, hreach, Bool.and_false]) hs]
  · have hne : off.toNat ≠ 0xE003C := fun h => hoff (BitVec.eq_of_toNat_eq h)
    rw [exec_registerWrite_denied hs hreach, smbDenied, if_neg hne, denied]
  · exact exec_evrecClear_smbus v hs
  · exact exec_registerWrite_denied hs rfl
  · obtain ⟨f, hf⟩ := exec_access s haccess
    rw [hf, byReader_idle (State.not_acts hr hclosed) hr]

end Sys2Proof.Machine
end

section
/-! The obligations of requests and sessions (R331 to R336): checks, repeats, kept replies, opening and closing. -/

namespace Sys2Proof.Machine

/-! ## Checks 4 and 6 of R331, and the repeat of R335 -/

theorem forUs_of_ne {dst : W16} {s : State} (hdev : dst ≠ s.eth.devAddr) (hall : dst ≠ 0xFFFF) : forUs dst s = false := by
  rw [forUs, beq_false_of_ne hdev, beq_false_of_ne hall, Bool.or_self]

theorem serveOpt_foreign {typ : Byte} {q : Req} {s : State} (f : State → Option Reply × State) (hrec : s.receives = true)
    (hfor : forUs q.dstDev s = false) : serveOpt typ q f s = rxDrop s := by
  simp [serveOpt, hrec, hfor]

theorem serveOpt_closed {typ : Byte} {q : Req} {s : State} (f : State → Option Reply × State) (hrec : s.receives = true)
    (hfor : forUs q.dstDev s = true) (hclosed : 7 < q.session.toNat ∨ (s.sess q.session.toNat).isOpen = false) :
    serveOpt typ q f s = sendOut (.st (replyMsg typ q q.session (.err 4 0 0))) (rxBad s) := by
  have hno : (decide (q.session.toNat < 8) && (s.sess q.session.toNat).isOpen) = false := by
    rcases hclosed with h | h
    · simp [show ¬ q.session.toNat < 8 by omega]
    · simp [h]
  simp [serveOpt, hrec, hfor, hno]

theorem serveOpt_repeat {typ : Byte} {q : Req} {m : Msg} {s : State} (f : State → Option Reply × State)
    (hrec : s.receives = true) (hfor : forUs q.dstDev s = true) (hlt : q.session.toNat < 8)
    (hopen : (s.sess q.session.toNat).isOpen = true) (hwaits : s.kl.waits = [])
    (hkept : (s.sess q.session.toNat).replies.find? (·.1 = q.reqId) = some (q.reqId, m)) :
    serveOpt typ q f s = sendOut (.st m) s := by
  simp [serveOpt, hrec, hfor, hlt, hopen, hwaits, hkept]

/-- Upsets touch memory alone, so a request meets the power block as it stood. -/
theorem Instr.before_pwr (c : Instr) (s : State) : (c.before s).pwr = s.pwr := by
  have hups (ups : List Upset) : (applyUpsets ups s).pwr = s.pwr := by rw [applyUpsets_frame]
  unfold Instr.before
  split
  · exact hups _
  · exact hups _
  · rfl

/-- A request whose answer does not depend on what its command does, and that starts no reset. -/
theorem exec_request_unexecuted {c : Instr} {typ : Byte} {q : Req} {s t : State} (hc : c.request? = some (typ, q))
    (hreset : s.pwr.resetReq = false) (h : ∀ f, serveOpt typ q f (c.before s) = t) (hpwr : t.pwr = (c.before s).pwr) :
    exec c s = .next t.settle := by
  have hoff : resetAfter t = t := resetAfter_off (by rw [hpwr, Instr.before_pwr, hreset])
  obtain ⟨f, hf | hf⟩ := exec_request s hc
  · rw [hf, h]
  · rw [hf, h, hoff]

/-- Settles O10: checks 4 and 6 of R331 come before any command's own effect. -/
theorem requestNeedsAnOpenSessionHere : Obligations.RequestNeedsAnOpenSessionHere := by
  unfold Obligations.RequestNeedsAnOpenSessionHere
  refine ⟨fun c typ q s hc hreset hrec hfor hclosed => ?_, fun c typ q s hc hreset hrec hdev hall => ?_⟩
  · exact exec_request_unexecuted hc hreset (fun f => serveOpt_closed f hrec hfor hclosed) (sendOut_pwr ..)
  · exact exec_request_unexecuted hc hreset (fun f => serveOpt_foreign f hrec (forUs_of_ne hdev hall)) rfl

/-! ## The kept replies -/

theorem sendOut_plain (m : Out) {s : State} (hup : s.eth.up = true) (hen : s.eth.macsec.en = false) :
    sendOut m s = { s with outbox := s.outbox ++ [m] } := by
  simp [sendOut, macsecSend, hup, hen]

theorem sendOut_down (m : Out) {s : State} (hup : s.eth.up = false) :
    sendOut m s = { s with eth := { s.eth with txDrop := satInc s.eth.txDrop } } := by
  rw [sendOut, hup]
  rfl

theorem answer_of_open {q : Req} {s : State} (typ : Byte) (y : Reply) (hlt : q.session.toNat < 8)
    (hopen : (s.sess q.session.toNat).isOpen = true) :
    answer typ q y s = sendOut (.st (replyMsg typ q q.session y)) (s.setSess q.session.toNat
      { s.sess q.session.toNat with
        replies := ((q.reqId, replyMsg typ q q.session y) :: (s.sess q.session.toNat).replies).take 16 }) := by
  rw [answer]
  dsimp only
  rw [if_pos hopen, State.modSess_of_lt _ _ _ hlt]

/-- Settles O11: a repeat meets the kept reply, and `answer` keeps what it sends. -/
theorem repliesAreKeptAndSentAgain : Obligations.RepliesAreKeptAndSentAgain := by
  unfold Obligations.RepliesAreKeptAndSentAgain
  refine ⟨fun c typ q m s hc hreset hrec hfor hlt hopen hwaits hkept => ?_, fun typ q y s hlt htidy hopen => ?_⟩
  · exact exec_request_unexecuted hc hreset (fun f => serveOpt_repeat f hrec hfor hlt hopen hwaits hkept) (sendOut_pwr ..)
  · obtain ⟨_, hsess, _⟩ := htidy
    dsimp only
    rw [State.modSess_of_lt _ _ _ hlt]
    refine ⟨fun hup hen => ?_, fun hup => ?_, ?_, fun i hne => ?_⟩
    · rw [answer_of_open typ y hlt hopen]
      exact sendOut_plain _ hup hen
    · rw [answer_of_open typ y hlt hopen]
      exact sendOut_down _ hup
    · rw [State.sess_setSess _ _ _ _ hsess, if_pos rfl]
    · rw [State.sess_setSess _ _ _ _ hsess, if_neg hne]

/-! ## Opening and closing a session -/

/-- The first free number is found: those below it are in use. -/
theorem lowestFree_eq_some {used : Nat → Bool} {n k i : Nat} (hk : k ≤ i) (hi : i < k + n) (hfree : used i = false)
    (hbelow : ∀ j, k ≤ j → j < i → used j = true) : lowestFree used n k = some i := by
  induction n generalizing k with
  | zero => omega
  | succ n ih =>
    by_cases hki : k = i
    · rw [hki, lowestFree, hfree]
      rfl
    · rw [lowestFree, if_pos (hbelow k (Nat.le_refl k) (by omega))]
      exact ih (by omega) (by omega) fun j hj => hbelow j (by omega)

theorem lowestFree_eq_none {used : Nat → Bool} {n k : Nat} (h : ∀ j, k ≤ j → j < k + n → used j = true) :
    lowestFree used n k = none := by
  induction n generalizing k with
  | zero => rfl
  | succ n ih =>
    rw [lowestFree, if_pos (h k (Nat.le_refl k) (by omega))]
    exact ih fun j hj hlt => h j (by omega) (by omega)

/-- The fields of SESSION_OPEN's ARG: the session asked for and the role (R332). -/
structure OpenArg (q : Req) (want role : Nat) : Prop where
  payload : q.payload = []
  arg : q.arg.toNat = want + 256 * role
  role : role < 2
  want : want ≤ 0xFF

namespace OpenArg

variable {q : Req} {want role : Nat} {s : State}

theorem bits_want (h : OpenArg q want role) : bitsOf q.arg.toNat 0 8 = want := by
  have := h.want
  rw [bitsOf, Nat.shiftRight_zero, h.arg]
  omega

theorem bits_role (h : OpenArg q want role) : bitsOf q.arg.toNat 8 8 = role := by
  have := h.want
  have := h.role
  rw [bitsOf, Nat.shiftRight_eq_div_pow, h.arg]
  omega

theorem getLsbD_role (h : OpenArg q want role) : q.arg.getLsbD 8 = decide (role = 1) := by
  have hwant := h.want
  have hrole := h.role
  rw [← BitVec.testBit_toNat, h.arg, Nat.testBit_eq_decide_div_mod_eq]
  congr 1
  rw [eq_iff_iff]
  omega

theorem arg_lt (h : OpenArg q want role) : q.arg.toNat < 65536 := by
  have hwant := h.want
  have hrole := h.role
  rw [h.arg]
  omega

/-- A well-formed open of a session that is named, or of any, gets the free one it names, or the lowest free one (R332). -/
theorem pickSession_granted (h : OpenArg q want role) {i : Nat}
    (hi : want = i ∧ i < 8 ∨ want = 0xFF ∧ i < 8 ∧ ∀ j, j < i → (s.sess j).isOpen = true)
    (hfree : (s.sess i).isOpen = false) : pickSession q s = .inl i := by
  have hrole : ¬ 1 < role := Nat.not_lt.2 (Nat.le_of_lt_succ h.role)
  rw [pickSession, h.bits_want, h.bits_role, h.payload]
  rcases hi with ⟨rfl, hlt⟩ | ⟨rfl, hlt, hbelow⟩
  · simp [h.arg_lt, hrole, hfree, show ¬ 7 < want by omega, show want ≠ 255 by omega]
  · have hlowest := lowestFree_eq_some (Nat.zero_le i) (show i < 0 + 8 by omega) hfree fun j _ => hbelow j
    simp [h.arg_lt, hrole, hlowest]

theorem pickSession_taken (h : OpenArg q want role)
    (hopen : want < 8 ∧ (s.sess want).isOpen = true ∨ want = 0xFF ∧ ∀ j, j < 8 → (s.sess j).isOpen = true) :
    pickSession q s = .inr (.err 4 0 0) := by
  have hrole : ¬ 1 < role := Nat.not_lt.2 (Nat.le_of_lt_succ h.role)
  rw [pickSession, h.bits_want, h.bits_role, h.payload]
  rcases hopen with ⟨hlt, hopen⟩ | ⟨rfl, hopen⟩
  · simp [h.arg_lt, hrole, hopen, show ¬ 7 < want by omega, show want ≠ 255 by omega]
  · have hnone : lowestFree (fun i => (s.sess i).isOpen) 8 0 = none :=
      lowestFree_eq_none fun j _ hj => hopen j (by omega)
    simp [h.arg_lt, hrole, hnone]

theorem pickSession_range (h : OpenArg q want role) (hlow : 7 < want) (hhigh : want < 0xFF) :
    pickSession q s = .inr (.err 5 0 0) := by
  rw [pickSession, h.bits_want]
  simp [hlow, show want ≠ 255 by omega]

end OpenArg

/-- The reply kept of an earlier SESSION_OPEN with the same REQ_ID and sender, while its session is open (R335). -/
def State.keptOpen (s : State) (q : Req) : Option (W32 × BitVec 128 × W16 × Nat × Msg) :=
  s.eth.opens.find? fun o => o.1 == q.reqId && o.2.1 == q.ip && o.2.2.1 == q.port && decide (o.2.2.2.1 < 8)

/-- The count of an executed request that is no session's own (R455). -/
def State.countedOpen (s : State) : State := s.modLive fun c => { c with exec := satInc c.exec }

section sessionOpen

variable {q : Req} {s : State} (hrec : s.receives = true) (hfor : forUs q.dstDev s = true)
include hrec hfor

theorem exec_sessionOpen_repeat {o : W32 × BitVec 128 × W16 × Nat × Msg} (hkept : s.keptOpen q = some o) :
    exec (.sessionOpen q) s = .next (State.settle (sendOut (.st o.2.2.2.2) s)) := by
  rw [State.keptOpen] at hkept
  rw [exec_sessionOpen, execSessionOpen, hrec, hfor, hkept]
  rfl

theorem exec_sessionOpen_granted {i : Nat} (hnew : s.keptOpen q = none) (hpick : pickSession q s.countedOpen = .inl i) :
    let m := replyMsg 0x01 q (BitVec.ofNat 8 i) (.ok [])
    exec (.sessionOpen q) s = .next (State.settle (sendOut (.st m)
      ((openSess i (q.arg.getLsbD 8) s.countedOpen).modEth fun e =>
        { e with opens := ((q.reqId, q.ip, q.port, i, m) :: e.opens).take 16 }))) := by
  rw [State.keptOpen] at hnew
  rw [State.countedOpen] at hpick
  rw [exec_sessionOpen, execSessionOpen, hrec, hfor, hnew]
  dsimp only
  rw [hpick]
  rfl

theorem exec_sessionOpen_refused {y : Reply} (hnew : s.keptOpen q = none) (hpick : pickSession q s.countedOpen = .inr y) :
    let m := replyMsg 0x01 q q.session y
    exec (.sessionOpen q) s = .next (State.settle (sendOut (.st m) (s.countedOpen.modEth fun e =>
      { e with opens := ((q.reqId, q.ip, q.port, 0xFF, m) :: e.opens).take 16 }))) := by
  rw [State.keptOpen] at hnew
  rw [State.countedOpen] at hpick
  rw [exec_sessionOpen, execSessionOpen, hrec, hfor, hnew]
  dsimp only
  rw [hpick]
  rfl

end sessionOpen

/-- A session that closes is as one that never opened, for itself alone (R336, R421). -/
theorem sess_closeSess (i j : Nat) (s : State) (h : canonical {} s.sessions = true) :
    (closeSess i s).sess j = if j = i then {} else s.sess j :=
  State.sess_setSess s i j {} h

theorem reader_closeSess (i j : Nat) (s : State) (h : canonical {} s.readers = true) :
    (closeSess i s).reader j = if j = i then {} else s.reader j :=
  State.reader_modReader s i j (fun _ => {}) h

/-- Settles O12: NOP and SESSION_CLOSE as requests, SESSION_OPEN by `pickSession`, the lease, and what a close takes. -/
theorem sessionsOpenAndClose : Obligations.SessionsOpenAndClose := by
  unfold Obligations.SessionsOpenAndClose
  refine ⟨fun q s hq => exec_serve rfl hq rfl, fun q want role s hrec hfor hnew hpay harg hrole => ⟨?_, ?_, ?_⟩,
    fun q o s hrec hfor hkept => exec_sessionOpen_repeat hrec hfor hkept, fun q s hq hpay harg => ?_,
    fun q s hq hbad => ?_, fun i s hlt hopen => ?_, fun i s htidy => ?_⟩
  · intro i hi hfree
    have hform : OpenArg q want role := ⟨hpay, harg, hrole, by omega⟩
    rw [exec_sessionOpen_granted hrec hfor hnew (hform.pickSession_granted hi hfree), hform.getLsbD_role]
    rfl
  · intro hopen
    have hform : OpenArg q want role := ⟨hpay, harg, hrole, by omega⟩
    exact exec_sessionOpen_refused hrec hfor hnew (hform.pickSession_taken hopen)
  · intro hlow hhigh
    have hform : OpenArg q want role := ⟨hpay, harg, hrole, by omega⟩
    exact exec_sessionOpen_refused hrec hfor hnew (hform.pickSession_range hlow hhigh)
  · exact exec_serve rfl hq (by simp [hpay, harg])
  · have hform : (!q.payload.isEmpty || decide (q.arg ≠ 0)) = true := by
      rcases hbad with h | h
      · simp [h]
      · rw [decide_eq_true h, Bool.or_true]
    exact exec_serve rfl hq (if_pos hform)
  · rw [exec_sessionLeaseExpiry, execSessionLeaseExpiry, if_pos (by simp [hlt, hopen]), done]
  · obtain ⟨_, hsess, hreaders⟩ := htidy
    refine ⟨?_, ?_, fun j hne => ⟨?_, ?_⟩⟩
    · rw [sess_closeSess _ _ _ hsess, if_pos rfl]
    · rw [reader_closeSess _ _ _ hreaders, if_pos rfl]
    · rw [sess_closeSess _ _ _ hsess, if_neg hne]
    · rw [reader_closeSess _ _ _ hreaders, if_neg hne]

/-! ## A datagram that fails a check -/

/-- Settles O13: `execStMessageRefused` takes the checks of R331 in their order. -/
theorem messageThatFailsACheckIsRefused : Obligations.MessageThatFailsACheckIsRefused := by
  unfold Obligations.MessageThatFailsACheckIsRefused
  intro ip port raw s hrec
  dsimp only
  rw [exec_stMessageRefused, execStMessageRefused]
  refine ⟨fun hshort => ?_, fun hlong hlen => ?_, fun hlong hlen hmax hcrc => ?_,
    fun hlong hlen hmax hcrc hver hflags hres hfor => ?_⟩
  · simp [hrec, hshort, done]
  · simp [hrec, show ¬ raw.length < 28 by omega, hlen, done]
  · simp [hrec, show ¬ raw.length < 28 by omega, ← hlen, show ¬ 8192 < field raw 12 2 by omega, hcrc, done]
  · simp [hrec, show ¬ raw.length < 28 by omega, ← hlen, show ¬ 8192 < field raw 12 2 by omega, hcrc, hver, hflags, hres, hfor, done]

end Sys2Proof.Machine
end

section
/-! The obligations of the messages that read and write registers, memory, queues and destinations (R332, R333, R337 to R339). -/

namespace Sys2Proof.Machine

/-! ## REG_READ and REG_WRITE -/

theorem regPairs_length (l : List Byte) : (regPairs l).length = l.length / 8 := by
  rw [regPairs, List.length_map, List.length_range]

/-- The form of a REG_WRITE of 1 to 256 pairs (R333). -/
theorem regWrite_formed {q : Req} (hmod : q.payload.length % 8 = 0) (hlow : 8 ≤ q.payload.length)
    (hhigh : q.payload.length ≤ 2048) (harg : q.arg = 0) :
    (decide (q.payload.length % 8 ≠ 0) || (regPairs q.payload).isEmpty || decide (256 < (regPairs q.payload).length) ||
      decide (q.arg ≠ 0)) = false := by
  have hlen := regPairs_length q.payload
  have hne : (regPairs q.payload).isEmpty = false := by
    rw [List.isEmpty_eq_false_iff, ← List.length_pos_iff]
    omega
  simp [hmod, hne, harg, show ¬ 256 < (regPairs q.payload).length by omega]

@[simp] theorem answer_pwr (typ : Byte) (q : Req) (y : Reply) (s : State) : (answer typ q y s).pwr = s.pwr := by
  unfold answer
  dsimp only
  split <;> simp

@[simp] theorem State.counted_pwr (q : Req) (s : State) : (s.counted q).pwr = s.pwr := by simp [State.counted]

section regWrite

variable {q : Req} {s : State} (hq : s.executes q = true) (hmod : q.payload.length % 8 = 0) (hlow : 8 ≤ q.payload.length)
  (hhigh : q.payload.length ≤ 2048) (harg : q.arg = 0)
include hq hmod hlow hhigh harg

/-- A REG_WRITE whose offsets are all aligned is executed whole; then a RESET it carried starts (R429). -/
theorem exec_regWrite_aligned (raced : W32) (hall : (regPairs q.payload).findIdx? (fun p => p.1 % 4 != 0) = none) :
    exec (.regWrite ⟨q, raced⟩) s = .next (State.settle (resetAfter (answer 0x11 q (.ok [])
      ((s.counted q).each (regPairs q.payload) fun s p => writeRaced q.session.toNat p.1 p.2 raced s)))) := by
  rw [exec_regWrite, execRegWrite, done]
  dsimp only
  rw [serve_executes hq, regWrite_formed hmod hlow hhigh harg, if_neg Bool.false_ne_true, hall]

theorem exec_regWrite_misaligned (raced : W32) {i : Nat}
    (hbad : (regPairs q.payload).findIdx? (fun p => p.1 % 4 != 0) = some i) :
    exec (.regWrite ⟨q, raced⟩) s = .next (State.settle (resetAfter (answer 0x11 q
      (.err 5 i (((regPairs q.payload)[i]?.map (·.1)).getD 0)) (s.counted q)))) := by
  rw [exec_regWrite, execRegWrite, done]
  dsimp only
  rw [serve_executes hq, regWrite_formed hmod hlow hhigh harg, if_neg Bool.false_ne_true, hbad]

end regWrite

/-- Settles O14: a list of registers is read or written in order, and a misaligned one is refused whole. -/
theorem registerMessagesReadAndWrite : Obligations.RegisterMessagesReadAndWrite := by
  unfold Obligations.RegisterMessagesReadAndWrite
  refine ⟨fun q s hq hlen hlow hhigh harg hmod => ?_, fun q raced s hq hmod hlow hhigh harg hall => ?_,
    fun q raced s i hq hreset hmod hlow hhigh harg hbad => ?_⟩
  · exact exec_serve rfl hq (by simp [hlen, hmod, show ¬ field q.payload 0 4 < 1 by omega,
      show ¬ 256 < field q.payload 0 4 by omega, show q.arg.toNat < 4294967296 by omega])
  · have hnone : (regPairs q.payload).findIdx? (fun p => p.1 % 4 != 0) = none := by
      rw [List.findIdx?_eq_none_iff]
      intro p hp
      simp [hall p hp]
    exact exec_regWrite_aligned hq hmod hlow hhigh harg raced hnone
  · rw [exec_regWrite_misaligned hq hmod hlow hhigh harg raced hbad, resetAfter_off]
    rw [answer_pwr, State.counted_pwr, hreset]

/-! ## MEM_READ and MEM_WRITE -/

/-- Settles O15: a well-formed message passes NOT_READY, SPACE 3, the access check and the access, in this order. -/
theorem memoryMessagesReadAndWrite : Obligations.MemoryMessagesReadAndWrite := by
  unfold Obligations.MemoryMessagesReadAndWrite
  refine ⟨fun q ups s hq => ?_, fun q ups s hq => ?_⟩
  · intro u n hlen hlow hhigh hmod harg
    have hform : ¬ (q.payload.length ≠ 4 || n < 64 || 8192 < n || n % 64 ≠ 0 || !memArgOk q) := by
      simp [hlen, hmod, harg]
      omega
    have hrun (y : Reply) (t : State) (h : runMemRead q u = (y, t)) :
        exec (.memRead q ups) s = .next (State.settle (answer 0x20 q y t)) := exec_serve rfl hq h
    refine ⟨fun hready => hrun _ _ ?_, fun hready hspace => hrun _ _ ?_, fun hready hspace =>
      ⟨fun y hrefused => hrun _ _ ?_, fun hallowed => ⟨fun b t hread => hrun _ _ ?_, fun y t hread => hrun _ _ ?_⟩⟩⟩
    all_goals
      rw [runMemRead]
      rw [if_neg hform]
    · simp [hready]
    · simp [hready, hspace]
    · simp [hready, Nat.ne_of_lt hspace, n, hrefused]
    · simp [hready, Nat.ne_of_lt hspace, n, hallowed, hread]
    · simp [hready, Nat.ne_of_lt hspace, n, hallowed, hread]
  · intro u n a i hlow hhigh hmod harg
    have hform : ¬ (n < 64 || 8192 < n || n % 64 ≠ 0 || !memArgOk q) := by
      simp [hmod, harg]
      omega
    have hrun (y : Reply) (t : State) (h : runMemWrite q u = (y, t)) :
        exec (.memWrite q ups) s = .next (State.settle (answer 0x21 q y t)) := exec_serve rfl hq h
    refine ⟨fun hready => hrun _ _ ?_, fun hready hspace hout => hrun _ _ ?_, fun hready hspace hfrom hto => hrun _ _ ?_,
      fun hready hspace => ⟨fun y hrefused => hrun _ _ ?_, fun t hallowed =>
        ⟨fun hrest => hrun _ _ ?_, fun hrest => hrun _ _ ?_⟩⟩⟩
    all_goals
      rw [runMemWrite]
      rw [if_neg hform]
    · simp [hready]
    · have hleaves : a < stageBase i || stageBase i + 0x40000 < a + n := by
        rw [Bool.or_eq_true, decide_eq_true_eq, decide_eq_true_eq]
        exact hout
      rw [if_neg (by simp [hready]), if_pos hspace, if_pos hleaves]
    · have hin : ¬ (a < stageBase i || stageBase i + 0x40000 < a + n) := by
        simp [stageBase, Nat.not_lt.2 hfrom, Nat.not_lt.2 hto]
      rw [if_neg (by simp [hready]), if_pos hspace, if_neg hin]
      rfl
    · simp [hready, Nat.ne_of_lt hspace, n, a, hrefused]
    · simp [hready, Nat.ne_of_lt hspace, n, a, hallowed, hrest]
    · simp [hready, Nat.ne_of_lt hspace, n, a, hallowed, hrest]

/-! ## SUBMIT, STREAM_BIND and the destination table -/

/-- Settles O17: a queue that takes entries and has room is pushed to, once the bytes beside the entries are read. -/
theorem submissionsAndBindingsTakeEffect : Obligations.SubmissionsAndBindingsTakeEffect := by
  unfold Obligations.SubmissionsAndBindingsTakeEffect
  refine ⟨fun q s t hq => ?_, fun q s hq hlt hlen => ?_⟩
  · intro u k n hk hmod hlow hhigh
    have hform : ¬ (2 ^ 21 ≤ k || q.payload.length % 64 ≠ 0 || n = 0 || 128 < n) := by
      simp [hmod, Nat.ne_of_gt hlow]
      omega
    have hrun (y : Reply) (v : State) (h : runSubmit q u = (y, v)) :
        exec (.submit q) s = .next (State.settle (answer 0x31 q y v)) := exec_serve rfl hq h
    refine ⟨fun hbad => hrun _ _ ?_, fun hqueue hpresent htakes =>
      ⟨fun hfull => hrun _ _ ?_, fun hroom hrest => hrun _ _ ?_, fun hroom hrest => hrun _ _ ?_⟩⟩
    all_goals rw [runSubmit, if_neg hform]
    · rw [if_pos]
      simpa [or_assoc] using hbad
    all_goals
      have htaken : ¬ (k % 32 ≠ 0 || !(u.queue k).present || !takesEntries (u.stream (k / 32))) := by
        simp [hqueue, hpresent, htakes]
      rw [if_neg htaken]
    · rw [if_pos hfull]
    · rw [if_neg (Nat.not_lt.2 hroom), hrest]
      rfl
    · rw [if_neg (Nat.not_lt.2 hroom), hrest]
      rfl
  · intro u a b ha hb hopen
    refine exec_serve rfl hq ?_
    have hdest (n : Nat) (h : n = 0xFFFF ∨ n < 4096 ∧ destKind (u.dest n) = 2) :
        (n == 0xFFFF || (decide (n < 4096) && destKind (u.dest n) == 2)) = true := by
      simpa using h
    have hform : ¬ (65536 ≤ q.arg.toNat || q.payload.length ≠ 4 ||
        !(a == 0xFFFF || (decide (a < 4096) && destKind (u.dest a) == 2)) ||
        !(b == 0xFFFF || (decide (b < 4096) && destKind (u.dest b) == 2)) || !(u.stream q.arg.toNat).isOpen) := by
      rw [hdest a ha, hdest b hb, hopen, hlen]
      simp [hlt]
    exact if_neg hform

/-- Settles O18: an entry is written where nothing names it and its form is right, and asked for where it is unresolved. -/
theorem destinationsAreWrittenAndRead : Obligations.DestinationsAreWrittenAndRead := by
  unfold Obligations.DestinationsAreWrittenAndRead
  refine ⟨fun q s hq hlt hlen => ?_, fun q s hq hlt hpay => ?_⟩
  · intro u e
    have hform : ¬ (4096 ≤ q.arg.toNat || q.payload.length ≠ 64) := by
      simp [hlt, hlen]
    refine ⟨fun huse => exec_serve rfl hq ?_, fun huse hbad => exec_serve rfl hq ?_, fun huse hok => exec_serve rfl hq ?_⟩
    all_goals
      dsimp only
      rw [if_neg hform]
    · rw [if_pos huse]
    · rw [if_neg (by simp [u, huse]), if_pos (by simp [e, hbad])]
    · rw [if_neg (by simp [u, huse]), if_neg (by simp [e, hok])]
  · exact exec_serve rfl hq (by simp [hlt, hpay])

/-! ## STREAM_OPEN -/

/-- Only the header of a context to restore is read as an open is decided (R241, R254). -/
theorem decideOpen_state_of_not_restores {b : List Byte} (h : openRestores b = false) (s : State) :
    (decideOpen b s).2 = s := by
  unfold decideOpen
  simp only [h, Bool.false_and, Bool.false_eq_true, if_false]
  repeat' split
  all_goals rfl

theorem exec_streamOpen_answered {q : Req} {s t : State} {y : Reply} (hq : s.executes q = true)
    (h : runOpen q (s.counted q) = (some y, t)) : exec (.streamOpen q) s = .next (State.settle (answer 0x30 q y t)) := by
  rw [exec_streamOpen, execStreamOpen, done, serveOpt_executes hq, h]

theorem exec_streamOpen_waits {q : Req} {s t : State} (hq : s.executes q = true)
    (h : runOpen q (s.counted q) = (none, t)) : exec (.streamOpen q) s = .next t.settle := by
  rw [exec_streamOpen, execStreamOpen, done, serveOpt_executes hq, h]

section runOpen

variable {q : Req} {s t : State} (hlen : q.payload.length = 48) (harg : q.arg = 0)
include hlen harg

theorem runOpen_refused {x : Refused} (h : decideOpen q.payload s = (.inl x, t)) :
    runOpen q s = (some (refuseOpen q.payload x t).1, (refuseOpen q.payload x t).2) := by
  rw [runOpen, if_neg (by simp [hlen, harg]), h]

theorem runOpen_accepted {o : Opened} (h : decideOpen q.payload s = (.inr o, t)) (hone : o.plan.seqGroup ≤ 1) :
    runOpen q s = (some (openedReply q.payload o.id), startOpened q.payload o.id o.plan
      (admitStream q.payload o (t.modLive fun c => { c with opens := satInc c.opens }))) := by
  rw [runOpen, if_neg (by simp [hlen, harg]), h]
  exact if_pos hone

theorem runOpen_unreached {o : Opened} (h : decideOpen q.payload s = (.inr o, t)) (hring : 1 < o.plan.seqGroup)
    (hout : t.ringSelf o.plan.plan o.plan.seqGroup = none ∨ ringReach o.plan t = false) :
    runOpen q s = (some (refuseOpen q.payload { code := 2 } t).1, (refuseOpen q.payload { code := 2 } t).2) := by
  have hbar : ((t.ringSelf o.plan.plan o.plan.seqGroup).isNone || !ringReach o.plan t) = true := by
    simpa using hout
  rw [runOpen, if_neg (by simp [hlen, harg]), h]
  dsimp only
  rw [if_neg (Nat.not_le.2 hring), if_pos hbar]

theorem runOpen_ring {o : Opened} (h : decideOpen q.payload s = (.inr o, t)) (hring : 1 < o.plan.seqGroup) {i : Nat}
    (hself : t.ringSelf o.plan.plan o.plan.seqGroup = some i) (hreach : ringReach o.plan t = true) :
    let u := admitStream q.payload o t
    runOpen q s = (none, passAdmit o.plan.plan o.plan.seqGroup 0 (BitVec.ofNat 16 o.id) u.eth.devAddr 0 u.img.id
      { u with kl := { u.kl with waits := u.kl.waits ++ [⟨o.id, q⟩] } }) := by
  rw [runOpen, if_neg (by simp [hlen, harg]), h]
  dsimp only
  rw [if_neg (Nat.not_le.2 hring), if_neg (by simp [hself, hreach])]
  rfl

end runOpen

/-- Settles O16: the decision is refused, accepted, or put to the ring, and each is answered in its own way. -/
theorem streamOpenIsDecidedAndAnswered : Obligations.StreamOpenIsDecidedAndAnswered := by
  unfold Obligations.StreamOpenIsDecidedAndAnswered
  intro q s hq hlen harg b pos reply
  refine ⟨fun x t hdec => ⟨fun hnot => ?_, fun hcode => ?_, fun hcode => ?_⟩,
    fun o t hdec => ⟨fun hone => ?_, fun hring hout => ?_, fun i hring hself hreach => ?_⟩⟩
  · rw [← decideOpen_state_of_not_restores hnot (s.counted q), hdec]
  · rw [exec_streamOpen_answered hq (runOpen_refused hlen harg hdec), refuseOpen]
    dsimp only
    rw [if_neg hcode]
    rfl
  · rw [exec_streamOpen_answered hq (runOpen_refused hlen harg hdec), refuseOpen]
    dsimp only
    rw [if_pos hcode]
    rfl
  · exact exec_streamOpen_answered hq (runOpen_accepted hlen harg hdec hone)
  · exact exec_streamOpen_answered hq (runOpen_unreached hlen harg hdec hring hout)
  · exact exec_streamOpen_waits hq (runOpen_ring hlen harg hdec hring hself hreach)

end Sys2Proof.Machine
end

section
/-! The obligations of the security services (R392 to R409): bars, the Crypto Officer, keys, floors, zeroisation. -/

namespace Sys2Proof.Machine

/-! ## Services -/

/-- Settles O19: every service of the table asks `serviceBarred` before its own form and effect. -/
theorem barredServiceChangesNothing : Obligations.BarredServiceChangesNothing := by
  unfold Obligations.BarredServiceChangesNothing
  intro c typ who zeroised q y s hc hq hbarred
  cases c <;> simp only [Instr.service?, Option.some.injEq, reduceCtorEq, Prod.mk.injEq] at hc
  all_goals
    obtain ⟨rfl, rfl, rfl, rfl⟩ := hc
    exact service_barred hq hbarred

/-- A service that is not barred but malformed is answered PAYLOAD (R334). -/
theorem exec_service_malformed {i : Instr} {typ : Byte} {who : Who} {z form : Bool} {q : Req}
    {f : State → Reply × State} {s : State} (e : exec i s = service typ who z form q f s) (hq : s.executes q = true)
    (hb : serviceBarred who false z q (s.counted q) = none) (hform : form = false) :
    exec i s = .next (State.settle (answer typ q (.err 5 0 0) (s.counted q))) := by
  rw [e, service, done, serve_executes hq, hb, hform]
  rfl

/-! ## What the tests of a use leave -/

/-- A test that fails touches MODE, ERR_CODE, the ERROR flag, an event and a source of its own (R395, R409). -/
theorem endTests_lifecycle (codes : List (BitVec 8)) (fails : Option Nat) (s : State) :
    (endTests codes fails s).sec.lifecycle = s.sec.lifecycle := by
  unfold endTests
  split <;> rfl

@[simp] theorem useTest_lifecycle (codes : List (BitVec 8)) (s : State) :
    (useTest codes s).sec.lifecycle = s.sec.lifecycle := endTests_lifecycle ..

@[simp] theorem State.counted_tl (q : Req) (s : State) : (s.counted q).tl = s.tl := by simp [State.counted]

/-! ## The Crypto Officer -/

theorem officerForm {q : Req} (hlen : q.payload.length = 104) (harg : q.arg = 0) (hcred : field q.payload 0 1 ≤ 3) :
    (q.payload.length == 104 && q.arg == 0 && decide (field q.payload 0 1 ≤ 3)) = true := by
  simp [hlen, harg, hcred]

/-- The count of a failure when no lockout stands (R399, R400). -/
theorem authFailed_of_unlocked (i cred : Nat) {s : State} (h : s.sec.lockout = false) :
    authFailed i cred s = fire 8 (record 0x0903 (BitVec.ofNat 32 i) (BitVec.ofNat 32 cred)
      ((satInc s.sec.failRun).setWidth 32) (lo32 s.tl.pos) { s with sec := { s.sec with
        failTotal := satInc s.sec.failTotal, failRun := satInc s.sec.failRun, authFail := true
        lockout := decide (7 ≤ s.sec.failRun.toNat) } }) := by
  have hlock : (s.sec.lockout || decide (8 ≤ s.sec.failRun.toNat + 1)) = decide (7 ≤ s.sec.failRun.toNat) := by
    rw [h, Bool.false_or, decide_eq_decide]
    omega
  rw [← hlock]
  rfl

/-- The first credential makes the module SECURE and draws its profile key (R392, R394). -/
theorem enrol_first (cred : Nat) (key : BitVec 768) {s : State} (h : s.sec.lifecycle = .provisioning) :
    let v := (takeDraw s).2
    enrol cred key s = record 0x0908 (BitVec.ofNat 32 cred) 1 1 0 (useTest storeTests { v with sec := { v.sec with
      creds := cput 0 cred key v.sec.creds, lifecycle := .secure, profileKey := some (Config.profileKey s.sec.drbg) } }) := by
  rw [enrol, h]
  rfl

theorem enrol_further (cred : Nat) (key : BitVec 768) {s : State} (h : s.sec.lifecycle = .secure) :
    enrol cred key s = record 0x0908 (BitVec.ofNat 32 cred) 1 1 0
      (useTest storeTests { s with sec := { s.sec with creds := cput 0 cred key s.sec.creds } }) := by
  rw [enrol]
  dsimp only
  rw [h]
  rfl

/-- A removed credential's event names the LIFECYCLE, which the test of the key store leaves (R402). -/
theorem unenrol_removed (cred : Nat) {s : State} (hne : cput 0 cred 0 s.sec.creds ≠ s.sec.creds)
    (hleft : cput 0 cred 0 s.sec.creds ≠ []) (h : s.sec.lifecycle = .secure) :
    unenrol cred s = (.ok [], record 0x0908 (BitVec.ofNat 32 cred) 2 1 0
      (useTest storeTests { s with sec := { s.sec with creds := cput 0 cred 0 s.sec.creds } })) := by
  rw [unenrol]
  dsimp only
  rw [if_neg hne, if_neg (by simpa using hleft), useTest_lifecycle, State.modSec]
  dsimp only
  rw [h]
  rfl

theorem exec_coEnrol_of_form {q : Req} {s t : State} {y : Reply} (hq : s.executes q = true) (hlen : q.payload.length = 104)
    (harg : q.arg = 0) (hcred : field q.payload 0 1 ≤ 3) (hb : serviceBarred .any false false q (s.counted q) = none)
    (hco : (s.counted q).sec.lifecycle = .secure → ((s.counted q).sess q.session.toNat).co = true)
    (h : (if pairAt q.payload 8 = 0 then unenrol (field q.payload 0 1) (s.counted q)
      else (.ok [], enrol (field q.payload 0 1) (pairAt q.payload 8) (s.counted q))) = (y, t)) :
    exec (.coEnrol q) s = .next (State.settle (answer 0x62 q y t)) := by
  have hallowed : ¬ ((s.counted q).sec.lifecycle == .secure && !((s.counted q).sess q.session.toNat).co) = true := by
    simpa using hco
  refine exec_service rfl hq hb (officerForm hlen harg hcred) ?_
  dsimp only
  rw [if_neg hallowed, h]

/-- Settles O20: the services of R399 to R402 on their own branches. -/
theorem officerServicesTakeEffect : Obligations.OfficerServicesTakeEffect := by
  unfold Obligations.OfficerServicesTakeEffect
  refine ⟨fun q s hq hpay harg hb => ?_, fun q s hq hlen harg hcred hb => ?_, fun s => exec_done rfl rfl,
    fun q s hq hlen harg hcred hb => ⟨fun hsec hco => ?_, fun hprov hkey => ?_,
      fun hsec hco hkey => ?_, fun hsec hco hkey => ⟨fun hsame => ?_, fun hne hlast => ?_, fun hne hleft => ?_⟩⟩⟩
  · exact exec_service rfl hq hb (by simp [hpay, harg]) rfl
  · intro u i v
    refine ⟨fun hlock => exec_service rfl hq hb (officerForm hlen harg hcred) (if_pos hlock), fun hlock => ?_⟩
    intro w
    have hopen : ¬ u.sec.lockout = true := by rw [hlock]; exact Bool.false_ne_true
    split
    · next hok =>
      refine exec_service rfl hq hb (officerForm hlen harg hcred) ?_
      dsimp only
      rw [if_neg hopen, if_pos hok, show s.tl = w.tl by simp [w, v, u]]
      rfl
    · next hbad =>
      refine exec_service rfl hq hb (officerForm hlen harg hcred) ?_
      dsimp only
      rw [if_neg hopen, if_neg hbad, authFailed_of_unlocked _ _ (by simpa [u] using hlock), show s.tl = v.tl by simp [v, u]]
      rfl
  · exact exec_service rfl hq hb (officerForm hlen harg hcred) (if_pos (by simp [hsec, hco]))
  · exact exec_coEnrol_of_form hq hlen harg hcred hb (by simp [hprov]) (by rw [if_neg hkey, enrol_first _ _ hprov])
  · exact exec_coEnrol_of_form hq hlen harg hcred hb (fun _ => hco) (by rw [if_neg hkey, enrol_further _ _ hsec])
  · exact exec_coEnrol_of_form hq hlen harg hcred hb (fun _ => hco) (by rw [if_pos hkey]; exact if_pos hsame)
  · exact exec_coEnrol_of_form hq hlen harg hcred hb (fun _ => hco) (by
      rw [if_pos hkey, unenrol]
      dsimp only
      rw [if_neg hne, if_pos (by simpa using hlast)]
      rfl)
  · exact exec_coEnrol_of_form hq hlen harg hcred hb (fun _ => hco) (by rw [if_pos hkey, unenrol_removed _ hne hleft hsec])

/-! ## Reports and draws -/

/-- Settles O21: the four services on a well-formed request that is not barred. -/
theorem reportsAndDrawsAreAnswered : Obligations.ReportsAndDrawsAreAnswered := by
  unfold Obligations.ReportsAndDrawsAreAnswered
  refine ⟨fun q s hq hlen harg hb => ?_, fun q s hq hlen hlow hhigh hb => ?_, fun q s hq hpay harg hb => ?_,
    fun q s hq hpay hlow hhigh hb => ?_⟩
  · exact exec_service rfl hq hb (by simp [hlen, harg]) rfl
  · exact exec_service rfl hq hb (by simp [hlen, hlow, hhigh]) rfl
  · exact exec_service rfl hq hb (by simp [hpay, harg]) rfl
  · exact exec_service rfl hq hb (by simp [hpay, hlow, hhigh]) rfl

/-! ## Keys -/

/-- Settles O22: keys go where they belong, and what does not unwrap or names no key is refused. -/
theorem keyServicesTakeEffect : Obligations.KeyServicesTakeEffect := by
  unfold Obligations.KeyServicesTakeEffect
  refine ⟨fun q s hq hlen harg hb => ?_, fun q s hq hform hb => ⟨fun huse => ?_, fun huse => ?_⟩,
    fun q s hq hlen harg hcred hb => ?_, fun q s hq hlen harg hb => ?_⟩
  · exact exec_service rfl hq hb (by simp [hlen, harg]) rfl
  · exact exec_service rfl hq hb hform (if_pos huse)
  · have hfree : ¬ saInUse (field q.payload 0 1) (field q.payload 1 1) (field q.payload 2 1)
        (s.counted q).eth.macsec = true := by
      rw [huse]
      exact Bool.false_ne_true
    split
    · next hkey =>
      refine exec_service rfl hq hb hform ?_
      dsimp only
      rw [if_neg hfree, hkey]
      rfl
    · next key hkey =>
      refine exec_service rfl hq hb hform ?_
      dsimp only
      rw [if_neg hfree, hkey]
  · have hform : (q.payload.length == 8 && q.arg == 0 && decide (field q.payload 0 1 ≤ 3)) = true := by
      simp [hlen, harg, hcred]
    have hwide (h : 2 ^ 30 ≤ field q.payload 4 4) : decide (field q.payload 4 4 < 2 ^ 30) = false :=
      decide_eq_false (Nat.not_lt.2 h)
    refine ⟨fun hwindow => ?_, fun hwindow hkey => ?_, fun hkey => ?_⟩
    · exact exec_service_malformed rfl hq hb (by rw [hwide hwindow, Bool.and_false])
    · exact exec_service rfl hq hb (by rw [hform, decide_eq_true hwindow]; rfl) (if_neg (by rw [hkey]; exact Bool.false_ne_true))
    · by_cases hwindow : field q.payload 4 4 < 2 ^ 30
      · exact exec_service rfl hq hb (by rw [hform, decide_eq_true hwindow]; rfl) (if_pos (by rw [hkey]; rfl))
      · exact exec_service_malformed rfl hq hb (by rw [hwide (Nat.not_lt.1 hwindow), Bool.and_false])
  · have hform : (q.payload.length == 40 && q.arg == 0) = true := by simp [hlen, harg]
    intro u
    split
    · next hkey =>
      refine exec_service rfl hq hb hform ?_
      rw [hkey]
      rfl
    · next key hkey =>
      refine exec_service rfl hq hb hform ?_
      rw [hkey]
      rfl

/-! ## Floors, revocation, firmware -/

/-- The fields of KEY_REVOKE's ARG (R396, R401). -/
theorem revokeArg {q : Req} {fw : Bool} {slot : Nat} (hslot : slot < 8) (harg : q.arg.toNat = 256 * slot + fw.toNat) :
    q.arg.toNat / 256 = slot ∧ (q.arg.toNat % 2 = 1 ↔ fw = true) ∧ q.arg.toNat / 2 % 128 = 0 ∧ q.arg.toNat < 2048 := by
  have hbit := Bool.toNat_lt fw
  rw [harg, ← Bool.toNat_eq_one]
  refine ⟨?_, ?_, ?_, ?_⟩ <;> omega

/-- Settles O23: a floor rises or is refused, a slot is revoked unless it is the last, and the other copy is written. -/
theorem floorsRevocationAndFirmware : Obligations.FloorsRevocationAndFirmware := by
  unfold Obligations.FloorsRevocationAndFirmware
  refine ⟨fun q s hq hpay harg hb => ⟨fun hle => ?_, fun hlt => ?_⟩, fun q s hq hpay harg hb => ⟨fun hle => ?_, fun hlt => ?_⟩,
    fun q fw slot s hq hpay hslot harg hb => ?_, fun q s hq hlow hhigh hmod hb => ?_⟩
  · have hfw : ¬ q.arg = 1 := by rw [harg]; decide
    exact exec_service rfl hq hb (by simp [hpay, harg]) (by simp only [if_neg hfw, if_pos hle, refusedFor])
  · have hfw : ¬ q.arg = 1 := by rw [harg]; decide
    exact exec_service rfl hq hb (by simp [hpay, harg]) (by simp only [if_neg hfw, if_neg (Nat.not_le.2 hlt)]; rfl)
  · exact exec_service rfl hq hb (by simp [hpay, harg]) (by simp only [if_pos harg, if_pos hle, refusedFor])
  · exact exec_service rfl hq hb (by simp [hpay, harg]) (by simp only [if_pos harg, if_neg (Nat.not_le.2 hlt)]; rfl)
  · obtain ⟨hdiv, hfw, hmid, hsmall⟩ := revokeArg hslot harg
    have hform : (q.payload.isEmpty && q.arg.toNat / 2 % 128 == 0 && decide (q.arg.toNat < 2048)) = true := by
      simp [hpay, hmid, hsmall]
    intro u old new
    refine ⟨fun hsame => exec_service rfl hq hb hform ?_, fun hne hlast => exec_service rfl hq hb hform ?_,
      fun hne hleft => exec_service rfl hq hb hform ?_⟩
    all_goals simp only [hdiv, hfw]
    · exact if_pos hsame
    · exact (if_neg hne).trans (if_pos hlast)
    · refine (if_neg hne).trans ((if_neg hleft).trans ?_)
      cases fw <;> rfl
  · exact exec_service rfl hq hb (by simp [hlow, hhigh, hmod]) rfl

/-! ## Zeroisation -/

/-- The code and the rights of SEC_ZEROISE: the SMBus port's, or a Crypto Officer's (R406, R410). -/
theorem writeZeroise_eq (r : Nat) (v : W32) (s : State) : writeZeroise r v s =
    if v = 0x5A45524F ∧ (r = 8 ∨ (s.sess r).co = true) then zeroise (if r = 8 then 0xFF else r) s else secErr s := by
  simp only [writeZeroise, Bool.and_eq_true, decide_eq_true_eq, Bool.or_eq_true, beq_iff_eq]

/-- No session keeps a key-encryption key (R406 step 2). -/
theorem kek_zeroise (source i : Nat) (s : State) (h : canonical {} s.sessions = true) :
    ((zeroise source s).sess i).kek = none := by
  have kept (u : State) (hu : canonical {} u.sessions = true) :
      ((fire 8 { u with sessions := cmap {} (fun _ x => { x with kek := none }) u.sessions }).sess i).kek = none := by
    have hint := sess_fire_withoutInt 8 i { u with sessions := cmap {} (fun _ x => { x with kek := none }) u.sessions }
      (canonical_cmap (fun _ x => { x with kek := none }) _ hu)
    have hkek := congrArg Session.kek hint
    dsimp only at hkek
    rw [hkek]
    exact congrArg Session.kek (cget_cmap (fun _ x => { x with kek := none }) _ i hu rfl)
  exact kept _ ((each_keeps (each_keeps (Keeps.refl s) fun _ _ => abortStream_keeps (Keeps.refl _) ..)
    fun _ _ => fetchFailed_keeps (Keeps.refl _) _).sess h)

/-- Settles O24: what `zeroise` leaves of each key, who may ask for it, and what its wipe empties. -/
theorem zeroiseTakesEveryKey : Obligations.ZeroiseTakesEveryKey := by
  unfold Obligations.ZeroiseTakesEveryKey
  refine ⟨fun q s hq hpay harg hco => ?_, fun r v s hacts => ⟨fun hgood => ?_, fun hbad => ?_⟩,
    fun source s => ⟨rfl, rfl, rfl, rfl, rfl, rfl, rfl, rfl⟩, fun source i s htidy => ?_, fun s hwiping => ?_⟩
  · have hallowed : serviceBarred .co true true q (s.counted q) = none := by
      rw [serviceBarred]
      exact if_pos hco
    have hform : ¬ (!q.payload.isEmpty || q.arg ≠ 0) = true := by simp [hpay, harg]
    rw [exec_zeroise, execZeroise, done, serveOpt_executes hq, hallowed]
    dsimp only
    rw [if_neg hform]
  · exact exec_byReader (exec_secZeroise r v s) hacts ((writeZeroise_eq r v s).trans (if_pos hgood))
  · exact exec_byReader (exec_secZeroise r v s) hacts ((writeZeroise_eq r v s).trans (if_neg hbad))
  · obtain ⟨_, hsess, _⟩ := htidy
    exact kek_zeroise source i s hsess
  · rw [exec_zeroiseWipeComplete, execZeroiseWipeComplete, hwiping]
    rfl

end Sys2Proof.Machine
end

section
/-! The obligations of the Ethernet port (R327 to R329, R338, R344 to R347, R371): neighbours, frames, link, PTP master. -/

namespace Sys2Proof.Machine

/-! ## Frames of the port -/

/-- A frame under MACsec that its channel or its check bars (R345). -/
theorem exec_macsecDrop_barred {sc an : Nat} {isProtected icvOk : Bool} {pn : Nat} {s : State} (hrec : s.receives = true)
    (hen : s.eth.macsec.en = true)
    (hbar : isProtected = false ∨ icvOk = false ∨ s.eth.macsec.rxEnable.getLsbD sc = false) :
    exec (.macsecDrop sc an isProtected icvOk pn) s =
      .next (State.settle (s.modMacsec fun m => { m with drop := satInc m.drop })) := by
  have hbarred : (!isProtected || !icvOk || !s.eth.macsec.rxEnable.getLsbD sc || s.sec.mode == .error) = true := by
    rcases hbar with h | h | h <;> simp [h]
  rw [exec_macsecDrop, execMacsecDrop, hrec, hen]
  exact (if_pos hbarred).trans (done_def _)

/-- A frame that passes moves its association's packet number on (R345). -/
theorem exec_macsecDrop_passes {sc an k pn : Nat} {a : Assoc} {s : State} (hrec : s.receives = true)
    (hen : s.eth.macsec.en = true) (hmode : s.sec.mode ≠ .error) (hon : s.eth.macsec.rxEnable.getLsbD sc = true)
    (hassoc : s.eth.macsec.rx.find? (·.1 = sc * 4 + an) = some (k, a)) (hwindow : a.pn ≤ pn + s.eth.macsec.window.toNat) :
    exec (.macsecDrop sc an true true pn) s =
      .next (State.settle (s.modMacsec fun m => { m with rx := cput {} k { a with pn := max a.pn (pn + 1) } m.rx })) := by
  have hclear : ¬ (!true || !true || !s.eth.macsec.rxEnable.getLsbD sc || s.sec.mode == .error) = true := by simp [hon, hmode]
  rw [exec_macsecDrop, execMacsecDrop, hrec, hen]
  refine (if_neg hclear).trans ?_
  rw [hassoc]
  exact (if_neg (Nat.not_lt.2 hwindow)).trans (done_def _)

/-- An entry in use with an on-link unicast address that the entry itself does not give (R338). -/
theorem onLink_entry {e : BitVec 512} (hkind : destKind e ≠ 0) (hmac : destField e 40 6 = 0) (huni : destMulticast e = false) :
    ¬ (destKind e = 0 || destField e 40 6 ≠ 0 || destMulticast e) = true := by
  simp [hkind, hmac, huni]

/-- Settles O26: each frame on the branch that its addresses, port and protection choose. -/
theorem neighbourFramesAreAnswered : Obligations.NeighbourFramesAreAnswered := by
  unfold Obligations.NeighbourFramesAreAnswered
  refine ⟨fun mac ip target s hrec hset => ⟨fun hours => ?_, fun hother => ?_⟩, fun source target s hrec hours => ?_,
    fun source dest v6 data s hrec hours => ?_, fun port s hrec hst hevent hgeneral => ?_,
    fun sc an isProtected icvOk pn s hrec hen hbar => exec_macsecDrop_barred hrec hen hbar,
    fun sc an k pn a s hrec hen hmode hon hassoc hwindow => exec_macsecDrop_passes hrec hen hmode hon hassoc hwindow,
    fun entry mac s hkind hmac huni => ⟨?_, ?_⟩, fun v6 query s hgroup hdue => ?_⟩
  · exact exec_done (if_pos (by rw [hrec, decide_eq_true hset, decide_eq_true hours]; rfl)) rfl
  · exact if_neg (by rw [decide_eq_false hother, Bool.and_false]; exact Bool.false_ne_true)
  · exact exec_done (if_pos (by rw [hrec, hours]; rfl)) rfl
  · have hforUs : (if v6 then s.ownsV6 dest else s.eth.ip4 ≠ 0 && dest = s.eth.ip4.setWidth 128) = true := by
      cases v6
      · simpa using hours
      · exact hours
    exact exec_done (if_pos (by rw [hrec]; exact hforUs)) rfl
  · exact exec_done (if_pos (by
      rw [hrec, decide_eq_true hst, decide_eq_true hevent, decide_eq_true hgeneral]
      rfl)) rfl
  · exact exec_done (if_neg (onLink_entry hkind hmac huni)) rfl
  · exact exec_done (if_neg (onLink_entry hkind hmac huni)) rfl
  · have hdue' : (if query then s.receives else !s.pwr.inReset && s.pwr.state != .shutdown && s.eth.ptpState != .faulty) = true := by
      cases query
      · simpa [and_assoc] using hdue
      · exact hdue
    have hjoined : v6 = (s.eth.ptpV6 && decide (s.eth.ptpProf ≠ 1)) :=
      hgroup.trans (congrArg (s.eth.ptpV6 && ·) (by rw [bne, Bool.beq_eq_decide_eq]; exact decide_not.symm))
    exact exec_done (if_pos (by
      rw [hdue', ← hjoined]
      exact (Bool.and_true _).trans (beq_self_eq_true _))) rfl

/-! ## The link, the device address and the PTP master -/

/-- The port after its link came up (R328, R347, R348). -/
def State.linkUp (s : State) (rate800 : Bool) : State :=
  fire 5 (record 0x0601 (if rate800 then 1 else 0) (lo32 s.tl.pos) (hi32 s.tl.pos) 0
    { s with eth := { s.eth with
      up := true, rate800 := rate800
      ptpState := if s.eth.ptpState == .initializing then .listening else s.eth.ptpState } })

section linkUp

variable {at16 : Bool} {fails : Nat} {s : State} (hdown : s.eth.up = false) (hen : s.eth.linkEn = true)
  (hreset : s.pwr.inReset = false) (hstate : s.pwr.state ≠ .shutdown) (hstage : 2 ≤ s.pwr.stage.toNat)
include hdown hen hreset hstate hstage

/-- A link that trained comes up where it is enabled and the main domain runs past boot's first stages (R328, R432). -/
theorem ethLinkUp_bar_iff : (s.eth.up || !s.eth.linkEn || (s.eth.speed = 1 && !at16) || s.pwr.inReset ||
    s.pwr.state == .shutdown || s.pwr.stage.toNat < 2) = (decide (s.eth.speed = 1) && !at16) := by
  rw [hdown, hen, hreset, beq_false_of_ne hstate, decide_eq_false (Nat.not_lt.2 hstage)]
  simp

/-- The speed of a link that comes up, and event 0x0603 where trainings at 1.6 Tb/s failed three times (R328). -/
theorem exec_ethLinkUp_comes {auto rate : Bool} (hspeed : (decide (s.eth.speed = 1) && !at16) = false)
    (hauto : (decide (s.eth.speed = 0) || decide (s.eth.speed = 3)) = auto)
    (hrate : (if auto then !at16 || decide (3 ≤ fails) else decide (s.eth.speed = 2)) = rate) :
    exec (.ethLinkUp at16 fails) s = .next (State.settle
      (if auto && decide (3 ≤ fails) then fire 5 (record 0x0603 (BitVec.ofNat 32 fails) 0 0 0 (s.linkUp rate))
      else s.linkUp rate)) := by
  rw [exec_ethLinkUp, execEthLinkUp]
  dsimp only
  rw [ethLinkUp_bar_iff hdown hen hreset hstate hstage, hspeed, hauto, hrate]
  exact done_def _

theorem exec_ethLinkUp_barred (hspeed : s.eth.speed = 1) (hslow : at16 = false) : exec (.ethLinkUp at16 fails) s = .next s := by
  rw [exec_ethLinkUp, execEthLinkUp]
  dsimp only
  rw [ethLinkUp_bar_iff hdown hen hreset hstate hstage, hspeed, hslow]
  rfl

end linkUp

/-- A selection of a master: event 0x0604, and the timeline waits for its updates (R344, R348). -/
theorem exec_ptpAnnounce_selects {a : Announce} {s : State} (hrec : s.receives = true) (hdomain : a.domain = s.eth.ptpDomain)
    (hrun : s.eth.ptpState ≠ .faulty) (hbetter : ∀ m, s.eth.master = some m →
      m.identity ≠ a.identity ∧ keyBefore (announceKey a) (announceKey m) = true) :
    exec (.ptpAnnounce a) s = .next (State.settle
      (fire 5 (record 0x0604 (BitVec.ofNat 32 a.identity.toNat) (BitVec.ofNat 32 (a.identity.toNat / 2 ^ 32))
        (s.eth.ptpDomain.setWidth 32) (a.steps.setWidth 32)
        { s with eth := { s.eth with master := some a, ptpState := .uncalibrated } }))) := by
  have htaken : ¬ (!s.receives || a.domain ≠ s.eth.ptpDomain || s.eth.ptpState == .faulty) = true := by
    simp [hrec, hdomain, hrun]
  rw [exec_ptpAnnounce, execPtpAnnounce]
  refine (if_neg htaken).trans ?_
  cases hmaster : s.eth.master with
  | none => exact done_def _
  | some m =>
    obtain ⟨hother, hfirst⟩ := hbetter m hmaster
    exact (if_neg hother).trans ((if_pos hfirst).trans (done_def _))

/-- An Announce of the present master, or of one that is no better (R344). -/
theorem exec_ptpAnnounce_known {a m : Announce} {s : State} (hrec : s.receives = true) (hdomain : a.domain = s.eth.ptpDomain)
    (hrun : s.eth.ptpState ≠ .faulty) (hmaster : s.eth.master = some m) :
    (m.identity = a.identity → exec (.ptpAnnounce a) s =
      .next (State.settle { s with eth := { s.eth with master := some a } })) ∧
    (m.identity ≠ a.identity → keyBefore (announceKey a) (announceKey m) = false →
      exec (.ptpAnnounce a) s = .next s) := by
  have htaken : ¬ (!s.receives || a.domain ≠ s.eth.ptpDomain || s.eth.ptpState == .faulty) = true := by
    simp [hrec, hdomain, hrun]
  rw [exec_ptpAnnounce, execPtpAnnounce]
  refine ⟨fun hsame => (if_neg htaken).trans ?_, fun hother hworse => (if_neg htaken).trans ?_⟩
  · rw [hmaster]
    exact (if_pos hsame).trans (done_def _)
  · rw [hmaster]
    exact (if_neg hother).trans (if_neg (by rw [hworse]; exact Bool.false_ne_true))

/-- An address that no UP peer is told of is only set (R371). -/
theorem each_unchanged {α : Type} {s : State} {l : List α} {f : State → α → State} (h : ∀ a ∈ l, f s a = s) : s.each l f = s := by
  rw [State.each]
  induction l with
  | nil => rfl
  | cons a l ih =>
    rw [List.foldl_cons, h a (List.mem_cons_self ..)]
    exact ih fun b hb => h b (List.mem_cons_of_mem a hb)

/-- Settles O27: the link by `exec_ethLinkUp_comes`, the address, and the engine by the branches of its best-master choice. -/
theorem portLinkAndMasterComeAndGo : Obligations.PortLinkAndMasterComeAndGo := by
  unfold Obligations.PortLinkAndMasterComeAndGo
  refine ⟨fun at16 fails s hdown hen hreset hstate hstage => ⟨fun hspeed hfast => ?_, fun hspeed hslow => ?_,
      fun hspeed => ?_, fun hspeed => ?_⟩, fun s => ⟨fun hdown => ?_, fun hup => ?_⟩,
    fun r v s hacts => ⟨fun hall => ?_, fun hne => ?_⟩, fun a s hrec hdomain hrun hbetter => ?_,
    fun a m s hrec hdomain hrun hmaster => exec_ptpAnnounce_known hrec hdomain hrun hmaster, fun s hmaster => ?_,
    fun r v s hacts => exec_byReader (exec_ethPtpCfg r v s) hacts rfl⟩
  · exact exec_ethLinkUp_comes (auto := false) (rate := false) hdown hen hreset hstate hstage
      (by rw [hfast, Bool.not_true, Bool.and_false]) (by rw [hspeed]; rfl) (by rw [hspeed]; rfl)
  · exact exec_ethLinkUp_barred hdown hen hreset hstate hstage hspeed hslow
  · exact exec_ethLinkUp_comes (auto := false) (rate := true) hdown hen hreset hstate hstage
      (by rw [hspeed]; rfl) (by rw [hspeed]; rfl) (by rw [hspeed]; rfl)
  · have hauto : (decide (s.eth.speed = 0) || decide (s.eth.speed = 3)) = true := by
      rcases hspeed with h | h <;> rw [h] <;> rfl
    have hfree : (decide (s.eth.speed = 1) && !at16) = false := by
      rcases hspeed with h | h <;> rw [h] <;> rfl
    refine ⟨fun hfew => ?_, fun hmany => ?_⟩
    · have hno : decide (3 ≤ fails) = false := decide_eq_false (Nat.not_le.2 hfew)
      rw [exec_ethLinkUp_comes (rate := !at16) hdown hen hreset hstate hstage hfree hauto
        (by rw [hno, Bool.or_false]; rfl), hno]
      rfl
    · have hyes : decide (3 ≤ fails) = true := decide_eq_true hmany
      rw [exec_ethLinkUp_comes (rate := true) hdown hen hreset hstate hstage hfree hauto
        (by rw [hyes, Bool.or_true]; rfl), hyes]
      rfl
  · exact exec_done rfl (if_pos (by rw [hdown]; rfl))
  · exact exec_done rfl (if_neg (by rw [hup]; exact Bool.false_ne_true))
  · exact exec_byReader (exec_ethDevAddr r v s) hacts (if_pos hall)
  · intro u
    have hset : writeDevAddr v s = u.each (List.range 7) fun s k =>
      if (s.klink k).state == .up then queueSignals k [signalRecord 4 0 ((v.setWidth 16 : W16).setWidth 32)] s else s := if_neg hne
    refine ⟨exec_byReader (exec_ethDevAddr r v s) hacts hset, fun hnone => exec_byReader (exec_ethDevAddr r v s) hacts ?_⟩
    rw [hset]
    refine each_unchanged fun k hk => if_neg ?_
    rw [beq_iff_eq]
    exact hnone k (List.mem_range.1 hk)
  · refine exec_ptpAnnounce_selects hrec hdomain hrun fun m hm => ?_
    rw [hm] at hbetter
    exact hbetter
  · exact exec_done (if_pos hmaster) rfl

end Sys2Proof.Machine
end

section
/-! The obligations of the media timeline (R205 to R228). -/

namespace Sys2Proof.Machine

/-- Equal states give equal results. -/
theorem next_settle {s t : State} (h : s = t) : (.next s.settle : Result) = .next t.settle := by rw [h]

/-! ## Increments -/

/-- The guard of an increment that is due (R209). -/
theorem exec_tlIncrement_due {tau cc : Nat} {pin : Bool} {s : State} (hdue : incrementDue tau s = true) (t : State)
    (ht : (let u := s.modTl fun t => { t with tau := tau, wclkDue := false, loadPending := false }
      if s.tl.loadPending then
        let u := jumpTo u.tl.loadPos 2 u
        if u.tl.src = 0 then u.modTl fun t => { t with tau := edgeOf t.pos.toNat } else u
      else u.modTl fun t => { t with pos := t.pos + 1 }) = t) :
    exec (.tlIncrement tau pin cc) s = .next (State.settle (reachPosition cc pin t)) := by
  have hguard : ¬ (!incrementDue tau s) = true := by rw [hdue]; exact Bool.false_ne_true
  rw [← ht]
  exact exec_done (if_neg hguard) rfl

/-- Settles O28: an increment by one, or the jump of a pending LOAD. -/
theorem incrementMovesTheTimelineByOne : Obligations.IncrementMovesTheTimelineByOne := by
  unfold Obligations.IncrementMovesTheTimelineByOne
  intro tau cc pin s
  refine ⟨fun hnot => if_pos (by rw [hnot]; rfl), fun hdue hnone => ?_, fun hdue hload => ⟨fun hsrc => ?_, fun hsrc => ?_⟩⟩
  · exact exec_tlIncrement_due hdue _ (if_neg (by rw [hnone]; exact Bool.false_ne_true))
  · exact exec_tlIncrement_due hdue _ ((if_pos hload).trans (if_neg hsrc))
  · exact exec_tlIncrement_due hdue _ ((if_pos hload).trans (if_pos hsrc))

/-! ## Statistics periods -/

/-- A fold of updates that leave a component of the state alone leaves it alone. -/
theorem each_field {α β : Type} (π : State → β) {f : State → α → State} {l : List α} {s : State}
    (h : ∀ s a, π (f s a) = π s) : π (s.each l f) = π s := by
  rw [State.each]
  induction l generalizing s with
  | nil => rfl
  | cons a l ih => exact ih.trans (h s a)

@[simp] theorem latchPeriod_tl (cc : Nat) (s : State) : (latchPeriod cc s).tl = s.tl := by
  dsimp only [latchPeriod]
  exact each_field State.tl (by intro _ _; rfl)

@[simp] theorem latchPeriod_mem (cc : Nat) (s : State) : (latchPeriod cc s).mem = s.mem := by
  dsimp only [latchPeriod]
  exact each_field State.mem (by intro _ _; rfl)

@[simp] theorem latchPeriod_sessions (cc : Nat) (s : State) : (latchPeriod cc s).sessions = s.sessions := by
  dsimp only [latchPeriod]
  exact each_field State.sessions (by intro _ _; rfl)

@[simp] theorem latchPeriod_period (cc : Nat) (s : State) :
    (latchPeriod cc s).period = closePeriod cc s.tl.pos s.tl.state s.tl.src s.period := by
  dsimp only [latchPeriod]
  exact each_field State.period (by intro _ _; rfl)

@[simp] theorem latchPeriod_shadow (cc : Nat) (s : State) : (latchPeriod cc s).stats.shadow = s.stats.live := by
  dsimp only [latchPeriod]
  exact each_field (·.stats.shadow) (by intro _ _; rfl)

@[simp] theorem latchPeriod_live (cc : Nat) (s : State) : (latchPeriod cc s).stats.live = {} := by
  dsimp only [latchPeriod]
  exact each_field (·.stats.live) (by intro _ _; rfl)

/-- A position reached in HOLDOVER counts in the period that runs there (R226). -/
theorem reachBoundary_eq (cc : Nat) (s : State) : reachBoundary cc s =
    let u := if s.period.boundary s.pos then latchPeriod cc s else s
    if u.tl.state = .holdover then u.modPeriod fun p => { p with liveHold := satInc p.liveHold } else u := by
  simp only [reachBoundary, beq_iff_eq]

/-- What the registers show after a boundary (R221 to R223, R226, R455). -/
theorem reachBoundary_latches (cc : Nat) {s : State} (h : s.period.boundary s.pos = true) :
    let t := reachBoundary cc s
    t.period.seq = s.period.seq + 1 ∧ t.period.start = s.tl.pos ∧ t.period.hold = s.period.liveHold ∧
    t.period.liveHold = (if s.tl.state = .holdover then 1 else 0) ∧ t.period.lenWaits = false ∧
    (s.period.lenWaits = true → t.period.activeLen = s.period.len ∧ t.period.anchor = s.tl.pos) ∧
    (s.period.lenWaits = false → t.period.activeLen = s.period.activeLen ∧ t.period.anchor = s.period.anchor) ∧
    t.stats.shadow = s.stats.live ∧ t.stats.live = {} ∧ t.tl = s.tl ∧ t.mem = s.mem ∧ t.sessions = s.sessions := by
  have hone : satInc (0#32) = 1#32 := by decide
  rw [reachBoundary_eq, if_pos h]
  by_cases hhold : s.tl.state = .holdover <;> cases hwaits : s.period.lenWaits <;>
    simp [hhold, hwaits, hone, State.modPeriod, closePeriod]

/-- Settles O29: `reachBoundary_latches` at a boundary; the commands by their guards. -/
theorem periodsLatchAtTheirBoundaries : Obligations.PeriodsLatchAtTheirBoundaries := by
  unfold Obligations.PeriodsLatchAtTheirBoundaries
  refine ⟨fun cc s => ⟨fun hno => ⟨fun hstate => ?_, fun hstate => ?_⟩, reachBoundary_latches cc⟩, fun r v s hacts => ⟨fun hlen => ?_, fun hlen => ?_⟩,
    fun r s hacts => exec_tlPosLo_of_acts hacts, fun s => ⟨fun hnone => ?_, fun q rest hq => ?_⟩⟩
  · rw [reachBoundary_eq, hno]
    exact if_neg hstate
  · rw [reachBoundary_eq, hno]
    exact if_pos hstate
  · exact exec_byReader (exec_tlStatLen r v s) hacts (if_pos (by simpa using hlen))
  · exact exec_byReader (exec_tlStatLen r v s) hacts (if_neg (by simpa using hlen))
  · rw [exec_quantLatch, execQuantLatch, hnone]
  · rw [exec_quantLatch, execQuantLatch, hq]
    exact done_def _

/-! ## The servo, the word clock and their loss -/

/-- The clamp keeps a rate within its limit (R211). -/
theorem clampPpb_bounds {lim : Int} (h : 0 ≤ lim) (x : Int) : -lim ≤ clampPpb lim x ∧ clampPpb lim x ≤ lim := by
  rw [clampPpb]
  omega

/-- A rate within the widest limit that TL_SLEW can set reads back from its register. -/
theorem toInt_ofInt_rate {x : Int} (hlo : -1000000 ≤ x) (hhi : x ≤ 1000000) : (BitVec.ofInt 32 x).toInt = x := by
  rw [BitVec.toInt_ofInt]
  exact Int.bmod_eq_of_le (by omega) (by omega)

/-- What the timeline runs at under PTP (R211, R216). -/
theorem Timeline.rate_ptp {t : Timeline} (h : t.src = 1) : t.rate = BitVec.ofInt 32
    (if t.far then (if t.lead < 0 then -(t.ppm * 1000) else t.ppm * 1000) else clampPpb (t.ppm * 1000) t.freq.toInt) := by
  rw [Timeline.rate, h]
  rfl

theorem Timeline.ppm_bounds (t : Timeline) : 0 ≤ t.ppm ∧ t.ppm ≤ 1000 := by
  rw [Timeline.ppm]
  omega

/-- The rate under PTP is within the limit, and at it while FAR stands (R211, R216). -/
theorem Timeline.rate_bounds {t : Timeline} (h : t.src = 1) :
    -(t.ppm * 1000) ≤ t.rate.toInt ∧ t.rate.toInt ≤ t.ppm * 1000 ∧
    (t.far = true → t.rate.toInt.natAbs = (t.ppm * 1000).natAbs) := by
  obtain ⟨hnonneg, hmax⟩ := t.ppm_bounds
  obtain ⟨hlo, hhi⟩ := clampPpb_bounds (lim := t.ppm * 1000) (by omega) t.freq.toInt
  rw [Timeline.rate_ptp h]
  cases hfar : t.far
  · rw [if_neg Bool.false_ne_true, toInt_ofInt_rate (by omega) (by omega)]
    exact ⟨hlo, hhi, fun h => absurd h Bool.false_ne_true⟩
  · rw [if_pos rfl]
    split <;> rw [toInt_ofInt_rate (by omega) (by omega)] <;> omega

/-- HOLDOVER is entered with event 0x0610 (R213, R228). -/
theorem enterTl_holdover {s : State} (h : s.tl.state ≠ .holdover) (hsrc : s.tl.src ≠ 0) : enterTl .holdover s =
    fire 0 (record 0x0610 (s.tl.src.setWidth 32) (lo32 s.tl.pos) (hi32 s.tl.pos) 0 { s with
      tl := { s.tl with state := .holdover, lost := true }
      period := { s.period with liveHeld := true, liveUnlocked := true } }) := by
  have hlost (b : Bool) : (b || TlState.holdover == .holdover) = true := Bool.or_true b
  have hunlocked (b : Bool) : (b || (s.tl.src != 0 && TlState.holdover != .locked)) = true := by
    rw [bne_iff_ne.2 hsrc]
    exact Bool.or_true b
  rw [enterTl, if_neg (by rwa [beq_iff_eq])]
  dsimp only [State.modTl, State.modPeriod]
  rw [hlost, hlost, hunlocked]

/-- The timeline locks with event 0x0611 (R213, R228). -/
theorem enterTl_locked {s : State} (h : s.tl.state ≠ .locked) : enterTl .locked s =
    fire 0 (record 0x0611 (s.tl.src.setWidth 32) (lo32 s.tl.pos) (hi32 s.tl.pos) s.tl.offsetReg { s with
      tl := { s.tl with state := .locked } }) := by
  have hlost (b : Bool) : (b || TlState.locked == .holdover) = b := Bool.or_false b
  have hunlocked (b : Bool) : (b || (s.tl.src != 0 && TlState.locked != .locked)) = b :=
    (congrArg (b || ·) (Bool.and_false _)).trans (Bool.or_false b)
  rw [enterTl, if_neg (by rwa [beq_iff_eq])]
  dsimp only [State.modTl, State.modPeriod]
  rw [hlost, hlost, hunlocked]
  rfl

/-- The timeline waits for its source again (R213). -/
theorem enterTl_acquiring {s : State} (h : s.tl.state ≠ .acquiring) (hsrc : s.tl.src ≠ 0) : enterTl .acquiring s = { s with
    tl := { s.tl with state := .acquiring }, period := { s.period with liveUnlocked := true } } := by
  have hlost (b : Bool) : (b || TlState.acquiring == .holdover) = b := Bool.or_false b
  have hunlocked (b : Bool) : (b || (s.tl.src != 0 && TlState.acquiring != .locked)) = true := by
    rw [bne_iff_ne.2 hsrc]
    exact Bool.or_true b
  rw [enterTl, if_neg (by rwa [beq_iff_eq])]
  dsimp only [State.modTl, State.modPeriod]
  rw [hlost, hlost, hunlocked]

/-- A lost source takes a timeline that follows one into HOLDOVER (R213). -/
theorem loseSource_follows {s : State} (h : s.tl.state = .locked ∨ s.tl.state = .acquiring) (hsrc : s.tl.src ≠ 0) : loseSource s =
    fire 0 (record 0x0610 (s.tl.src.setWidth 32) (lo32 s.tl.pos) (hi32 s.tl.pos) 0 { s with
      tl := { s.tl with consec := 0, wclkDue := false, realign := false, state := .holdover, lost := true }
      period := { s.period with liveHeld := true, liveUnlocked := true } }) := by
  have hfollows : (s.tl.state == .locked || s.tl.state == .acquiring) = true := by simpa using h
  have hne : s.tl.state ≠ .holdover := by rcases h with h | h <;> rw [h] <;> decide
  rw [loseSource, if_pos hfollows]
  exact enterTl_holdover hne hsrc

theorem loseSource_idle {s : State} (h : s.tl.state = .holdover ∨ s.tl.state = .free) : loseSource s = s := by
  have hidle : ¬ (s.tl.state == .locked || s.tl.state == .acquiring) = true := by
    rcases h with h | h <;> rw [h] <;> decide
  rw [loseSource, if_neg hidle]

/-- A qualified edge counts, and the 48th in a row locks (R213). -/
def edgeCounts (s : State) : State :=
  let s := if s.tl.state == .holdover then enterTl .acquiring (s.modTl fun t => { t with consec := 0 }) else s
  let s := s.modTl fun t => { t with consec := t.consec + 1 }
  if s.tl.state == .acquiring && 48 ≤ s.tl.consec then enterTl .locked (s.modTl fun t => { t with realign := true }) else s

/-- While LOCKED an edge makes an increment due, unless one just came before a re-alignment (R213, R219). -/
def edgeDue (sinceInc : Nat) (s : State) : State :=
  if s.tl.state == .locked then
    if s.tl.realign && sinceInc < 20812 then s else s.modTl fun t => { t with wclkDue := true, realign := false }
  else s

theorem exec_wclkInEdge_qualified {since sinceInc : Nat} {s : State} (hsrc : s.tl.src = 2) (hlo : 20812 ≤ since)
    (hhi : since ≤ 20855) : exec (.wclkInEdge since sinceInc) s = .next (State.settle
      (edgeDue sinceInc (edgeCounts (s.modTl fun t => { t with periods := (since :: t.periods).take 48 })))) := by
  have hguard : ¬ (decide (s.tl.src ≠ 2) || decide (since < 20812)) = true := by
    rw [decide_eq_false (not_not_intro hsrc), decide_eq_false (Nat.not_lt.2 hlo)]
    exact Bool.false_ne_true
  exact exec_done ((if_neg hguard).trans (if_neg (Nat.not_lt.2 hhi))) rfl

section edges

variable {s : State}

/-- An edge that neither leaves HOLDOVER nor locks only counts (R213). -/
theorem edgeCounts_only (hhold : s.tl.state ≠ .holdover) (hfew : s.tl.state = .acquiring → s.tl.consec < 47) :
    edgeCounts s = s.modTl fun t => { t with consec := t.consec + 1 } := by
  have hno : ¬ (s.tl.state == .holdover) = true := by rwa [beq_iff_eq]
  rw [edgeCounts, if_neg hno]
  refine if_neg fun h => ?_
  rw [Bool.and_eq_true, beq_iff_eq, decide_eq_true_iff] at h
  exact absurd (Nat.succ_lt_succ (hfew h.1)) (Nat.not_lt.2 h.2)

/-- The 48th edge in a row locks (R213). -/
theorem edgeCounts_locks (hstate : s.tl.state = .acquiring) (hmany : 47 ≤ s.tl.consec) : edgeCounts s = enterTl .locked
    (s.modTl fun t => { t with consec := t.consec + 1, realign := true }) := by
  have hno : ¬ (s.tl.state == .holdover) = true := by rw [hstate]; decide
  rw [edgeCounts, if_neg hno]
  refine (if_pos ?_).trans rfl
  rw [Bool.and_eq_true, beq_iff_eq, decide_eq_true_iff]
  exact ⟨hstate, Nat.succ_le_succ hmany⟩

/-- The first edge after a loss starts the count anew (R213). -/
theorem edgeCounts_holdover (hstate : s.tl.state = .holdover) (hsrc : s.tl.src ≠ 0) : edgeCounts s = { s with
    tl := { s.tl with state := .acquiring, consec := 1 }, period := { s.period with liveUnlocked := true } } := by
  have hyes : (s.tl.state == .holdover) = true := by rw [hstate]; rfl
  have hne : (s.modTl fun t => { t with consec := 0 }).tl.state ≠ .acquiring := by
    rw [show (s.modTl fun t => { t with consec := 0 }).tl.state = .holdover from hstate]
    decide
  rw [edgeCounts, if_pos hyes, enterTl_acquiring hne hsrc]
  exact if_neg (by exact Bool.false_ne_true)

theorem edgeDue_not_locked (sinceInc : Nat) (h : s.tl.state ≠ .locked) : edgeDue sinceInc s = s :=
  if_neg (by rwa [beq_iff_eq])

theorem edgeDue_locked (sinceInc : Nat) (h : s.tl.state = .locked) : edgeDue sinceInc s =
    if s.tl.realign = true ∧ sinceInc < 20812 then s else s.modTl fun t => { t with wclkDue := true, realign := false } := by
  rw [edgeDue, if_pos (by rwa [beq_iff_eq])]
  simp only [Bool.and_eq_true, decide_eq_true_eq]

end edges

/-- The state as a loss of the source leaves it, of either kind (R213). -/
theorem done_loseSource {s : State} (hsrc : s.tl.src ≠ 0) :
    ((s.tl.state = .locked ∨ s.tl.state = .acquiring) → done (loseSource s) = .next (State.settle
      (fire 0 (record 0x0610 (s.tl.src.setWidth 32) (lo32 s.tl.pos) (hi32 s.tl.pos) 0 { s with
        tl := { s.tl with consec := 0, wclkDue := false, realign := false, state := .holdover, lost := true }
        period := { s.period with liveHeld := true, liveUnlocked := true } })))) ∧
    ((s.tl.state = .holdover ∨ s.tl.state = .free) → done (loseSource s) = .next s.settle) :=
  ⟨fun h => by rw [loseSource_follows h hsrc, done_def], fun h => by rw [loseSource_idle h, done_def]⟩

/-- The engine takes a Sync in two of its states (R344). -/
theorem syncTaken_iff (s : State) : (!s.receives || !(s.eth.ptpState == .uncalibrated || s.eth.ptpState == .slave)) = true ↔
    ¬ (s.receives = true ∧ (s.eth.ptpState = .uncalibrated ∨ s.eth.ptpState = .slave)) := by
  rw [← Bool.not_and, Bool.not_eq_true', Bool.eq_false_iff, Ne, Bool.and_eq_true, Bool.or_eq_true, beq_iff_eq, beq_iff_eq]

/-- Settles O30: the clamp of the rate, the loss of a source, and the edges counted one by one. -/
theorem servoUpdatesKeepTheRateLimit : Obligations.ServoUpdatesKeepTheRateLimit := by
  unfold Obligations.ServoUpdatesKeepTheRateLimit
  refine ⟨fun sec ns offset s => ⟨fun hnot => ?_, fun hrec hstate => ⟨fun hsrc => ?_, fun hsrc => ?_⟩⟩, fun t hsrc => ?_,
    fun ms since s => ?_, fun since sinceInc s => ⟨fun hno => ?_, fun hsrc hlate => ?_, fun hsrc hlo hhi => ?_⟩⟩
  · exact if_pos ((syncTaken_iff s).2 hnot)
  · exact exec_done ((if_neg (mt (syncTaken_iff s).1 (not_not_intro ⟨hrec, hstate⟩))).trans (if_pos hsrc)) rfl
  · exact exec_done ((if_neg (mt (syncTaken_iff s).1 (not_not_intro ⟨hrec, hstate⟩))).trans (if_neg (not_not_intro hsrc))) rfl
  · exact Timeline.rate_bounds hsrc
  · intro lost
    refine ⟨fun hsrc hms => ?_, fun hno => ?_, fun hsrc hms => ?_, fun hno => ?_⟩
    · have hne : s.tl.src ≠ 0 := by rw [hsrc]; decide
      have hguard : (decide (s.tl.src = 1) && decide (max 1 s.tl.loss.toNat ≤ ms)) = true := by
        rw [decide_eq_true hsrc, decide_eq_true hms]; rfl
      rw [show exec (.ptpLoss ms) s = done (loseSource s) from if_pos hguard]
      have h := done_loseSource hne
      rw [hsrc] at h
      exact h
    · exact if_neg fun h => by
        rw [Bool.and_eq_true, decide_eq_true_iff, decide_eq_true_iff] at h
        exact hno.elim (fun hn => hn h.1) fun hlt => absurd h.2 (Nat.not_le.2 hlt)
    · have hne : s.tl.src ≠ 0 := by rw [hsrc]; decide
      have hguard : (decide (s.tl.src = 2) && decide (31250 < since)) = true := by
        rw [decide_eq_true hsrc, decide_eq_true hms]; rfl
      rw [show exec (.wclkLoss since) s = done (loseSource s) from if_pos hguard]
      have h := done_loseSource hne
      rw [hsrc] at h
      exact h
    · exact if_neg fun h => by
        rw [Bool.and_eq_true, decide_eq_true_iff, decide_eq_true_iff] at h
        exact hno.elim (fun hn => hn h.1) fun hle => absurd h.2 (Nat.not_lt.2 hle)
  · exact if_pos (by rw [Bool.or_eq_true, decide_eq_true_iff, decide_eq_true_iff]; exact hno)
  · have hguard : ¬ (decide (s.tl.src ≠ 2) || decide (since < 20812)) = true := by
      rw [decide_eq_false (not_not_intro hsrc), decide_eq_false (by omega)]
      exact Bool.false_ne_true
    exact exec_done ((if_neg hguard).trans (if_pos hlate)) rfl
  · intro t
    have hne : s.tl.src ≠ 0 := by rw [hsrc]; decide
    let w := s.modTl fun t => { t with periods := (since :: t.periods).take 48 }
    have hexec : exec (.wclkInEdge since sinceInc) s = .next (State.settle (edgeDue sinceInc (edgeCounts w))) :=
      exec_wclkInEdge_qualified hsrc hlo hhi
    have hstays {x : TlState} (hstate : s.tl.state = x) (hx : x ≠ .holdover) (hfew : x = .acquiring → s.tl.consec < 47) :
        edgeCounts w = w.modTl fun t => { t with consec := t.consec + 1 } :=
      edgeCounts_only (fun h => hx (hstate.symm.trans h)) fun h => hfew (hstate.symm.trans h)
    refine ⟨fun hstate hwait => ?_, fun hstate hgo => ?_, fun hstate hfew => ?_, fun hstate hmany => ?_, fun hstate => ?_⟩
    · rw [hexec, hstays hstate (by decide) (fun h => nomatch h), edgeDue_locked _ (by exact hstate)]
      exact next_settle (if_pos hwait)
    · rw [hexec, hstays hstate (by decide) (fun h => nomatch h), edgeDue_locked _ (by exact hstate)]
      exact next_settle (if_neg hgo)
    · rw [hexec, hstays hstate (by decide) (fun _ => hfew), edgeDue_not_locked _ (by exact fun h => nomatch hstate.symm.trans h)]
      rfl
    · intro u
      have hlocks : edgeCounts w = u := by
        have hwidth : BitVec.setWidth 32 (s.tl.src) = 2 := by rw [hsrc]; rfl
        have hoffset : w.tl.offsetReg = 0 := if_neg (by rw [show w.tl.src = 2 from hsrc]; decide)
        rw [edgeCounts_locks (s := w) hstate hmany, enterTl_locked (by exact fun h => nomatch hstate.symm.trans h)]
        exact congr (congrArg (fun src off => fire 0 (record 0x0611 src (lo32 s.tl.pos) (hi32 s.tl.pos) off
          { s with tl := { t with state := .locked, realign := true } })) hwidth) hoffset
      rw [hexec, hlocks, edgeDue_locked _ rfl]
      exact next_settle (ite_of_iff (and_iff_right rfl) rfl rfl)
    · rw [hexec, edgeCounts_holdover (s := w) hstate hne, edgeDue_not_locked _
        (fun h => nomatch (show TlState.acquiring = .locked from h))]
      rfl

/-! ## Steps, loads and sources -/

/-- Every change of the timeline's state leaves its source and the servo's flags alone, and reaches that state. -/
theorem enterTl_tl (st : TlState) (s : State) : (enterTl st s).tl =
    { s.tl with state := st, lost := (enterTl st s).tl.lost } := by
  by_cases h : s.tl.state = st
  · rw [enterTl, if_pos (beq_iff_eq.2 h), ← h]
  · rw [enterTl, if_neg (by rwa [beq_iff_eq])]
    cases st <;> rfl

/-- The timeline after an accepted change of SRC (R213, R217, R219). -/
theorem changeSrc_tl (src : BitVec 2) (s : State) :
    (changeSrc src s).tl.src = src ∧ (changeSrc src s).tl.ptpKnown = false ∧ (changeSrc src s).tl.far = false ∧
    (changeSrc src s).tl.state = (if src = 0 then .free else if s.tl.state = .free then .acquiring else s.tl.state) := by
  by_cases hzero : src = 0
  · rw [changeSrc, if_pos hzero, if_pos hzero, enterTl_tl]
    exact ⟨rfl, rfl, rfl, rfl⟩
  · rw [changeSrc, if_neg hzero, if_neg hzero, State.modPeriod_tl]
    split
    next h =>
      rw [if_pos (show s.tl.state = .free from beq_iff_eq.1 h), enterTl_tl]
      exact ⟨rfl, rfl, rfl, rfl⟩
    next h =>
      rw [if_neg (show ¬ s.tl.state = .free from fun hfree => h (beq_iff_eq.2 hfree))]
      exact ⟨rfl, rfl, rfl, rfl⟩

/-- Settles O31: each command by its guard. -/
theorem timelineCommandsTakeEffectOrAreRefused : Obligations.TimelineCommandsTakeEffectOrAreRefused := by
  unfold Obligations.TimelineCommandsTakeEffectOrAreRefused
  refine ⟨fun sec ns s => ?_, fun r s hacts => ⟨fun hmay => ?_, fun hnot => ?_⟩, fun r v s hacts => ?_⟩
  · intro y stepped may
    have hmay : (decide (s.tl.src = 1) && s.tl.far && s.tl.autoStep && s.idle && s.tl.ptpKnown) = true ↔ may := by
      simp only [may, Bool.and_eq_true, decide_eq_true_iff, and_assoc]
    have hstep : (s.idle && decide (s.tl.src = 1) && s.tl.ptpKnown) = true ↔
        (s.idle = true ∧ s.tl.src = 1 ∧ s.tl.ptpKnown = true) := by
      simp only [Bool.and_eq_true, decide_eq_true_iff, and_assoc]
    exact ⟨fun h => exec_done (if_pos (hmay.2 h)) rfl, fun h => if_neg (mt hmay.1 h), fun r hacts =>
      ⟨fun h => exec_byReader (exec_tlStep r sec ns s) hacts (if_pos (hstep.2 h)),
        fun h => exec_byReader (exec_tlStep r sec ns s) hacts (if_neg (mt hstep.1 h))⟩⟩
  · exact exec_byReader (exec_tlLoad r s) hacts (if_pos (by rw [Bool.and_eq_true, decide_eq_true_iff]; exact hmay))
  · exact exec_byReader (exec_tlLoad r s) hacts (if_neg (by rw [Bool.and_eq_true, decide_eq_true_iff]; exact hnot))
  · intro u src
    have hbar : (decide (src = 3) || !u.idle) = true ↔ (src = 3 ∨ s.idle = false) := by
      rw [Bool.or_eq_true, decide_eq_true_iff, Bool.not_eq_true']
      rfl
    refine ⟨fun hsame => ?_, fun hne hbarred => ?_, fun hne hsrc hidle => ⟨?_, ?_⟩⟩
    · exact exec_byReader (exec_tlCtrl r v s) hacts (if_pos hsame)
    · exact exec_byReader (exec_tlCtrl r v s) hacts ((if_neg hne).trans (if_pos (hbar.2 hbarred)))
    · refine exec_byReader (exec_tlCtrl r v s) hacts ((if_neg hne).trans (if_neg (mt hbar.1 ?_)))
      rintro (h | h)
      · exact hsrc h
      · exact Bool.false_ne_true (h.symm.trans hidle)
    · exact changeSrc_tl src u

end Sys2Proof.Machine
end

section
/-! The obligations of the schedulers (R165 to R180): tiles, stalls, the watchdog, selection and completion. -/

namespace Sys2Proof.Machine

/-! ## Stalls -/

/-- A running step is found with its program and entry. -/
theorem State.sel?_eq {s : State} {stage : Nat} {t : Step} {g : ProgEnt} {e : StageEnt} (hg : s.img.prog? t.prog = some g)
    (he : s.img.stage? stage = some e) : s.sel? stage t = some { stage := stage, e := e, g := g, t := t } := by
  rw [State.sel?, hg, he]

/-- A running step that stalls or goes on (R175). -/
theorem exec_stepStall_running {stage cc link : Nat} {s : State} {t : Step} {x : Sel}
    (hrun : (s.stage stage).steps.find? (·.state == .run) = some t) (hsel : s.sel? stage t = some x) :
    exec (.stepStall stage cc link) s =
      let u := s.modStage stage (clockStage s.period.cc cc)
      if x.g.reads.contains link && s.tilesFor x link = 0 then
        done (settleStage t (wakeStage stage (waitFor x link 1 (releaseTiles x link u))))
      else if x.g.writes.contains link && !s.bufferFree link then done (settleStage t (waitFor x link 0 u))
      else .next s := by
  rw [exec_stepStall, execStepStall, hrun]
  dsimp only
  rw [hsel]

/-- The later opened of a stream and the one kept so far (R179). -/
def younger (opened : Nat → Nat) (b : Option Nat) (id : Nat) : Option Nat :=
  match b with
  | none => some id
  | some y => if opened y < opened id then some id else b

/-- The youngest of streams: the one opened last (R179). -/
def youngestOf (opened : Nat → Nat) (l : List Nat) (b : Option Nat) : Option Nat := l.foldl (younger opened) b

section youngest

variable {opened : Nat → Nat} {id : Nat}

/-- Nothing displaces the youngest. -/
theorem youngestOf_self {l : List Nat} (h : ∀ z ∈ l, z ≠ id → opened z < opened id) : youngestOf opened l (some id) = some id := by
  induction l with
  | nil => rfl
  | cons z l ih =>
    have hz : ¬ opened id < opened z := by
      by_cases heq : z = id
      · rw [heq]; exact Nat.lt_irrefl _
      · exact Nat.not_lt.2 (Nat.le_of_lt (h z (List.mem_cons_self ..) heq))
    rw [youngestOf, List.foldl_cons]
    refine (congrArg (youngestOf opened l) (if_neg hz)).trans ?_
    exact ih fun y hy => h y (List.mem_cons_of_mem z hy)

/-- The youngest displaces any other. -/
theorem youngestOf_mem {l : List Nat} {b : Option Nat} (hmem : id ∈ l) (hb : ∀ y, b = some y → y ≠ id → opened y < opened id)
    (h : ∀ z ∈ l, z ≠ id → opened z < opened id) : youngestOf opened l b = some id := by
  induction l generalizing b with
  | nil => exact absurd hmem List.not_mem_nil
  | cons z l ih =>
    have hl : ∀ y ∈ l, y ≠ id → opened y < opened id := fun y hy => h y (List.mem_cons_of_mem z hy)
    have hz : z ≠ id → opened z < opened id := h z (List.mem_cons_self ..)
    rw [youngestOf, List.foldl_cons]
    by_cases heq : z = id
    · have htaken : younger opened b z = some id := by
        cases b with
        | none => rw [heq, younger]
        | some y =>
          by_cases hy : y = id
          · simp [younger, heq, hy]
          · simp [younger, heq, hb y rfl hy]
      rw [htaken]
      exact youngestOf_self hl
    · refine ih ((List.mem_cons.1 hmem).resolve_left (Ne.symm heq)) (fun y hy hne => ?_) hl
      cases b with
      | none => exact Option.some.inj hy ▸ hz heq
      | some w =>
        rw [younger] at hy
        split at hy
        · exact Option.some.inj hy ▸ hz heq
        · exact hb y hy hne

end youngest

/-- A cycle of waits that LIMIT has run out for aborts its youngest stream (R179). -/
theorem exec_watchdogAbort_eq (die : Nat) (steps : List (Nat × Nat)) (waited : Nat) (s : State) :
    exec (.watchdogAbort die steps waited) s =
      let d := s.sched die
      let found := steps.filterMap fun (g, i) => ((s.stage g).steps[i]?).map fun t => (g, t)
      let lowest := steps.foldl (fun m x => min m x.1) 0xFFFF
      match youngestOf (fun id => (s.stream id).opened) (found.flatMap fun t => t.2.streams).eraseDups none with
      | some id =>
        if !d.wdogEn || waited < d.limitInForce || found.length ≠ steps.length || !found.all (s.waitsWithin found) ||
            ((s.img.stage? lowest).map (·.die)) ≠ some die then .next s
        else
          let s := record 0x0201 (BitVec.ofNat 32 id) (BitVec.ofNat 32 die) (BitVec.ofNat 32 lowest) (d.limit.setWidth 32) s
          let s := abortStream id 1 (BitVec.ofNat 32 die) (d.limit.setWidth 32) s
          let s := dropSteps (fun t => t.dead && t.rows.any (·.stream == id)) s
          done (s.modSched die fun d => { d with aborts := satInc d.aborts })
      | none => .next s := rfl

/-- Settles O32: arrival and stall by their branches, the watchdog by `youngestOf_mem`. -/
theorem tilesStallsAndTheWatchdog : Obligations.TilesStallsAndTheWatchdog := by
  unfold Obligations.TilesStallsAndTheWatchdog
  refine ⟨fun link s => ⟨fun e h q he hq => ?_, fun hnone => ?_⟩, fun stage cc link s => ⟨fun hnone => ?_, ?_⟩,
    fun die steps waited s => ⟨fun hearly => ?_, ?_⟩⟩
  · rw [exec_tileArrival, execTileArrival, he, hq]
    exact done_def _
  · rw [exec_tileArrival, execTileArrival]
    rcases hnone with h | h
    · rw [h]
    · rw [h]
      cases s.img.flow? link <;> rfl
  · rw [exec_stepStall, execStepStall, hnone]
  · intro t g e hrun hg he x u
    have hexec := exec_stepStall_running (cc := cc) (link := link) hrun (State.sel?_eq hg he)
    have hreads : (g.reads.contains link && decide (s.tilesFor x link = 0)) = true ↔ (link ∈ g.reads ∧ s.tilesFor x link = 0) := by
      rw [Bool.and_eq_true, List.contains_iff_mem, decide_eq_true_iff]
    have hwrites : (g.writes.contains link && !s.bufferFree link) = true ↔ (link ∈ g.writes ∧ s.bufferFree link = false) := by
      rw [Bool.and_eq_true, List.contains_iff_mem, Bool.not_eq_true']
    refine ⟨fun hlink htiles => ?_, fun hcome hlink hfull => ?_, fun hcome hfree => ?_⟩
    · exact exec_done (hexec.trans (if_pos (hreads.2 ⟨hlink, htiles⟩))) rfl
    · refine exec_done (hexec.trans ((if_neg (mt hreads.1 ?_)).trans (if_pos (hwrites.2 ⟨hlink, hfull⟩)))) rfl
      exact fun h => hcome.elim (fun hn => hn h.1) fun hn => hn h.2
    · refine hexec.trans ((if_neg (mt hreads.1 ?_)).trans (if_neg (mt hwrites.1 ?_)))
      · exact fun h => hcome.elim (fun hn => hn h.1) fun hn => hn h.2
      · exact fun h => hfree.elim (fun hn => hn h.1) fun hf => Bool.false_ne_true (h.2.symm.trans hf)
  · rw [exec_watchdogAbort_eq]
    dsimp only
    split
    · refine if_pos ?_
      rcases hearly with h | h
      · rw [h]; rfl
      · rw [decide_eq_true h, Bool.or_true]; rfl
    · rfl
  · intro id found lowest limit hen hlimit hfound hwait hdie hmem hyoungest u
    have hstreams (z : Nat) : z ∈ (found.flatMap fun t => t.2.streams).eraseDups ↔ ∃ y ∈ found, z ∈ y.2.streams := by
      rw [List.mem_eraseDups, List.mem_flatMap]
    have hid : youngestOf (fun id => (s.stream id).opened) (found.flatMap fun t => t.2.streams).eraseDups none = some id :=
      youngestOf_mem ((hstreams id).2 hmem) (fun y hy => nomatch hy) fun z hz hne => by
        obtain ⟨y, hy, hzy⟩ := (hstreams z).1 hz
        exact hyoungest y hy z hzy hne
    have hall : found.all (s.waitsWithin found) = true := List.all_eq_true.2 hwait
    rw [exec_watchdogAbort_eq]
    dsimp only
    rw [hid]
    refine (if_neg ?_).trans (done_def _)
    rw [hen, decide_eq_false (Nat.not_lt.2 hlimit), decide_eq_false (not_not_intro hfound), hall, decide_eq_false (not_not_intro hdie)]
    exact Bool.false_ne_true

/-! ## Selection and completion -/

/-- A stage that selects its first READY step (R175, R176). -/
theorem exec_stepSelect_selects {stage cc : Nat} {ups : List Upset} {seg : Segment} {s : State} {t : Step} {x : Sel}
    (hnext : (s.stage stage).next = some t) (hsel : s.sel? stage t = some x) {v u : State}
    (hv : v = applyUpsets ups (s.modStage stage (clockStage s.period.cc cc)))
    (hu : u = modStep x (fun y =>
      { y with state := .run, await := none, need := 1, period := some (y.period.getD v.period.seq) }) v)
    {seated : Got (List Unit)}
    (hseated : chain (if t.period.isNone then beginStep x seg.rows u else (some (), u)) (fun _ s =>
      gather (fun (y : Row × Nat) s => seatRow x y.2 y.1.stream s)
        (if (u.img.ramUnits stage).isEmpty then [] else t.rows.zipIdx.filter fun y => !y.1.masked) s) = seated) :
    (∀ z, seated = (none, z) → exec (.stepSelect stage cc ups seg) s = .next (State.settle (settleStage t z))) ∧
    ∀ l z, seated = (some l, z) → exec (.stepSelect stage cc ups seg) s = .next (State.settle (settleStage t
      (loadNext x seg.rows seg.upto (runRecords x seg.rows seg.upto (x.g.recs.length + 1) z)))) := by
  rw [exec_stepSelect, execStepSelect, hnext]
  dsimp only
  rw [hsel]
  dsimp only
  rw [← hv, ← hu, hseated]
  exact ⟨fun z hz => by rw [hz]; exact done_def _, fun l z hz => by rw [hz]; exact done_def _⟩

/-- A step that has not run all its records, or whose tiles leave as far as buffers take them (R175). -/
theorem exec_stepComplete_running {stage cc : Nat} {consumed : List (Nat × Nat)} {s : State} {t : Step} {x : Sel} {p : PlanEnt}
    (hrun : (s.stage stage).steps.find? (·.state == .run) = some t) (hsel : s.sel? stage t = some x)
    (hplan : s.plan? t.plan = some p) : exec (.stepComplete stage cc consumed) s =
      if t.op < x.g.recs.length then .next s
      else
        let s := s.modStage stage (clockStage s.period.cc cc)
        match writeTiles (if t.closed then t.outs else t.tiles s.img x.g) s with
        | ((some l, rest), s) => done (settleStage t (waitFor x l 0 (modStep x (fun u => { u with closed := true, outs := rest }) s)))
        | ((none, _), s) => done (finishStep x ((s.now? x).getD t) p consumed s) := by
  rw [exec_stepComplete, execStepComplete, hrun]
  dsimp only
  rw [hsel, hplan] <;> rfl

/-- Settles O33: the selected step by what seating it reads, the completed one by what its tiles find. -/
theorem stepsAreSelectedAndCompleted : Obligations.StepsAreSelectedAndCompleted := by
  unfold Obligations.StepsAreSelectedAndCompleted
  refine ⟨fun stage cc upto ups rows s => ⟨fun hbusy => ?_, fun hnone => ?_, ?_⟩, fun x rows upto n t s hnow => ⟨fun hstop => ?_, ?_⟩,
    fun stage cc consumed s => ⟨fun hnone => ?_, ?_⟩⟩
  · have hnext : (s.stage stage).next = none :=
      if_pos (by rw [Bool.or_eq_true]; exact hbusy)
    rw [exec_stepSelect, execStepSelect, hnext]
  · rw [exec_stepSelect, execStepSelect, hnone]
  · intro t g e hnext hg he x v u seats seated
    refine exec_stepSelect_selects (seg := ⟨upto, rows⟩) hnext (State.sel?_eq hg he) rfl rfl ?_
    have hfirst : (if t.period.isNone then beginStep x rows u else (some (), u)) = if t.period = none then beginStep x rows u else (some (), u) :=
      ite_of_iff Option.isNone_iff_eq_none rfl rfl
    exact congrArg (fun first => chain first fun _ s => gather (fun (y : Row × Nat) s => seatRow x y.2 y.1.stream s) seats s) hfirst
  · have hguard : (t.state != .run || decide (upto ≤ t.op)) = true := by
      rw [Bool.or_eq_true, bne_iff_ne, decide_eq_true_iff]
      exact hstop
    cases n with
    | zero => rfl
    | succ n =>
      rw [runRecords, hnow]
      exact if_pos hguard
  · intro r hrun hop hr
    have hguard : ¬ (t.state != .run || decide (upto ≤ t.op)) = true := by
      rw [Bool.or_eq_true, bne_iff_ne, decide_eq_true_iff]
      exact fun h => h.elim (fun hn => hn hrun) (Nat.not_le.2 hop)
    refine ⟨?_, fun z hcls htiles => ?_⟩
    · rw [runRecords, hnow]
      dsimp only
      rw [if_neg hguard, hr]
    · rw [runRecord, if_neg hcls]
      dsimp only
      rw [htiles]
      rfl
  · rw [exec_stepComplete, execStepComplete, hnone]
  · intro t g e p hrun hg he hplan x u
    have hexec := exec_stepComplete_running (cc := cc) (consumed := consumed) hrun (State.sel?_eq hg he) hplan
    refine ⟨fun hop => hexec.trans (if_pos hop), fun hop => ⟨fun l rest z hz => ?_, fun rest z hz => ?_⟩, fun hlevel z => ?_⟩
    · refine (hexec.trans (if_neg (Nat.not_lt.2 hop))).trans ?_
      dsimp only
      rw [hz]
      exact done_def _
    · refine (hexec.trans (if_neg (Nat.not_lt.2 hop))).trans ?_
      dsimp only
      rw [hz]
      exact done_def _
    · intro a b c d
      rw [finishStep]
      dsimp only
      rw [if_pos hlevel]
      rfl

end Sys2Proof.Machine
end

section
/-! The obligations of the Bellows channels (R184 to R203). -/

namespace Sys2Proof.Machine

/-! ## Control queues -/

/-- A channel takes a descriptor unless it is halted or its queue is full (R184, R202). -/
theorem chSubmit_eq (r : Nat) (s : State) : chSubmit r s =
    let y := (s.sess r).sel
    let c := y.channel.toNat
    if (s.channel c).state = .halted ∨ 16 ≤ (s.channel c).control.length then s.modChannel c fun x => { x with cmdErr := true }
    else s.modChannel c fun x => { x with
      control := x.control ++ [{ tier := y.descHi.toNat / 2 ^ 30, addr := y.descHi.toNat % 2 ^ 16 * 2 ^ 32 + y.descLo.toNat }] } := by
  rw [chSubmit]
  exact ite_of_iff (by rw [Bool.or_eq_true, beq_iff_eq, decide_eq_true_iff]) rfl rfl

/-- A halted channel restarts (R200). -/
theorem chRestart_halted {c : Nat} {s : State} (h : (s.channel c).state = .halted) :
    chRestart c s =
      let u := s.modChannel c fun x => { x with
        state := .idle, haltCode := 0, control := [], data := [], restarts := satInc x.restarts
        lastSeq := x.lastSeq + BitVec.ofNat 16 x.control.length, lastStatus := if x.control.isEmpty then x.lastStatus else 8 }
      let v := u.each (u.img.linksOf c) fun s l => match s.img.flow? l with
        | some e => wakeFlow l ((s.modLink l (resetChain e)).modKimg l fun k =>
            { k with branches := k.branches.map fun b => { b with empty := e.buffers } })
        | none => s
      record 0x0303 (BitVec.ofNat 32 c) (v.channel c).restarts
        (BitVec.ofNat 32 ((s.channel c).control.length + (s.channel c).data.length)) 0 v := by
  have hno : ¬ ((s.channel c).state != .halted) = true := by rw [h]; exact Bool.false_ne_true
  rw [chRestart]
  exact if_neg hno

section descriptorCheck

variable {c : Nat} {s : State} {d : Desc} {rest : List Desc} (hhead : (s.channel c).control = d :: rest)
include hhead

theorem exec_descriptorCheck_head : exec (.descriptorCheck c) s =
    if d.checked || (s.channel c).state == .halted then .next s
    else if d.tier = 3 || s.tierTop d.tier < d.addr + 16 then done (endControl c 2 s)
    else match readBlock d s with
      | (none, s) =>
        let h := readHead ((s.tier d.tier).deliver d.addr 16)
        done (endHalted c (tierAddr d.tier d.addr) h.stream h.link s)
      | (some b, s) =>
        let h := readHead b
        if s.tierTop d.tier < d.addr + 16 + 16 * h.count then done (endControl c 2 s)
        else
          let st := s.blockStatus h (blockPieces b)
          if st ≠ 0 then done (endControl c st s)
          else
            let d := { d with checked := true, block := b, stream := h.stream, noStream := h.noStream, link := h.link }
            done (setHead c d s) := by
  rw [exec_descriptorCheck, execDescriptorCheck, hhead] <;> rfl

/-- A descriptor that is checked is within the tiers, or ends with status 2 (R189). -/
theorem exec_descriptorCheck_fresh (hcheck : d.checked = false) (hhalt : (s.channel c).state ≠ .halted) :
    ((d.tier = 3 ∨ s.tierTop d.tier < d.addr + 16) → exec (.descriptorCheck c) s = done (endControl c 2 s)) ∧
    (d.tier ≠ 3 → d.addr + 16 ≤ s.tierTop d.tier →
      (∀ t, readBlock d s = (none, t) → exec (.descriptorCheck c) s =
        let h := readHead ((t.tier d.tier).deliver d.addr 16)
        done (endHalted c (tierAddr d.tier d.addr) h.stream h.link t)) ∧
      ∀ b t, readBlock d s = (some b, t) → exec (.descriptorCheck c) s =
        let h := readHead b
        if t.tierTop d.tier < d.addr + 16 + 16 * h.count then done (endControl c 2 t)
        else if t.blockStatus h (blockPieces b) ≠ 0 then done (endControl c (t.blockStatus h (blockPieces b)) t)
        else done (setHead c
          { d with checked := true, block := b, stream := h.stream, noStream := h.noStream, link := h.link } t)) := by
  have hfresh : ¬ (d.checked || (s.channel c).state == .halted) = true := by
    rw [hcheck, beq_false_of_ne hhalt]
    exact Bool.false_ne_true
  have hout : (decide (d.tier = 3) || decide (s.tierTop d.tier < d.addr + 16)) = true ↔
      (d.tier = 3 ∨ s.tierTop d.tier < d.addr + 16) := by
    rw [Bool.or_eq_true, decide_eq_true_iff, decide_eq_true_iff]
  have hexec := (exec_descriptorCheck_head hhead).trans (if_neg hfresh)
  refine ⟨fun h => hexec.trans (if_pos (hout.2 h)), fun htier haddr => ?_⟩
  have hin := hexec.trans (if_neg (mt hout.1 (not_or.2 ⟨htier, Nat.not_lt.2 haddr⟩)))
  refine ⟨fun t ht => hin.trans ?_, fun b t ht => hin.trans ?_⟩
  · rw [ht]
  · rw [ht]

end descriptorCheck

/-- A descriptor that waits on its link for as long as LIMIT (R196, R202). -/
theorem exec_waitLimit_head {c waited : Nat} {s : State} {d : Desc} {rest : List Desc}
    (hhead : (s.channel c).control = d :: rest) : exec (.waitLimit c waited) s =
      if (s.channel c).state = .wait ∧ s.waitOver d = false ∧ max 1024 s.bellows.waitLim.toNat ≤ waited
      then done (endControl c 7 s) else .next s := by
  rw [exec_waitLimit, execWaitLimit, hhead]
  exact ite_of_iff (by rw [Bool.and_eq_true, Bool.and_eq_true, beq_iff_eq, Bool.not_eq_true', decide_eq_true_iff, and_assoc]) rfl rfl

/-- Settles O34: the queue's commands by their guards, the check of a descriptor by what reading it gives. -/
theorem channelQueuesTakeAndEndDescriptors : Obligations.ChannelQueuesTakeAndEndDescriptors := by
  unfold Obligations.ChannelQueuesTakeAndEndDescriptors
  intro ended
  refine ⟨fun r s hacts => ?_, fun c s => ⟨fun hnone => ?_, fun d rest hhead => ⟨fun hidle => ?_, fun hcheck hhalt => ?_⟩⟩,
    fun c waited s => ⟨fun hno => ?_, fun d rest hhead hstate hlimit => ⟨fun hover => ?_, fun hover => ?_⟩⟩⟩
  · intro y c
    refine ⟨fun hbar => ?_, fun hrun hroom => ?_, fun hrun => ?_, fun hhalt => ?_⟩
    · exact exec_byReader (exec_chSubmit r s) hacts ((chSubmit_eq r s).trans (if_pos hbar))
    · exact exec_byReader (exec_chSubmit r s) hacts ((chSubmit_eq r s).trans (if_neg (not_or.2 ⟨hrun, Nat.not_le.2 hroom⟩)))
    · exact exec_byReader (exec_chRestart r s) hacts (if_pos (bne_iff_ne.2 hrun))
    · intro n u v
      exact exec_byReader (exec_chRestart r s) hacts (chRestart_halted hhalt)
  · rw [exec_descriptorCheck, execDescriptorCheck, hnone]
  · rw [exec_descriptorCheck_head hhead]
    exact if_pos (by rw [Bool.or_eq_true, beq_iff_eq]; exact hidle)
  · obtain ⟨hout, hin⟩ := exec_descriptorCheck_fresh hhead hcheck hhalt
    refine ⟨fun h => (hout h).trans (done_def _), fun htier haddr => ?_⟩
    obtain ⟨hlost, hread⟩ := hin htier haddr
    refine ⟨fun t ht => (hlost t ht).trans (done_def _), fun b t ht => ?_⟩
    intro h st
    refine ⟨fun hend => ?_, fun hend hst => ?_, fun hend hst => ?_⟩
    · exact (hread b t ht).trans ((if_pos hend).trans (done_def _))
    · exact (hread b t ht).trans ((if_neg (Nat.not_lt.2 hend)).trans ((if_pos hst).trans (done_def _)))
    · exact (hread b t ht).trans ((if_neg (Nat.not_lt.2 hend)).trans ((if_neg (not_not_intro hst)).trans (done_def _)))
  · cases hcontrol : (s.channel c).control with
    | nil => rw [exec_waitLimit, execWaitLimit, hcontrol]
    | cons d rest =>
      rw [exec_waitLimit_head hcontrol]
      refine if_neg fun ⟨hwait, _, hlimit⟩ => ?_
      rcases hno with h | h | h
      · exact h hwait
      · exact List.cons_ne_nil d rest (hcontrol.symm.trans h)
      · exact Nat.not_le.2 h hlimit
  · rw [exec_waitLimit_head hhead]
    exact if_neg fun h => Bool.false_ne_true (h.2.1.symm.trans hover)
  · rw [exec_waitLimit_head hhead]
    exact (if_pos ⟨hstate, hover, hlimit⟩).trans (done_def _)

/-! ## Units and tiles -/

/-- A channel whose head descriptor is firmware's or cannot move, and one that moves (R186). -/
theorem exec_bellowsUnitTransfer_head {c : Nat} {ups : List Upset} {s : State} {d : Desc} {rest : List Desc}
    (hhead : ((applyUpsets ups s).channel c).control = d :: rest) : exec (.bellowsUnitTransfer c ups) s =
      let t := applyUpsets ups s
      if d.checked = false ∨ (t.channel c).state = .halted ∨ d.role ≠ 0 ∨ t.dataReady c = true then .next t
      else match (blockPieces d.block)[d.entry]? with
        | some p => done (moveUnit c d (readHead d.block) (blockPieces d.block) p t)
        | none => done (endControl c d.status.toNat t) := by
  rw [exec_bellowsUnitTransfer, execBellowsUnitTransfer]
  dsimp only
  rw [hhead]
  refine ite_of_iff ?_ rfl rfl
  rw [Bool.or_eq_true, Bool.or_eq_true, Bool.or_eq_true, Bool.not_eq_true', beq_iff_eq, bne_iff_ne, or_assoc, or_assoc]

section moveUnit

variable {c : Nat} {d : Desc} {h : Head} {ps : List Piece} {p : Piece} {s : State} (hlink : s.img.link? h.link = none)
include hlink

/-- A descriptor without a link moves a unit from memory to memory (R186, R190). -/
theorem moveUnit_memory {m : Moved} {t : State} (hm : moveLeg c false h ps p none 0 d s = (m, t)) : moveUnit c d h ps p s =
    match (generalizing := false) m with
    | .ue tier a => endHalted c (tierAddr tier a) h.stream h.link t
    | .bad tier x _ _ seq => failCheck c h tier x seq t
    | .ok y _ =>
      let z := { y with buf := none, status := if y.status = 0 then 0 else y.status }
      let u := t.modChannel c fun x => { x with state := .idle }
      if z.entry < ps.length then setHead c z u else endControl c z.status.toNat u := by
  have hleave (y : Desc) (v : State) : (if tileEnds h ps y = true then leaveBuffer none h.dir 0 v else (0, v)) = (0, v) := ite_self _
  simp only [moveUnit, hlink, hm, hleave]
  cases m with
  | ue tier a => rfl
  | bad tier x st ns seq => rfl
  | ok y b => rfl

end moveUnit

section tileFetch

variable {link c : Nat} {head entries : List Byte} {ups : List Upset} {s : State} {e : LinkEnt} {d : Desc}
  (he : s.img.flow? link = some e) (hc : s.img.linkChannel link = some c)
include he hc

/-- The fetch of the next tile of a block in progress (R192). -/
theorem exec_tileFetchStart_block (hd : (applyUpsets ups s).block c link = some d) :
    exec (.tileFetchStart link head entries ups) s =
      let t := applyUpsets ups s
      if (t.channel c).state = .halted then .next t
      else if d.role = 1 ∧ d.block = [] then done (startMove c e d (head ++ entries) t)
      else if t.fetchReady e d = false then .next t
      else if d.role = 4 then done (fetchText c e d t)
      else if d.role = 5 then done (fetchWeights c e d t)
      else done (startMove c e d (head ++ entries) t) := by
  rw [exec_tileFetchStart, execTileFetchStart, he, hc]
  dsimp only
  rw [hd]
  refine ite_of_iff beq_iff_eq rfl (ite_of_iff ?_ rfl (ite_of_iff (iff_of_eq (Bool.not_eq_true' _)) rfl ?_))
  · rw [Bool.and_eq_true, decide_eq_true_iff, List.isEmpty_iff]
  · split
    next h => rw [if_pos h]
    next h => rw [if_neg (by rw [h]; decide), if_pos h]
    next h4 h5 => rw [if_neg h4, if_neg h5]

theorem exec_tileFetchStart_idle (hd : (applyUpsets ups s).block c link = none) :
    exec (.tileFetchStart link head entries ups) s = .next (applyUpsets ups s) := by
  rw [exec_tileFetchStart, execTileFetchStart, he, hc]
  dsimp only
  rw [hd]

end tileFetch

/-- The list of a MOVE's block is checked as it comes (R153, R189). -/
theorem startMove_fresh {c : Nat} {e : LinkEnt} {d : Desc} {list : List Byte} {s : State} (hd : d.block = []) :
    startMove c e d list s =
      let h := readHead list
      if h.link ≠ e.link ∨ h.bytes ≠ d.bytes ∨ list.length < 16 * (h.count + 1) ∨ s.blockStatus h (blockPieces list) ≠ 0 then
        modBlock c e.link (fun _ => none) s
      else
        let y := { d with block := list.take (16 * (h.count + 1)), checked := true, stream := h.stream, noStream := h.noStream }
        let u := modBlock c e.link (fun _ => some y) s
        if u.fetchReady e y then fetchTile c e h y u else u := by
  have hfresh : ¬ (!d.block.isEmpty) = true := by rw [hd]; exact Bool.false_ne_true
  rw [startMove, if_neg hfresh]
  refine ite_of_iff ?_ rfl rfl
  rw [← or_assoc, ← or_assoc]
  have hform : (decide ((readHead list).link ≠ e.link) || decide ((readHead list).bytes ≠ d.bytes) ||
      decide (list.length < 16 * ((readHead list).count + 1))) = true ↔
      ((readHead list).link ≠ e.link ∨ (readHead list).bytes ≠ d.bytes) ∨ list.length < 16 * ((readHead list).count + 1) := by
    rw [Bool.or_eq_true, Bool.or_eq_true, decide_eq_true_iff, decide_eq_true_iff, decide_eq_true_iff]
  by_cases h : ((readHead list).link ≠ e.link ∨ (readHead list).bytes ≠ d.bytes) ∨ list.length < 16 * ((readHead list).count + 1)
  · exact iff_of_true (ne_of_eq_ne (if_pos (hform.2 h)) Nat.one_ne_zero) (.inl h)
  · rw [if_neg (mt hform.1 h), or_iff_right h]

/-- Settles O35: a channel's unit by what its move gives, a link's tile by its block. -/
theorem channelsMoveUnitsAndTiles : Obligations.ChannelsMoveUnitsAndTiles := by
  unfold Obligations.ChannelsMoveUnitsAndTiles
  refine ⟨fun c ups s => ?_, fun c d h ps p s hlink => ⟨fun tier a t hm => ?_, fun tier g st ns q t hm => ?_, fun y b t hm => ?_⟩,
    fun link head entries ups s => ?_⟩
  · intro t
    refine ⟨fun hnone => ?_, fun d rest hhead => ⟨fun hbar => ?_, fun hcheck hrun hrole hready => ?_⟩⟩
    · rw [exec_bellowsUnitTransfer, execBellowsUnitTransfer]
      dsimp only
      rw [hnone]
    · exact (exec_bellowsUnitTransfer_head hhead).trans (if_pos hbar)
    · have hexec := (exec_bellowsUnitTransfer_head hhead).trans (if_neg fun hbar => by
        rcases hbar with h | h | h | h
        · exact Bool.false_ne_true (h.symm.trans hcheck)
        · exact hrun h
        · exact h hrole
        · exact Bool.false_ne_true (hready.symm.trans h))
      refine ⟨fun p hp => hexec.trans ?_, fun hp => hexec.trans ?_⟩
      · rw [hp]
        exact done_def _
      · rw [hp]
        exact done_def _
  · exact moveUnit_memory hlink hm
  · exact moveUnit_memory hlink hm
  · exact moveUnit_memory hlink hm
  · intro list
    refine ⟨fun hnone => ?_, fun e c he hc => ?_⟩
    · rw [exec_tileFetchStart, execTileFetchStart]
      rcases hnone with h | h
      · rw [h]
      · rw [h]
        cases s.img.flow? link <;> rfl
    · intro t
      refine ⟨fun hnone => exec_tileFetchStart_idle he hc hnone, fun d hd => ?_⟩
      have hexec : exec (.tileFetchStart link head entries ups) s = _ := exec_tileFetchStart_block he hc hd
      refine ⟨fun hhalt => hexec.trans (if_pos hhalt), fun hrun => ?_⟩
      have hgo := hexec.trans (if_neg hrun)
      refine ⟨fun hrole hblock => ?_, fun hlater hnot => ?_, fun hready => ⟨fun hrole => ?_, fun hrole => ?_, fun h4 h5 hblock => ⟨?_, ?_⟩⟩⟩
      · intro h
        have hstart := (hgo.trans (if_pos ⟨hrole, hblock⟩)).trans (congrArg done (startMove_fresh hblock))
        refine ⟨fun hbad => hstart.trans ((congrArg done (if_pos hbad)).trans (done_def _)), fun hlink hbytes hlen hst => ?_⟩
        intro y u
        refine hstart.trans ((congrArg done (if_neg ?_)).trans (done_def _))
        rintro (h | h | h | h)
        · exact h hlink
        · exact h hbytes
        · exact Nat.not_lt.2 hlen h
        · exact h hst
      · refine hgo.trans ((if_neg fun h => ?_).trans (if_pos hnot))
        exact hlater.elim (fun hn => hn h.1) fun hn => hn h.2
      · have hnew : ¬ (d.role = 1 ∧ d.block = []) := fun h => by rw [hrole] at h; exact absurd h.1 (by decide)
        exact ((hgo.trans (if_neg hnew)).trans (if_neg (ne_of_eq_ne hready (by decide)))).trans ((if_pos hrole).trans (done_def _))
      · have hnew : ¬ (d.role = 1 ∧ d.block = []) := fun h => by rw [hrole] at h; exact absurd h.1 (by decide)
        have h4 : d.role ≠ 4 := by rw [hrole]; decide
        exact ((hgo.trans (if_neg hnew)).trans (if_neg (ne_of_eq_ne hready (by decide)))).trans
          ((if_neg h4).trans ((if_pos hrole).trans (done_def _)))
      · have hmove : startMove c e d list t = fetchTile c e (readHead d.block) d t := if_pos (by
          rw [Bool.not_eq_true', List.isEmpty_eq_false_iff]
          exact hblock)
        refine ((hgo.trans (if_neg fun h => hblock h.2)).trans (if_neg (ne_of_eq_ne hready (by decide)))).trans ?_
        exact (if_neg h4).trans ((if_neg h5).trans ((congrArg done hmove).trans (done_def _)))
      · intro hb u y b v ⟨hdir, hhere⟩ htake hmove
        have hlocal : ¬ (decide ((readHead d.block).dir = 0) && e.remote && decide (e.prod ≠ 0xFFFF)) = true := by
          rw [Bool.and_eq_true, Bool.and_eq_true, decide_eq_true_iff, decide_eq_true_iff]
          exact fun h => hhere.elim (fun hr => Bool.false_ne_true (hr.symm.trans h.1.2)) h.2
        rw [fetchTile]
        refine (if_neg hlocal).trans ?_
        simp only [hdir, htake, hmove, if_true]

end Sys2Proof.Machine
end

section
/-! The obligations of streams and profiles (R229 to R258). -/

namespace Sys2Proof.Machine

/-! ## Entries that are listed -/

/-- An entry that a put leaves listed reads back, whatever the table's form. -/
theorem cget_cput_ne {α : Type} [DecidableEq α] {d v : α} (h : v ≠ d) (k : Nat) (m : Cells α) : cget d (cput d k v m) k = v := by
  induction m with
  | nil => simp [cput, cget, h]
  | cons e t ih =>
    obtain ⟨a, w⟩ := e
    rw [cput]
    split
    next => simp [cget]
    next hlt =>
      split
      next => simp [cget]
      next hne => rw [cget, if_neg hne, if_neg hlt, ih]

/-- The later of two puts at a key stands alone, where the earlier left the entry listed. -/
theorem cput_cput_ne {α : Type} [DecidableEq α] {d v : α} (h : v ≠ d) (w : α) (k : Nat) (m : Cells α) :
    cput d k w (cput d k v m) = cput d k w m := by
  induction m with
  | nil => simp [cput, h]
  | cons e t ih =>
    obtain ⟨a, x⟩ := e
    by_cases hlt : k < a
    · simp [cput, hlt, h]
    · by_cases heq : a = k
      · simp [cput, heq, h]
      · simp [cput, hlt, heq, ih]

/-- A stream that an update leaves listed. -/
theorem State.stream_modStream_ne {s : State} {i : Nat} {f : Stream → Stream} (h : f (s.stream i) ≠ {}) :
    (s.modStream i f).stream i = f (s.stream i) := cget_cput_ne h i s.streams

/-- Two updates of a stream that the first leaves listed are one. -/
theorem State.modStream_modStream {s : State} {i : Nat} {f : Stream → Stream} (g : Stream → Stream) (h : f (s.stream i) ≠ {}) :
    (s.modStream i f).modStream i g = s.modStream i fun x => g (f x) := by
  rw [State.modStream, State.stream_modStream_ne h]
  exact congrArg (fun m => { s with streams := m }) (cput_cput_ne h _ i s.streams)

/-- A stream whose state is not FREE is listed. -/
theorem Stream.listed {x : Stream} (h : x.state ≠ .free) : x ≠ {} := fun hx => h (congrArg Stream.state hx)

/-! ## The packet in progress leaves the timeline alone -/

@[simp] theorem toWire_tl (w plan : Nat) (x : W32) (s : State) : (toWire w plan x s).2.tl = s.tl := by
  rw [toWire]
  dsimp only
  split
  · rfl
  · rw [State.modLiveSlot]
    split <;> rfl

@[simp] theorem markWord_tl (on : Bool) (exit id k v : Nat) (s : State) : (markWord on exit id k v s).2.tl = s.tl := by
  have hblock : (blockKey exit id (k / 384) s).2.tl = s.tl := by
    rw [blockKey, blockKey.fresh]
    split
    · split <;> rfl
    · rfl
  rw [markWord]
  dsimp only
  split
  next key h => exact hblock
  next h => exact hblock

@[simp] theorem rtpSample_tl (mark : Bool) (format plan id k : Nat) (x : W32) (s : State) :
    (rtpSample mark format plan id k x s).2.tl = s.tl := by
  rw [rtpSample]
  dsimp only
  split
  · exact toWire_tl ..
  · exact (markWord_tl ..).trans (toWire_tl ..)
  · exact toWire_tl ..
  · exact toWire_tl ..

/-- A fold that collects bytes leaves a component of the state alone where each of its steps does. -/
theorem foldl_snd_field {α β γ : Type} (π : State → γ) {f : β × State → α → β × State} (h : ∀ y a, π (f y a).2 = π y.2) (l : List α)
    (y : β × State) : π (l.foldl f y).2 = π y.2 := by
  induction l generalizing y with
  | nil => rfl
  | cons a l ih => exact (ih _).trans (h y a)

@[simp] theorem flushRtp_tl (id : Nat) (s : State) : (flushRtp id s).tl = s.tl := by
  rw [flushRtp]
  dsimp only
  split
  next b p _ _ =>
    split
    · rfl
    · have hfold := foldl_snd_field State.tl (f := fun (acc : List Byte × State) (y : W32 × Nat) =>
        (acc.1 ++ (rtpSample b.mark (rtpFormat (s.dest b.entry)) p.plan id (b.first.toNat / ratioOf p.rate + y.2) y.1 acc.2).1,
          (rtpSample b.mark (rtpFormat (s.dest b.entry)) p.plan id (b.first.toNat / ratioOf p.rate + y.2) y.1 acc.2).2))
        (fun acc y => rtpSample_tl ..) b.buf.zipIdx ([], s)
      split
      · exact hfold
      · exact (sendOut_tl ..).trans hfold
  · rfl

/-! ## Commands of the stream window -/

/-- A low half that is none of the window's writes nothing (R244). -/
theorem writeLoHalf_other (r : Nat) {off : Nat} (v : W32) (s : State) (hseed : off ≠ 0x2010) (hstart : off ≠ 0x201C)
    (hpark : off ≠ 0x202C) : writeLoHalf r off v s = s.modSess r fun x => x := by
  rw [writeLoHalf]
  refine congrArg (s.modSess r) (funext fun x => ?_)
  split
  · exact absurd rfl hseed
  · exact absurd rfl hstart
  · exact absurd rfl hpark
  · rfl

/-- Settles O38: each write by the states that take it. -/
theorem streamWindowWritesCommit : Obligations.StreamWindowWritesCommit := by
  unfold Obligations.StreamWindowWritesCommit
  refine ⟨fun r v s hacts => ⟨?_, ?_, ?_, fun off hseed hstart hpark => ?_⟩, fun r v s hacts => ?_, fun r v s hacts => ?_⟩
  · exact exec_byReader (exec_streamLoHalfWrite r 0x2010 v s) hacts rfl
  · exact exec_byReader (exec_streamLoHalfWrite r 0x201C v s) hacts rfl
  · exact exec_byReader (exec_streamLoHalfWrite r 0x202C v s) hacts rfl
  · exact exec_byReader (exec_streamLoHalfWrite r off v s) hacts (writeLoHalf_other r v s (fun h => hseed (BitVec.eq_of_toNat_eq h))
      (fun h => hstart (BitVec.eq_of_toNat_eq h)) fun h => hpark (BitVec.eq_of_toNat_eq h))
  · intro id x refused
    refine ⟨fun hok => ?_, fun hbar => ⟨?_, ?_⟩, fun hok hv => ?_, fun hv => ?_, fun hok => ⟨?_, ?_⟩, fun hbar => ⟨?_, ?_⟩⟩
    · exact exec_byReader (exec_streamSeedHi r v s) hacts (if_pos hok)
    · exact exec_byReader (exec_streamSeedHi r v s) hacts (if_neg (ne_of_eq_ne hbar Bool.false_ne_true))
    · exact exec_byReader (exec_streamInvT r v s) hacts (if_neg (by rw [hbar]; exact Bool.false_ne_true))
    · exact exec_byReader (exec_streamInvT r v s) hacts (if_pos (by rw [hok, hv]; rfl))
    · exact exec_byReader (exec_streamInvT r v s) hacts (if_neg (by rw [hv, Bool.and_false]; exact Bool.false_ne_true))
    · exact exec_byReader (exec_streamStartHi r v s) hacts (if_pos hok)
    · exact exec_byReader (exec_streamParkHi r v s) hacts (if_pos hok)
    · exact exec_byReader (exec_streamStartHi r v s) hacts (if_neg (ne_of_eq_ne hbar Bool.false_ne_true))
    · exact exec_byReader (exec_streamParkHi r v s) hacts (if_neg (ne_of_eq_ne hbar Bool.false_ne_true))
  · intro k q
    have hbarred : (decide (k % 32 = 0) || decide (k % 32 = 2) || !q.present) = true ↔ (k % 32 = 0 ∨ k % 32 = 2 ∨ q.present = false) := by
      rw [Bool.or_eq_true, Bool.or_eq_true, decide_eq_true_iff, decide_eq_true_iff, Bool.not_eq_true', or_assoc]
    refine ⟨fun hbar => exec_byReader (exec_queueHead r v s) hacts (if_pos (hbarred.2 hbar)), fun hcmd hring hpresent => ?_⟩
    have hfree : ¬ (decide (k % 32 = 0) || decide (k % 32 = 2) || !q.present) = true := fun h =>
      (hbarred.1 h).elim hcmd fun h => h.elim hring fun h => Bool.false_ne_true (h.symm.trans hpresent)
    exact ⟨fun hin => exec_byReader (exec_queueHead r v s) hacts ((if_neg hfree).trans (if_pos hin)),
      fun hout => exec_byReader (exec_queueHead r v s) hacts ((if_neg hfree).trans (if_neg (Nat.not_le.2 hout)))⟩

/-! ## START, STOP, CLOSE, ABORT -/

/-- A stream that commands may act on and that stands ready to start is listed. -/
theorem startable_listed {x y : Stream} (h : x.state = .admitted ∨ x.state = .stopped) (hy : y.state = x.state) : y ≠ {} :=
  Stream.listed (by rw [hy]; rcases h with h | h <;> rw [h] <;> decide)

/-- A START that leaves the state of its stream goes on where the stream stands (R243). -/
theorem startNow_same {r : Nat} {s t : State} (hstart : doStart (s.selStream r) s = t)
    (hstate : (t.stream (s.selStream r)).state = (s.stream (s.selStream r)).state) : startNow r s = progress (s.selStream r) t := by
  rw [startNow]
  rw [hstart, hstate, if_pos (beq_self_eq_true _)]

theorem startNow_moved {r : Nat} {s t : State} (hstart : doStart (s.selStream r) s = t)
    (hstate : (t.stream (s.selStream r)).state ≠ (s.stream (s.selStream r)).state) :
    startNow r s = progress (s.selStream r) (joinRound (s.selStream r) t) := by
  rw [startNow]
  rw [hstart, if_neg (fun h => hstate (beq_iff_eq.1 h).symm)]

section start

variable {id : Nat} {s : State}

/-- START in a state that takes none, or without a plan. -/
theorem doStart_barred (h : s.plan? (s.stream id).plan.toNat = none ∨ ¬ (cmdFree (s.stream id) = true ∧
    ((s.stream id).state = .admitted ∨ (s.stream id).state = .stopped))) : doStart id s = streamErr id s := by
  rw [doStart]
  split
  next p hp =>
    refine if_neg fun hmay => ?_
    rw [Bool.and_eq_true, Bool.or_eq_true, beq_iff_eq, beq_iff_eq] at hmay
    exact h.elim (fun hn => nomatch hp.symm.trans hn) fun hn => hn hmay
  · rfl

/-- START where the stream may start (R170, R243). -/
theorem doStart_may {p : PlanEnt} (hp : s.plan? (s.stream id).plan.toNat = some p) (hfree : cmdFree (s.stream id) = true)
    (hstate : (s.stream id).state = .admitted ∨ (s.stream id).state = .stopped) :
    (∀ n, startRefusal p (s.stream id).startPos.toNat s.pos = some n → doStart id s = s.modStream id fun x => { x with
      result := BitVec.ofNat 8 n, detail := 0, earliest := BitVec.ofNat 64 (earliestStart p s.pos) }) ∧
    (startRefusal p (s.stream id).startPos.toNat s.pos = none →
      doStart id s = beginRun id p (s.stream id).startPos (s.modStream id fun x => { x with result := 0, detail := 0 })) := by
  have hmay : (cmdFree (s.stream id) && ((s.stream id).state == .admitted || (s.stream id).state == .stopped)) = true := by
    rw [Bool.and_eq_true, Bool.or_eq_true, beq_iff_eq, beq_iff_eq]
    exact ⟨hfree, hstate⟩
  rw [doStart]
  rw [hp]
  dsimp only
  rw [if_pos hmay]
  refine ⟨fun n hn => ?_, fun hnone => ?_⟩
  · rw [hn]
    exact State.modStream_modStream (fun x => { x with result := BitVec.ofNat 8 n, detail := BitVec.ofNat 8 0 })
      (startable_listed hstate rfl)
  · rw [hnone]
    rfl

/-- An update that leaves a stream's state alone, and leaves it listed. -/
theorem state_modStream {f : Stream → Stream} (hf : f (s.stream id) ≠ {}) (h : (f (s.stream id)).state = (s.stream id).state) :
    ((s.modStream id f).stream id).state = (s.stream id).state := by rw [State.stream_modStream_ne hf, h]

end start

/-- A flagged stream is listed. -/
theorem flagged_listed (x : Stream) : { x with cmdErr := true } ≠ ({} : Stream) := fun h =>
  Bool.false_ne_true (congrArg Stream.cmdErr h).symm

/-- Settles O36: each command by the states that take it. -/
theorem streamCommandsActOrAreRefused : Obligations.StreamCommandsActOrAreRefused := by
  unfold Obligations.StreamCommandsActOrAreRefused
  refine ⟨fun r s hacts => ?_, fun id s => ⟨fun hno => ?_, fun hstate hload => ?_⟩⟩
  · intro id x err refused
    have hstop : (cmdFree x && (x.state == .running || x.state == .draining)) = true ↔
        (cmdFree x = true ∧ (x.state = .running ∨ x.state = .draining)) := by
      rw [Bool.and_eq_true, Bool.or_eq_true, beq_iff_eq, beq_iff_eq]
    have hclose : (x.isOpen && x.state != .closing && x.held.isNone && x.ring.isNone) = true ↔
        (x.isOpen = true ∧ x.state ≠ .closing ∧ x.held = none ∧ x.ring = none) := by
      rw [Bool.and_eq_true, Bool.and_eq_true, Bool.and_eq_true, bne_iff_ne, Option.isNone_iff_eq_none, Option.isNone_iff_eq_none,
        and_assoc, and_assoc]
    refine ⟨fun hbar => ?_, fun hfree hstate => ?_, fun hbar => ?_, fun hopen hstate hheld hring => ?_, fun hbar => ?_, fun habort => ?_,
      fun hbar => ?_, fun p hp hmay => ⟨fun n hn => ?_, fun hnone => ?_⟩⟩
    · refine exec_byReader (exec_stop r s) hacts (if_neg fun h => ?_)
      obtain ⟨hfree, hstate⟩ := hstop.1 h
      rcases hbar with hbar | ⟨hrun, hdrain⟩
      · exact Bool.false_ne_true (hbar.symm.trans hfree)
      · exact hstate.elim hrun hdrain
    · exact exec_byReader (exec_stop r s) hacts (if_pos (hstop.2 ⟨hfree, hstate⟩))
    · refine exec_byReader (exec_close r s) hacts (if_neg fun h => ?_)
      obtain ⟨hopen, hstate, hheld, hring⟩ := hclose.1 h
      rcases hbar with hbar | hbar | hbar | hbar
      · exact Bool.false_ne_true (hbar.symm.trans hopen)
      · exact hstate hbar
      · rw [hheld] at hbar
        exact Bool.false_ne_true hbar
      · rw [hring] at hbar
        exact Bool.false_ne_true hbar
    · exact exec_byReader (exec_close r s) hacts (if_pos (hclose.2 ⟨hopen, hstate, hheld, hring⟩))
    · exact exec_byReader (exec_abort r s) hacts (if_neg (ne_of_eq_ne hbar Bool.false_ne_true))
    · exact exec_byReader (exec_abort r s) hacts (if_pos habort)
    · exact exec_byReader (exec_start r s) hacts (startNow_same (doStart_barred hbar) (state_modStream (flagged_listed x) rfl))
    · obtain ⟨hfree, hstate⟩ := hmay
      exact exec_byReader (exec_start r s) hacts (startNow_same ((doStart_may hp hfree hstate).1 n hn)
        (state_modStream (startable_listed hstate rfl) rfl))
    · intro u
      obtain ⟨hfree, hstate⟩ := hmay
      have hstart : doStart id s = u := (doStart_may hp hfree hstate).2 hnone
      exact ⟨fun hmoved => exec_byReader (exec_start r s) hacts (startNow_moved hstart hmoved),
        fun hsame => exec_byReader (exec_start r s) hacts (startNow_same hstart hsame)⟩
  · refine if_neg fun h => ?_
    rw [Bool.and_eq_true, beq_iff_eq, Bool.not_eq_true'] at h
    exact hno.elim (fun hn => hn h.1) fun hl => Bool.false_ne_true (h.2.symm.trans hl)
  · intro u v
    have hdone : ((s.stream id).state == .closing && !(s.stream id).holdsLoad) = true := by
      rw [hstate, hload]
      rfl
    have hpost : post id 1 8 0 0 (flushRtp id s).tl.pos 0 0 (flushRtp id s) = u := by rw [flushRtp_tl]
    refine exec_done (if_pos hdone) ?_
    rw [hpost]
    rfl

end Sys2Proof.Machine
end

section
/-! The obligations of contexts and profiles (R243 to R254, R281). -/

namespace Sys2Proof.Machine

/-! ## Profile commands -/

section profileCommands

variable {r p : Nat} {s : State}

/-- A profile command of a session that runs one, or during a zeroisation, is refused (R251, R406). -/
theorem startProfileCmd_busy {cmd : Nat} {f : State → State} (h : (s.sess r).prof.busy.isSome = true ∨ s.sec.wiping = true) :
    startProfileCmd r cmd p f s = s.modSess r fun x => { x with prof := { x.prof with cmdErr := true } } :=
  if_pos (by rw [Bool.or_eq_true]; exact h)

theorem startProfileCmd_free {cmd : Nat} {f : State → State} (hbusy : (s.sess r).prof.busy = none) (hwipe : s.sec.wiping = false) :
    startProfileCmd r cmd p f s = f (s.modSess r fun x => { x with prof := { x.prof with busy := some (cmd, p) } }) :=
  if_neg (by rw [hbusy, hwipe]; exact Bool.false_ne_true)

theorem pins_modSess (f : Session → Session) : (s.modSess r f).pins p = s.pins p := by
  rw [State.modSess]
  split <;> rfl

theorem placeable_modSess (f : Session → Session) : (s.modSess r f).placeable p = s.placeable p := by
  rw [State.modSess]
  split <;> rfl

theorem profile_modSess (f : Session → Session) : (s.modSess r f).profile p = s.profile p := by
  rw [State.profile, State.modSess_profiles, State.profile]

section taken

variable (hbusy : (s.sess r).prof.busy = none) (hwipe : s.sec.wiping = false)
include hbusy hwipe

theorem doStore_taken : let t := s.modSess r fun x => { x with prof := { x.prof with busy := some (1, p) } }
    (storeRefusal r p t = none → doStore r p s = t) ∧ ∀ c, storeRefusal r p t = some c → doStore r p s = endProfileCmd r c t := by
  intro t
  have hexec : doStore r p s = _ := startProfileCmd_free hbusy hwipe
  exact ⟨fun h => hexec.trans (by rw [h]), fun c h => hexec.trans (by rw [h])⟩

/-- DELETE by the order of its refusals (R251). -/
theorem doDelete_taken : doDelete r p s =
    let t := s.modSess r fun x => { x with prof := { x.prof with busy := some (2, p) } }
    if s.profCap.toNat ≤ p then endProfileCmd r 1 t
    else if s.pins p ≠ 0 then endProfileCmd r 3 t
    else if (s.profile p).stored = false then endProfileCmd r 4 t
    else
      let u := writeMem 2 (storeSlot p) (List.replicate 0x40000 0) t
      let v := match (s.profile p).slot with
        | some i => writeMem 1 (cacheSlot i) (List.replicate 0x40000 0) u
        | none => u
      endPrefetches p 4 (v.modProfile p fun _ => {}) := by
  refine (startProfileCmd_free hbusy hwipe).trans ?_
  dsimp only
  rw [profile_modSess, pins_modSess, State.modSess_profCap]
  refine ite_of_iff Iff.rfl rfl (ite_of_iff Iff.rfl rfl (ite_of_iff (by rw [Bool.not_eq_true']) rfl ?_))
  cases (s.profile p).slot <;> rfl

/-- PREFETCH by the order of its refusals (R251). -/
theorem doPrefetch_taken : doPrefetch r p s =
    let t := s.modSess r fun x => { x with prof := { x.prof with busy := some (3, p) } }
    if s.profCap.toNat ≤ p then endProfileCmd r 1 t
    else if (s.profile p).stored = false then endProfileCmd r 4 t
    else if s.placeable p = false then endProfileCmd r 6 t
    else startFetch p t := by
  refine (startProfileCmd_free hbusy hwipe).trans ?_
  dsimp only
  rw [profile_modSess, placeable_modSess, State.modSess_profCap]
  exact ite_of_iff Iff.rfl rfl (ite_of_iff (by rw [Bool.not_eq_true']) rfl (ite_of_iff (by rw [Bool.not_eq_true']) rfl rfl))

end taken

end profileCommands

/-- Settles O39: the commands by the order of their refusals, a fetch by what opening the profile gives. -/
theorem profileCommandsTakeEffect : Obligations.ProfileCommandsTakeEffect := by
  unfold Obligations.ProfileCommandsTakeEffect
  refine ⟨fun r a s hacts => ?_, fun r s => ⟨fun hnone => ?_, fun p => ⟨fun hbusy => ⟨fun hok => ?_, fun c hc => ?_⟩, fun hbusy => ?_,
    fun hbusy => ⟨fun hnone => ?_, fun hsome => ?_⟩⟩⟩, fun p ups s => ⟨fun hnone => ?_, fun i hi => ⟨fun t ht => ?_, fun b t ht => ?_⟩⟩⟩
  · generalize hp : a % 2 ^ 20 = p
    have hstore : exec (.store r a) s = byReader .session r (doStore r p) s := by rw [← hp]; rfl
    have hdelete : exec (.delete r a) s = byReader .session r (doDelete r p) s := by rw [← hp]; rfl
    have hprefetch : exec (.prefetch r a) s = byReader .session r (doPrefetch r p) s := by rw [← hp]; rfl
    intro p
    refine ⟨fun hbar => ?_, fun hbusy hwipe => ?_⟩
    · exact ⟨exec_byReader hstore hacts (startProfileCmd_busy hbar),
        exec_byReader hdelete hacts (startProfileCmd_busy hbar),
        exec_byReader hprefetch hacts (startProfileCmd_busy hbar)⟩
    · intro taken ended x
      obtain ⟨hok, hbad⟩ := doStore_taken (p := p) hbusy hwipe
      have hdeleted := doDelete_taken (p := p) hbusy hwipe
      have hprefetched := doPrefetch_taken (p := p) hbusy hwipe
      refine ⟨fun h => exec_byReader hstore hacts (hok h), fun c h => exec_byReader hstore hacts (hbad c h),
        fun hcap => ⟨exec_byReader hdelete hacts (hdeleted.trans (if_pos hcap)),
          exec_byReader hprefetch hacts (hprefetched.trans (if_pos hcap))⟩, fun hcap => ?_⟩
      have hdel := fun {t : State} (h : _ = t) => exec_byReader hdelete hacts ((hdeleted.trans (if_neg (Nat.not_le.2 hcap))).trans h)
      have hpre := fun {t : State} (h : _ = t) => exec_byReader hprefetch hacts ((hprefetched.trans (if_neg (Nat.not_le.2 hcap))).trans h)
      refine ⟨fun hpin => hdel (if_pos hpin), fun hpin hempty => hdel ((if_neg (not_not_intro hpin)).trans (if_pos hempty)),
        fun hpin hstored => ?_, fun hempty => hpre (if_pos hempty),
        fun hstored hplace => hpre ((if_neg (ne_of_eq_ne hstored (by decide))).trans (if_pos hplace)),
        fun hstored hplace => hpre ((if_neg (ne_of_eq_ne hstored (by decide))).trans (if_neg (ne_of_eq_ne hplace (by decide))))⟩
      intro zeros u v
      exact hdel ((if_neg (not_not_intro hpin)).trans (if_neg (ne_of_eq_ne hstored (by decide))))
  · exact exec_done (exec_profileCmdEnd r s) (by rw [profileCmdEnd, hnone])
  · exact exec_done (exec_profileCmdEnd r s) (by rw [profileCmdEnd, hbusy]; dsimp only; rw [hok]; rfl)
  · exact exec_done (exec_profileCmdEnd r s) (by rw [profileCmdEnd, hbusy]; dsimp only; rw [hc]; rfl)
  · exact exec_done (exec_profileCmdEnd r s) (by rw [profileCmdEnd, hbusy]; rfl)
  · exact exec_done (exec_profileCmdEnd r s) (by
      rw [profileCmdEnd, hbusy]
      exact if_neg (by rw [hnone]; exact Bool.false_ne_true))
  · exact exec_done (exec_profileCmdEnd r s) (by
      rw [profileCmdEnd, hbusy]
      exact if_pos (Option.isSome_iff_ne_none.2 hsome))
  · rw [exec_profileFetchComplete, execProfileFetchComplete, hnone]
  · rw [exec_profileFetchComplete, execProfileFetchComplete, hi, ht]
    exact done_def _
  · rw [exec_profileFetchComplete, execProfileFetchComplete, hi, ht]
    exact done_def _

/-! ## Parking and restoring contexts -/

/-- A stream without a plan takes neither PARK nor RESUME. -/
theorem doPark_planless {id : Nat} {s : State} (h : s.plan? (s.stream id).plan.toNat = none) :
    doPark id s = streamErr id s ∧ doResume id s = streamErr id s := by
  rw [doPark, doResume, h]
  exact ⟨rfl, rfl⟩

section contexts

variable {id : Nat} {s : State} {p : PlanEnt} (hp : s.plan? (s.stream id).plan.toNat = some p)
include hp

/-- PARK where the address and the plan let it (R243, R287). -/
theorem doPark_eq : doPark id s =
    let x := s.stream id
    let n := s.ctxSize s.img p id
    if cmdFree x && (x.state == .admitted || x.state == .stopped) && decide (p.seqGroup ≤ 1) &&
      parkAddr x.park % 512 == 0 && s.inHost (parkTier x.park) (parkAddr x.park) n &&
      !s.lockedRegions.any (overlaps (parkTier x.park) (parkAddr x.park) n) then
      beginMove p 2 id (s.modStream id fun x => { x with busy := some .park, ctxAddr := x.park })
    else streamErr id s := by
  rw [doPark, hp]

/-- RESUME up to the context's header (R243, R254). -/
theorem doResume_barred (h : (cmdFree (s.stream id) && (s.stream id).state == .parked &&
    s.ctxPlace (s.stream id).park none) = false) : doResume id s = streamErr id s := by
  rw [doResume, hp]
  exact if_pos (by rw [h]; rfl)

/-- RESUME by what the header says (R243, R254). -/
theorem doResume_read (h : (cmdFree (s.stream id) && (s.stream id).state == .parked &&
    s.ctxPlace (s.stream id).park none) = true) {b : Option (List Byte)} {t : State} (hread : readCtxHeader (s.stream id).park s = (b, t)) :
    doResume id s =
      let x := s.stream id
      if !t.ctxPlace x.park b then streamErr id t
      else
        let fail := match (generalizing := false) b with
          | none => some 1
          | some b => ctxRefusal b p (t.queue (qid id 0)).depth t
        match fail with
        | some n => restoreRefused id n x.park (setResult id 0x15 n t)
        | none =>
          match admitRefusal p none t with
          | some c => setResult id c 0 t
          | none =>
            let b := b.getD []
            let u := moveVoice id (BitVec.ofNat 20 (ctxVoice b)) (takeLoad id p (setResult id 0 0 t))
            beginMove p 3 id (u.modStream id fun x => { x with
              busy := some .resume, ctxAddr := x.park, ctxHead := b, keyId := BitVec.ofNat 16 (field b 40 2) }) := by
  have hmay : ¬ (!(cmdFree (s.stream id) && (s.stream id).state == .parked && s.ctxPlace (s.stream id).park none)) = true := by
    rw [h]
    exact Bool.false_ne_true
  rw [doResume, hp, hread]
  refine (if_neg hmay).trans ?_
  rfl

/-- RESUME of a context whose header can be read and stands where it may (R254). -/
theorem doResume_header (h : (cmdFree (s.stream id) && (s.stream id).state == .parked &&
    s.ctxPlace (s.stream id).park none) = true) {b : List Byte} {t : State}
    (hread : readCtxHeader (s.stream id).park s = (some b, t)) (hplace : t.ctxPlace (s.stream id).park (some b) = true) :
    doResume id s =
      let x := s.stream id
      match ctxRefusal b p (t.queue (qid id 0)).depth t with
      | some n => restoreRefused id n x.park (setResult id 0x15 n t)
      | none =>
        match admitRefusal p none t with
        | some c => setResult id c 0 t
        | none =>
          let u := moveVoice id (BitVec.ofNat 20 (ctxVoice b)) (takeLoad id p (setResult id 0 0 t))
          beginMove p 3 id (u.modStream id fun x => { x with
            busy := some .resume, ctxAddr := x.park, ctxHead := b, keyId := BitVec.ofNat 16 (field b 40 2) }) := by
  rw [doResume_read hp h hread]
  exact if_neg (by rw [hplace]; exact Bool.false_ne_true)

/-- A park that is not at its firmware's turn, and one that is (R197, R252). -/
theorem exec_parkComplete_turn (hbusy : (s.stream id).busy = some .park) (hspill : s.holdsSpill (s.img.spillDie p) id = true) :
    exec (.parkComplete id) s =
      let c := s.img.ctxChannel p
      let q := queueFirmware c 2 id s
      if q.firmwareRuns c 2 id = false then .next q
      else
        let n := q.ctxSize q.img p id
        let t := unseat p id q
        if (t.stream id).busy ≠ some .park then
          done (t.modChannel c fun y => if y.state == .halted then { y with lastStatus := 3 } else y)
        else match moveSections c id p t with
          | (none, u) => done u
          | (some b, u) =>
            let body := u.ctxHeader u.img p id n ++ b ++ padded (u.entries id).flatten
            let a := parkAddr (s.stream id).ctxAddr
            let v := writeTagged (parkTier (s.stream id).ctxAddr) a body (s.stream id).keyId.toNat false (fun g => g - a / 512) u
            done (becomeParked id n (endControl c 0 (noteContext c n v))) := by
  have hturn : ¬ ((s.stream id).busy != some .park || !s.holdsSpill (s.img.spillDie p) id) = true := by
    rw [hbusy, hspill]
    decide
  rw [exec_parkComplete, execParkComplete, hp]
  refine (if_neg hturn).trans (ite_of_iff (by rw [Bool.not_eq_true']) rfl (ite_of_iff (bne_iff_ne) rfl rfl))

theorem exec_parkComplete_idle (h : (s.stream id).busy ≠ some .park ∨ s.holdsSpill (s.img.spillDie p) id = false) :
    exec (.parkComplete id) s = .next s := by
  rw [exec_parkComplete, execParkComplete, hp]
  exact if_pos (by rw [Bool.or_eq_true, bne_iff_ne, Bool.not_eq_true']; exact h)

section restore

variable {ups : List Upset} (hbusy : (s.stream id).busy = some .resume ∨ (s.stream id).busy = some .openRestore)
  (hspill : s.holdsSpill (s.img.spillDie p) id = true)
include hbusy hspill

/-- A restore whose firmware is at its turn or not (R197). -/
theorem exec_restoreComplete_turn : exec (.restoreComplete id ups) s =
    let x := s.stream id
    let c := s.img.ctxChannel p
    let q := queueFirmware c 3 id s
    if q.firmwareRuns c 3 id = false then .next q
    else
      let n := ctxTotalLen x.ctxHead
      match readContext (parkTier x.ctxAddr) (parkAddr x.ctxAddr) x.keyId.toNat (n / 512) 0 (applyUpsets ups q) with
      | (.bad tier g i, t) =>
        done (abortStream id 6 (BitVec.ofNat 32 i) 0 (tagConsumerFail tier g x.keyId.toNat false i 2 (endControl c 4 t)))
      | (.ue tier a, t) => done (endHalted c (tierAddr tier a) id 0xFFFF t)
      | (.ok b, t) =>
        let u := leaveSpill id (loadContext id p x.ctxHead b (endControl c 0 (noteContext c n t)))
        let u := u.modStream id fun y => { y with
          state := if x.busy == some .resume then .admitted else y.state, busy := none }
        let v := post id 1 7 0 0 u.tl.pos (u.stream id).ctxTokens 0 u
        done (progress id (settleHead id (v.queue (qid id 0)).held v)) := by
  have hturn : ¬ (!((s.stream id).busy == some .resume || (s.stream id).busy == some .openRestore) ||
      !s.holdsSpill (s.img.spillDie p) id) = true := by
    rw [hspill]
    rcases hbusy with h | h <;> rw [h] <;> decide
  rw [exec_restoreComplete, execRestoreComplete, hp]
  exact (if_neg hturn).trans (ite_of_iff (by rw [Bool.not_eq_true']) rfl rfl)

/-- A restore by what its read of the context gives (R254). -/
theorem exec_restoreComplete_read (hrun : (queueFirmware (s.img.ctxChannel p) 3 id s).firmwareRuns (s.img.ctxChannel p) 3 id = true)
    {m : GRead} {t : State}
    (hread : readContext (parkTier (s.stream id).ctxAddr) (parkAddr (s.stream id).ctxAddr) (s.stream id).keyId.toNat
      (ctxTotalLen (s.stream id).ctxHead / 512) 0 (applyUpsets ups (queueFirmware (s.img.ctxChannel p) 3 id s)) = (m, t)) :
    exec (.restoreComplete id ups) s =
      let x := s.stream id
      let c := s.img.ctxChannel p
      match (generalizing := false) m with
      | .bad tier g i =>
        done (abortStream id 6 (BitVec.ofNat 32 i) 0 (tagConsumerFail tier g x.keyId.toNat false i 2 (endControl c 4 t)))
      | .ue tier a => done (endHalted c (tierAddr tier a) id 0xFFFF t)
      | .ok b =>
        let u := leaveSpill id (loadContext id p x.ctxHead b (endControl c 0 (noteContext c (ctxTotalLen x.ctxHead) t)))
        let u := u.modStream id fun y => { y with
          state := if x.busy = some .resume then .admitted else y.state, busy := none }
        let v := post id 1 7 0 0 u.tl.pos (u.stream id).ctxTokens 0 u
        done (progress id (settleHead id (v.queue (qid id 0)).held v)) := by
  have hstate (y : StState) : (if (s.stream id).busy == some .resume then StState.admitted else y) =
      if (s.stream id).busy = some .resume then .admitted else y := ite_of_iff beq_iff_eq rfl rfl
  refine ((exec_restoreComplete_turn hp hbusy hspill).trans (if_neg (ne_of_eq_ne hrun (by decide)))).trans ?_
  dsimp only
  rw [hread]
  cases m with
  | bad tier g i => rfl
  | ue tier a => rfl
  | ok b => simp only [hstate]

end restore

theorem exec_restoreComplete_idle {ups : List Upset} (h : ((s.stream id).busy ≠ some .resume ∧
    (s.stream id).busy ≠ some .openRestore) ∨ s.holdsSpill (s.img.spillDie p) id = false) :
    exec (.restoreComplete id ups) s = .next s := by
  rw [exec_restoreComplete, execRestoreComplete, hp]
  refine if_pos ?_
  rw [Bool.or_eq_true, Bool.not_eq_true', Bool.not_eq_true', Bool.or_eq_false_iff, beq_eq_false_iff_ne, beq_eq_false_iff_ne]
  exact h

end contexts

/-- A stream that is parked, with the place of its context. -/
def ParkedAt (id : Nat) (a : W64) (s : State) : Prop := (s.stream id).state = .parked ∧ (s.stream id).park = a

section parkedAt

variable {id : Nat} {a : W64} {s : State}

/-- An update of the stream that changes neither its state nor its place leaves it parked there. -/
theorem ParkedAt.modStream (h : ParkedAt id a s) {f : Stream → Stream} (hstate : ∀ x, (f x).state = x.state)
    (hpark : ∀ x, (f x).park = x.park) : ParkedAt id a (s.modStream id f) := by
  obtain ⟨hs, hp⟩ := h
  have hlisted : f (s.stream id) ≠ {} := Stream.listed (by rw [hstate, hs]; decide)
  rw [ParkedAt, State.stream_modStream_ne hlisted, hstate, hpark]
  exact ⟨hs, hp⟩

theorem ParkedAt.of_streams (h : ParkedAt id a s) {t : State} (ht : t.streams = s.streams) : ParkedAt id a t := by
  rw [ParkedAt, State.stream, ht]
  exact h

theorem queueRepair_streams (tier page : Nat) (s : State) : (queueRepair tier page s).streams = s.streams := by
  rw [queueRepair]
  split
  · rfl
  · dsimp only
    split
    · rfl
    · split <;> rfl

theorem countPoison_streams (tier : Nat) (ws : List Nat) (s : State) : (countPoison tier ws s).streams = s.streams := by
  rw [countPoison]
  split <;> rfl

theorem countCe_streams (tier : Nat) (ws : List Nat) (s : State) : (countCe tier ws s).streams = s.streams := by
  rw [countCe]
  split <;> rfl

/-- A fixed-path read leaves every stream as it is. -/
theorem readFixed_streams (cls stream tier a n : Nat) (s : State) : (readFixed cls stream tier a n s).2.streams = s.streams := by
  have hcounted : (countPoison tier (wordsOf a n) (countCe tier (wordsOf a n) s)).streams = s.streams :=
    (countPoison_streams ..).trans (countCe_streams ..)
  rw [readFixed]
  split
  · exact hcounted
  · exact (queueRepair_streams ..).trans hcounted

theorem startFetch_streams (p : Nat) (s : State) : (startFetch p s).streams = s.streams := by
  rw [startFetch]
  split
  · rfl
  · split
    · rfl
    · split <;> rfl

theorem ParkedAt.moveVoice (h : ParkedAt id a s) (p : BitVec 20) : ParkedAt id a (moveVoice id p s) := by
  have hunpin : ParkedAt id a (unpin id s) := by
    rw [unpin]
    split
    · exact (h.modStream (f := fun x => { x with pinned := false }) (fun _ => rfl) fun _ => rfl).of_streams rfl
    · exact h
  exact (hunpin.modStream (f := fun x => { x with voice := p, pinned := true }) (fun _ => rfl) fun _ => rfl).of_streams
    (startFetch_streams ..)

theorem ParkedAt.takeLoad (h : ParkedAt id a s) (p : PlanEnt) : ParkedAt id a (takeLoad id p s) :=
  (ParkedAt.modStream (f := fun x => { x with
      holdsLoad := true, order := s.orders, area := s.freeArea p
      place := (lowestFree (fun k => (s.setOnPlan p.plan (s.onPlan p.plan ++ [id])).streams.any fun e =>
        e.2.holdsLoad && e.2.place == k) 65536 0).getD 0 })
    (h.of_streams (t := s.setOnPlan p.plan (s.onPlan p.plan ++ [id])) rfl) (fun _ => rfl) fun _ => rfl).of_streams rfl

end parkedAt

/-- Settles O37: both commands by their refusals in order, the ends of a park and a restore by what their reads give. -/
theorem contextsAreParkedAndRestored : Obligations.ContextsAreParkedAndRestored := by
  unfold Obligations.ContextsAreParkedAndRestored
  refine ⟨fun r s hacts hp => ?_, fun r p s hacts => ?_, fun p role id s => rfl, fun id p s hp hbusy hspill => ?_,
    fun id p s hp hidle => exec_parkComplete_idle hp hidle, fun id p ups s hp => ?_⟩
  · exact ⟨exec_byReader (exec_park r s) hacts (doPark_planless hp).1, exec_byReader (exec_resume r s) hacts (doPark_planless hp).2⟩
  · intro id x hp n ok err
    refine ⟨fun hok => exec_byReader (exec_park r s) hacts ((doPark_eq hp).trans (if_pos hok)),
      fun hok => exec_byReader (exec_park r s) hacts ((doPark_eq hp).trans (if_neg (ne_of_eq_ne hok Bool.false_ne_true))),
      fun hbar => exec_byReader (exec_resume r s) hacts (doResume_barred hp hbar), fun hmay h t hread => ?_⟩
    have hresume := doResume_read hp hmay hread
    refine ⟨fun hplace => ?_, fun hplace => ?_⟩
    · exact exec_byReader (exec_resume r s) hacts (hresume.trans (if_pos (by rw [hplace]; rfl)))
    · cases h with
      | none =>
        refine ⟨fun k hfail => ?_, fun hfail => ?_, fun b hb => ?_⟩
        · rw [← Option.some.inj (show some 1 = some k from hfail)]
          exact exec_byReader (exec_resume r s) hacts (hresume.trans (if_neg (by rw [hplace]; exact Bool.false_ne_true)))
        · exact nomatch (show some 1 = none from hfail)
        · exact nomatch (show none = some b from hb)
      | some b =>
        have hin := doResume_header hp hmay hread hplace
        refine ⟨fun k hfail => ?_, fun hfail k hk => ?_, fun b' hb hfail hadmit => ?_⟩
        · refine exec_byReader (exec_resume r s) hacts (hin.trans ?_)
          rw [show ctxRefusal b p (t.queue (qid id 0)).depth t = some k from hfail]
          rfl
        · refine exec_byReader (exec_resume r s) hacts (hin.trans ?_)
          rw [show ctxRefusal b p (t.queue (qid id 0)).depth t = none from hfail, hk]
          rfl
        · intro u
          have hparked : ParkedAt id x.park s := by
            rw [Bool.and_eq_true, Bool.and_eq_true, beq_iff_eq] at hmay
            exact ⟨hmay.1.2, rfl⟩
          have hstays : ParkedAt id x.park t := by
            refine hparked.of_streams ?_
            rw [← show (readCtxHeader x.park s).2 = t from congrArg Prod.snd hread]
            exact readFixed_streams ..
          have hpark : ((moveVoice id (BitVec.ofNat 20 (ctxVoice b)) u).stream id).park = x.park :=
            (((hstays.modStream (f := fun x => { x with result := 0, detail := 0 }) (fun _ => rfl)
              fun _ => rfl).takeLoad p).moveVoice (BitVec.ofNat 20 (ctxVoice b))).2
          refine exec_byReader (exec_resume r s) hacts (hin.trans ?_)
          rw [show ctxRefusal b p (t.queue (qid id 0)).depth t = none from hfail, hadmit, ← Option.some.inj hb, ← hpark]
          rfl
  · intro x c q
    have hturn := exec_parkComplete_turn hp hbusy hspill
    refine ⟨fun hwait => hturn.trans (if_pos hwait), fun hrun => ?_⟩
    intro n t
    have hruns := hturn.trans (if_neg (ne_of_eq_ne hrun (by decide)))
    refine ⟨fun hgone => (hruns.trans (if_pos hgone)).trans (done_def _), fun hstays => ?_⟩
    have hmoves := hruns.trans (if_neg (not_not_intro hstays))
    refine ⟨fun u hu => hmoves.trans ?_, fun b u hu => ?_⟩
    · rw [hu]
      exact done_def _
    · intro a body v
      refine hmoves.trans ?_
      rw [hu]
      exact done_def _
  · intro x c q
    refine ⟨fun hidle => exec_restoreComplete_idle hp hidle, fun hbusy hspill => ?_⟩
    refine ⟨fun hwait => (exec_restoreComplete_turn hp hbusy hspill).trans (if_pos hwait), fun hrun => ?_⟩
    intro n got
    refine ⟨fun tier g i t hgot => (exec_restoreComplete_read hp hbusy hspill hrun hgot).trans (done_def _),
      fun tier a t hgot => (exec_restoreComplete_read hp hbusy hspill hrun hgot).trans (done_def _), fun b t hgot => ?_⟩
    exact (exec_restoreComplete_read hp hbusy hspill hrun hgot).trans (done_def _)

end Sys2Proof.Machine
end

section
/-! The obligations of transactions, interrupt registers and the IMAGE block (R159 to R164, R259 to R276, R452, R453). -/

namespace Sys2Proof.Machine

/-! ## Transactions -/

/-- A SUBMIT takes the next ID and empties the buffer, whatever it decides (R263). -/
def submitted (r : Nat) (s : State) : State :=
  ({ s with txn := { s.txn with nextId := nextTxnId s.txn.nextId } } : State).modSess r fun x =>
    { x with txn := { x.txn with id := s.txn.nextId, build := [] } }

/-- What a SUBMIT leaves in TXN_STATUS. -/
def submitResult (r c i : Nat) (s : State) : State :=
  s.modSess r fun x => { x with txn := { x.txn with code := BitVec.ofNat 8 c, index := BitVec.ofNat 6 i } }

/-- A refused SUBMIT with its code and action (R264). -/
def submitRefused (r c i : Nat) (s : State) : State :=
  submitResult r c i (newOutcome ⟨s.txn.nextId, .refused, BitVec.ofNat 8 c, BitVec.ofNat 6 i⟩ (submitted r s))

/-- A SUBMIT whose position cannot be used (R262). -/
theorem txnSubmit_unplaced {r : Nat} {imm rtp : Bool} {s : State} (h : commitPos rtp imm (s.sess r).txn (submitted r s) = none) :
    txnSubmit r imm rtp s = submitRefused r 0x0D 0 s := by
  rw [txnSubmit]
  change (match commitPos rtp imm (s.sess r).txn (submitted r s) with | none => _ | some n => _) = _
  rw [h]
  rfl

section submit

variable {r n : Nat} {imm rtp : Bool} {s : State} (h : commitPos rtp imm (s.sess r).txn (submitted r s) = some n)
include h

theorem txnSubmit_empty (hbuild : (s.sess r).txn.build = []) : txnSubmit r imm rtp s = submitRefused r 1 0 s := by
  rw [txnSubmit]
  change (match commitPos rtp imm (s.sess r).txn (submitted r s) with | none => _ | some n => _) = _
  rw [h]
  exact if_pos (List.isEmpty_iff.2 hbuild)

variable (hbuild : (s.sess r).txn.build ≠ [])
include hbuild

/-- A SUBMIT whose actions are checked (R264). -/
theorem txnSubmit_checked {d : List Nat ⊕ (Nat × Nat)}
    (hd : checkActions (if imm then none else some n) false (s.sess r).txn.build 0 [] ((submitted r s).takenBy none) []
      (submitted r s) = d) : txnSubmit r imm rtp s =
    match (generalizing := false) d with
    | .inr (c, i) => submitRefused r c i s
    | .inl ds =>
      let u := submitted r s
      if 256 ≤ u.txn.set.length then submitRefused r 7 0 s
      else
        let t : Txn := { id := s.txn.nextId, actions := (s.sess r).txn.build
                         pos := (if imm then none else some n).map (BitVec.ofNat 64), deadlines := ds.map (BitVec.ofNat 64)
                         applied := (s.sess r).txn.build.map fun _ => false }
        let v := newOutcome ⟨s.txn.nextId, .pending, 0, 0⟩
          (submitResult r 0 0 { u with txn := { u.txn with set := u.txn.set ++ [t] } })
        if imm then runImmediate t v else v := by
  rw [txnSubmit]
  change (match commitPos rtp imm (s.sess r).txn (submitted r s) with | none => _ | some n => _) = _
  rw [h]
  refine (if_neg (mt List.isEmpty_iff.1 hbuild)).trans ?_
  change (match checkActions (if imm then none else some n) false (s.sess r).txn.build 0 [] ((submitted r s).takenBy none) []
      (submitted r s) with | .inr (c, i) => _ | .inl ds => _) = _
  rw [hd] <;> rfl

end submit

/-- No ID is 0 (R263). -/
theorem nextTxnId_ne_zero (id : W32) : nextTxnId id ≠ 0 := by
  rw [nextTxnId]
  split
  next => decide
  next h => exact h

/-- Settles O40: the buffer's commands by its length, SUBMIT by the first of its checks that fails. -/
theorem transactionsAreBuiltAndSubmitted : Obligations.TransactionsAreBuiltAndSubmitted := by
  unfold Obligations.TransactionsAreBuiltAndSubmitted
  refine ⟨fun r s hacts => ?_, fun r imm rtp s hacts => ?_, nextTxnId_ne_zero⟩
  · intro build
    refine ⟨fun hroom => ?_, fun hfull => ?_, ?_, fun t ht => ?_, fun hnone => ?_⟩
    · exact exec_byReader (exec_txnAppend r s) hacts (if_neg (Nat.not_le.2 hroom))
    · exact exec_byReader (exec_txnAppend r s) hacts (if_pos hfull)
    · exact exec_byReader (exec_txnClear r s) hacts rfl
    · exact exec_byReader (exec_txnCancel r s) hacts (by rw [txnCancel, ht])
    · exact exec_byReader (exec_txnCancel r s) hacts (by rw [txnCancel, hnone]; rfl)
  · intro y id u end_ refused
    have hsubmit {t : State} (h : txnSubmit r imm rtp s = t) : exec (.txnSubmit r imm rtp) s = .next t.settle :=
      exec_byReader (exec_txnSubmit r imm rtp s) hacts h
    refine ⟨fun hnone => hsubmit (txnSubmit_unplaced hnone), fun n hn => ⟨fun hempty => hsubmit (txnSubmit_empty hn hempty),
      fun hbuild => ?_⟩⟩
    intro at_
    refine ⟨fun c i hbad => hsubmit (txnSubmit_checked hn hbuild hbad), fun ds hgood => ?_⟩
    have hchecked := txnSubmit_checked hn hbuild hgood
    refine ⟨fun hset => hsubmit (hchecked.trans (if_pos hset)), fun hset => ?_⟩
    intro t v
    exact hsubmit (hchecked.trans (if_neg (Nat.not_le.2 hset)))

/-! ## Interrupt registers -/

/-- Settles O41: the destination by what its entry is. -/
theorem interruptRegistersAreWritten : Obligations.InterruptRegistersAreWritten := by
  unfold Obligations.InterruptRegistersAreWritten
  intro r v s hacts
  have hbad : (v.getLsbD 31 && decide (destKind (s.dest (v.setWidth 12 : BitVec 12).toNat) ≠ 2)) = true ↔
      (v.getLsbD 31 = true ∧ destKind (s.dest (v.setWidth 12 : BitVec 12).toNat) ≠ 2) := by
    rw [Bool.and_eq_true, decide_eq_true_iff]
  exact ⟨exec_byReader (exec_intEnable r v s) hacts rfl, fun h => exec_byReader (exec_intDest r v s) hacts (if_pos (hbad.2 h)),
    fun h => exec_byReader (exec_intDest r v s) hacts (if_neg (mt hbad.1 h))⟩

/-! ## The IMAGE block -/

section image

variable {s : State}

/-- A command of the IMAGE block that it does not take (R159, R160). -/
theorem not_taken {b : Bool} {p : Prop} (hb : b = true → p) (h : s.imageTakes = false ∨ ¬ p) : ¬ (s.imageTakes && b) = true := by
  rw [Bool.and_eq_true]
  exact fun ht => h.elim (fun hn => Bool.false_ne_true (hn.symm.trans ht.1)) fun hn => hn (hb ht.2)

theorem taken {b : Bool} (htakes : s.imageTakes = true) (hb : b = true) : (s.imageTakes && b) = true := by
  rw [htakes, hb]
  rfl

end image

/-- Settles O42: each command by the states that take it. -/
theorem imageCommandsMoveBetweenStates : Obligations.ImageCommandsMoveBetweenStates := by
  unfold Obligations.ImageCommandsMoveBetweenStates
  intro r v s hacts x refused
  have hlen : (x.state == .empty || x.state == .staged || x.state == .rejected) = true ↔
      (x.state = .empty ∨ x.state = .staged ∨ x.state = .rejected) := by
    rw [Bool.or_eq_true, Bool.or_eq_true, beq_iff_eq, beq_iff_eq, beq_iff_eq, or_assoc]
  have hdiscard : (x.state == .staged || x.state == .verified || x.state == .rejected) = true ↔
      (x.state = .staged ∨ x.state = .verified ∨ x.state = .rejected) := by
    rw [Bool.or_eq_true, Bool.or_eq_true, beq_iff_eq, beq_iff_eq, beq_iff_eq, or_assoc]
  refine ⟨fun htakes => ⟨fun h => ?_, fun h => ?_, fun h => ?_, fun h => ?_, fun h hopen => ?_, fun h hopen => ?_⟩,
    fun h => ?_, fun h => ?_, fun h => ?_, fun h => ?_, fun h => ?_⟩
  · exact exec_byReader (exec_imageLen r v s) hacts (if_pos (taken htakes (hlen.2 h)))
  · exact exec_byReader (exec_verify r s) hacts (if_pos (taken htakes (beq_iff_eq.2 h)))
  · exact exec_byReader (exec_activate r s) hacts (if_pos (taken htakes (beq_iff_eq.2 h)))
  · exact exec_byReader (exec_discard r s) hacts (if_pos (taken htakes (hdiscard.2 h)))
  · exact exec_byReader (exec_deactivate r s) hacts ((if_pos (taken htakes (beq_iff_eq.2 h))).trans (if_pos hopen))
  · exact exec_byReader (exec_deactivate r s) hacts
      ((if_pos (taken htakes (beq_iff_eq.2 h))).trans (if_neg (not_not_intro hopen)))
  · exact exec_byReader (exec_imageLen r v s) hacts (if_neg (not_taken hlen.1 (h.imp_right fun ⟨he, hs, hr⟩ hin =>
      hin.elim he fun hin => hin.elim hs hr)))
  · exact exec_byReader (exec_verify r s) hacts (if_neg (not_taken beq_iff_eq.1 h))
  · exact exec_byReader (exec_activate r s) hacts (if_neg (not_taken beq_iff_eq.1 h))
  · exact exec_byReader (exec_deactivate r s) hacts (if_neg (not_taken beq_iff_eq.1 h))
  · exact exec_byReader (exec_discard r s) hacts (if_neg (not_taken hdiscard.1 (h.imp_right fun ⟨hs, hv, hr⟩ hin =>
      hin.elim hs fun hin => hin.elim hv hr)))

/-! ## The ends of VERIFY and ACTIVATE -/

/-- VERIFY's end by what it reads (R157, R160). -/
theorem exec_verifyComplete_read {s t : State} {b : List Byte} {f : Option ImgFail} (hstate : s.image.state = .verifying)
    (hread : verifyRead (min (max 128 s.image.len.toNat) s.stageSize) s = (b, t)) (hf : verifyImage b t.image.len.toNat t = f) :
    exec .verifyComplete s = match (generalizing := false) f with
      | some f => done (imageFailed f (t.modImage fun x => { x with state := .rejected, staged := none }))
      | none => done (imageResult none (t.modImage fun x => { x with state := .verified, staged := some (readImage b) })) := by
  have hgo : ¬ (s.image.state != .verifying) = true := by rw [hstate]; decide
  rw [exec_verifyComplete, execVerifyComplete, if_neg hgo]
  dsimp only
  rw [hread]
  dsimp only
  rw [hf] <;> cases f <;> rfl

/-- ACTIVATE's step that fails leaves the image VERIFIED (R160, R164). -/
def activateFailed (f : ImgFail) (s : State) : State := imageFailed f (s.modImage fun x => { x with state := .verified, active := none })

/-- ACTIVATE's last step (R162). -/
def activateDone (m : Image) (s : State) : State :=
  record 0x0B02 (lo32 m.id) (hi32 m.id) m.svn (BitVec.ofNat 32 m.numSlots)
    (setUp m (imageResult none (s.modImage fun x => { x with
      state := .active, active := some m, digest := Config.sha384 (s.mem.t2.deliver 0 (s.image.len.toNat - 128)) })))

/-- A step of ACTIVATE: its failure, or the next one. -/
def activateThen (r : Option ImgFail × State) (next : State → Result) : Result :=
  match r with
  | (some f, s) => done (activateFailed f s)
  | (none, s) => next s

theorem activateThen_fails {r : Option ImgFail × State} {next : State → Result} {f : ImgFail} {t : State} (h : r = (some f, t)) :
    activateThen r next = done (activateFailed f t) := by rw [h, activateThen]

theorem activateThen_passes {r : Option ImgFail × State} {next : State → Result} {t : State} (h : r = (none, t)) :
    activateThen r next = next t := by rw [h, activateThen]

/-- ACTIVATE's end as its steps in order (R162). -/
theorem exec_activateComplete_steps {ups : List Upset} {s : State} {m : Image} (hstate : s.image.state = .activating)
    (hstaged : s.image.staged = some m) : exec (.activateComplete ups) s =
      let z := applyUpsets ups s
      activateThen (readSections m [3, 6] (z.setTier 0 (zeroRegions m z.mem.t0))) fun t =>
        activateThen (checkDigests m.tensorsByTid (copyTables m t)) fun u =>
          activateThen (fillCaches m m.tensorsByTid u) fun v =>
            activateThen (readSections m [2, 4, 7, 8, 9, 10] v) fun w => done (activateDone m w) := by
  have hgo : ¬ (s.image.state != .activating) = true := by rw [hstate]; decide
  rw [exec_activateComplete, execActivateComplete, hstaged]
  exact if_neg hgo

/-- Settles O43: VERIFY by the check of what it read, ACTIVATE step by step. -/
theorem verifyAndActivateEnd : Obligations.VerifyAndActivateEnd := by
  unfold Obligations.VerifyAndActivateEnd
  intro failed
  refine ⟨fun s => ⟨fun hstate => ?_, fun hstate b t hread => ⟨fun hf => ?_, fun f hf => ?_⟩⟩,
    fun ups s => ⟨fun hno => ?_, fun m hstate hstaged => ?_⟩⟩
  · exact if_pos (bne_iff_ne.2 hstate)
  · exact (exec_verifyComplete_read hstate hread hf).trans (done_def _)
  · exact (exec_verifyComplete_read hstate hread hf).trans (done_def _)
  · rw [exec_activateComplete, execActivateComplete]
    split
    · rfl
    next m hm => exact if_pos (bne_iff_ne.2 (hno.resolve_right fun h => nomatch hm.symm.trans h))
  · intro left z zeroed
    have hsteps := exec_activateComplete_steps (ups := ups) hstate hstaged
    refine ⟨fun f t hf => (hsteps.trans (activateThen_fails hf)).trans (done_def _), fun t ht => ?_⟩
    have hread := hsteps.trans (activateThen_passes ht)
    refine ⟨fun f u hf => (hread.trans (activateThen_fails hf)).trans (done_def _), fun u hu => ?_⟩
    have hdigest := hread.trans (activateThen_passes hu)
    refine ⟨fun f v hf => (hdigest.trans (activateThen_fails hf)).trans (done_def _), fun v hv => ?_⟩
    have hfilled := hdigest.trans (activateThen_passes hv)
    exact ⟨fun f w hf => (hfilled.trans (activateThen_fails hf)).trans (done_def _),
      fun w hw => (hfilled.trans (activateThen_passes hw)).trans (done_def _)⟩

end Sys2Proof.Machine
end

section
/-! The obligations of training, fill, Drone and the word code (R291 to R299, R308 to R310). -/

namespace Sys2Proof.Machine

/-! ## Training and fill -/

/-- A list of sockets holds one part exactly when every two of them hold the same. -/
theorem samePart_cons_iff (ds : List Dimm) (i : Nat) (l : List Nat) :
    samePart ds (i :: l) = true ↔ ∀ j ∈ l, (ds[j]?).map (·.part) = (ds[i]?).map (·.part) := by
  rw [samePart, beq_iff_eq, List.map_cons, List.eraseDups_cons, List.length_cons, Nat.add_eq_right, List.length_eq_zero_iff,
    List.eq_nil_iff_forall_not_mem]
  constructor
  · intro hnone j hj
    refine Classical.byContradiction fun hne => ?_
    refine hnone ((ds[j]?).map (·.part)) (List.mem_eraseDups.2 (List.mem_filter.2 ⟨List.mem_map_of_mem hj, ?_⟩))
    rw [beq_false_of_ne hne]
    rfl
  · intro hsame p hp
    obtain ⟨hp, hne⟩ := List.mem_filter.1 (List.mem_eraseDups.1 hp)
    obtain ⟨j, hj, rfl⟩ := List.mem_map.1 hp
    rw [hsame j hj, beq_self_eq_true] at hne
    exact absurd hne (by decide)

/-- The sockets of a choice of R292 are usable and of one part. -/
theorem usable_and_same {ds : List Dimm} {i : Nat} {l : List Nat}
    (h : ((i :: l).all (usable ds) && samePart ds (i :: l)) = true) :
    ∀ a ∈ i :: l, usable ds a = true ∧ ∀ b ∈ i :: l, (ds[a]?).map (·.part) = (ds[b]?).map (·.part) := by
  obtain ⟨husable, hsame⟩ := Bool.and_eq_true_iff.1 h
  have hfirst : ∀ a ∈ i :: l, (ds[a]?).map (·.part) = (ds[i]?).map (·.part) := fun a ha =>
    (List.mem_cons.1 ha).elim (fun h => h ▸ rfl) ((samePart_cons_iff ds i l).1 hsame a)
  exact fun a ha => ⟨List.all_eq_true.1 husable a ha, fun b hb => (hfirst a ha).trans (hfirst b hb).symm⟩

/-- The sockets that R292 chooses: eight, the even four, or none. -/
theorem chooseDimms_cases (ds : List Dimm) :
    (∀ i ∈ chooseDimms ds, usable ds i = true ∧ ∀ j ∈ chooseDimms ds, (ds[i]?).map (·.part) = (ds[j]?).map (·.part)) ∧
    (chooseDimms ds = [0, 1, 2, 3, 4, 5, 6, 7] ∨ chooseDimms ds = [0, 2, 4, 6] ∨ chooseDimms ds = []) := by
  rw [chooseDimms]
  split
  next h => exact ⟨usable_and_same h, .inl rfl⟩
  next =>
    split
    next h => exact ⟨usable_and_same h, .inr (.inl rfl)⟩
    next => exact ⟨fun _ hi => absurd hi (List.not_mem_nil), .inr (.inr rfl)⟩

/-- Eight usable sockets of one part are all chosen. -/
theorem chooseDimms_all {ds : List Dimm}
    (h : ∀ i, i < 8 → usable ds i = true ∧ (ds[i]?).map (·.part) = (ds[0]?).map (·.part)) :
    chooseDimms ds = [0, 1, 2, 3, 4, 5, 6, 7] := by
  have hlt : ∀ i ∈ [0, 1, 2, 3, 4, 5, 6, 7], i < 8 := by decide
  rw [chooseDimms, if_pos]
  exact Bool.and_eq_true_iff.2 ⟨List.all_eq_true.2 fun i hi => (h i (hlt i hi)).1,
    (samePart_cons_iff ds 0 _).2 fun j hj => (h j (hlt j (List.mem_cons_of_mem 0 hj))).2⟩

/-- A training ends once, in stage TRAINING. -/
theorem not_training_iff (stage : BitVec 3) (trained : Bool) :
    (stage != 3 || trained) = true ↔ (stage ≠ 3 ∨ trained = true) := by
  rw [Bool.or_eq_true_iff, bne_iff_ne]

/-- When a tier fills (R294, R432). -/
theorem not_filling_iff (tier : Nat) (s : State) :
    (decide (s.pwr.stage.toNat < 3) || s.pwr.state != .boot || decide (2 < tier) || !s.filling tier) = true ↔
    (s.pwr.stage.toNat < 3 ∨ s.pwr.state ≠ .boot ∨ 2 < tier ∨ s.filling tier = false) := by
  rw [Bool.or_eq_true_iff, Bool.or_eq_true_iff, Bool.or_eq_true_iff, bne_iff_ne, decide_eq_true_iff, decide_eq_true_iff,
    Bool.not_eq_true', or_assoc, or_assoc]

/-- A tier that fills while boot is in TRAINING or later. -/
theorem filling_takes {tier : Nat} {s : State} (hstage : 3 ≤ s.pwr.stage.toNat) (hboot : s.pwr.state = .boot) (htier : tier ≤ 2)
    (hfilling : s.filling tier = true) :
    ¬ (decide (s.pwr.stage.toNat < 3) || s.pwr.state != .boot || decide (2 < tier) || !s.filling tier) = true := by
  intro h
  rcases (not_filling_iff tier s).1 h with h | h | h | h
  · exact absurd h (Nat.not_lt.2 hstage)
  · exact h hboot
  · exact absurd h (Nat.not_lt.2 htier)
  · exact absurd (hfilling.symm.trans h) (by decide)

/-- The last fill makes READY what the other two tiers and FAULT leave (R293, R294). -/
theorem setReady_done {s t : State} {b : Bool} (h : t = { s with mem := { s.mem with ready := b } })
    (hb : b = (s.mem.sramDone && s.mem.hbmDone && s.mem.ddrDone && !s.mem.fault)) : done (setReady s) = .next t.settle := by
  rw [h, hb]
  exact done_def _

/-- Settles O44: each training by its stage, the choice by the cases of R292, each fill by its tier. -/
theorem trainingAndFillMakeMemoryReady : Obligations.TrainingAndFillMakeMemoryReady := by
  unfold Obligations.TrainingAndFillMakeMemoryReady
  refine ⟨fun fail s => ⟨fun h => ?_, fun hstage htrained => ?_⟩, fun ds s => ⟨fun h => ?_, fun hstage htrained => ?_⟩,
    fun ds => ⟨(chooseDimms_cases ds).2, (chooseDimms_cases ds).1, chooseDimms_all⟩, fun tier s => ⟨fun h => ?_, ?_⟩⟩
  · exact (exec_hbmTrainingComplete fail s).trans (if_pos ((not_training_iff _ _).2 h))
  · have hbusy : ¬ (s.pwr.stage != 3 || s.mem.hbmTrained) = true := fun h => ((not_training_iff _ _).1 h).elim
      (fun h => h hstage) (fun h => absurd (htrained.symm.trans h) (by decide))
    have hexec := (exec_hbmTrainingComplete fail s).trans (if_neg hbusy)
    exact ⟨fun h => (hexec.trans (if_pos h)).trans (done_def _), fun h => (hexec.trans (if_neg h)).trans (done_def _)⟩
  · exact (exec_ddrTrainingComplete ds s).trans (if_pos ((not_training_iff _ _).2 h))
  · have hbusy : ¬ (s.pwr.stage != 3 || s.mem.ddrTrained) = true := fun h => ((not_training_iff _ _).1 h).elim
      (fun h => h hstage) (fun h => absurd (htrained.symm.trans h) (by decide))
    exact ((exec_ddrTrainingComplete ds s).trans (if_neg hbusy)).trans (done_def _)
  · exact (exec_tierFillComplete tier s).trans (if_pos ((not_filling_iff tier s).2 h))
  · intro hstage hboot
    refine ⟨fun hfill => ?_, fun htrained hfill => ?_, fun htrained hfill => ?_⟩
    · have htakes := filling_takes (tier := 0) hstage hboot (by decide) (congrArg not hfill)
      exact ((exec_tierFillComplete 0 s).trans (if_neg htakes)).trans (setReady_done rfl rfl)
    · have htakes := filling_takes (tier := 1) hstage hboot (by decide) (congr (congrArg (fun a b => a && !b) htrained) hfill)
      refine ((exec_tierFillComplete 1 s).trans (if_neg htakes)).trans (setReady_done rfl ?_)
      exact congrArg (· && s.mem.ddrDone && !s.mem.fault) (Bool.and_true s.mem.sramDone).symm
    · have htakes := filling_takes (tier := 2) hstage hboot (by decide) (congr (congrArg (fun a b => a && !b) htrained) hfill)
      refine ((exec_tierFillComplete 2 s).trans (if_neg htakes)).trans (setReady_done rfl ?_)
      exact congrArg (· && !s.mem.fault) (Bool.and_true (s.mem.sramDone && s.mem.hbmDone)).symm

/-! ## Drone -/

/-- When Drone reads the next page of a device (R308, R309, R434). -/
theorem droneIdle_iff (tier device : Nat) (t : State) :
    (decide (2 < tier) || !(t.devices tier).contains device || !t.fillDone tier || !t.prot.ctrl.getLsbD tier ||
      !(t.dev (devKey tier device)).queue.isEmpty || t.pwr.state == .standby || t.pwr.state == .shutdown) = true ↔
    ¬ (tier < 3 ∧ (t.devices tier).contains device = true ∧ t.fillDone tier = true ∧ t.prot.ctrl.getLsbD tier = true ∧
      (t.dev (devKey tier device)).queue = [] ∧ t.pwr.state ≠ .standby ∧ t.pwr.state ≠ .shutdown) := by
  have hneg (b : Bool) : (!b) = true ↔ ¬ b = true := by cases b <;> decide
  rw [Bool.or_eq_true_iff, Bool.or_eq_true_iff, Bool.or_eq_true_iff, Bool.or_eq_true_iff, Bool.or_eq_true_iff,
    Bool.or_eq_true_iff, decide_eq_true_iff, hneg, hneg, hneg, hneg, List.isEmpty_iff, beq_iff_eq, beq_iff_eq]
  have htier : tier < 3 ↔ ¬ 2 < tier := by omega
  rw [htier]
  simp only [Classical.not_and_iff_not_or_not, Classical.not_not, ne_eq, or_assoc]

/-- The walk of a device after its page was read (R309). -/
def droneWalked (tier k : Nat) (d : MemDev) (v : State) : Result :=
  let wrap := v.devicePages tier ≤ d.walk + 1
  let u := v.modDev k fun d =>
    { d with walk := if wrap then 0 else d.walk + 1, walks := if wrap then d.walks + 1 else d.walks }
  done (if wrap then passDone tier d.walks u else u)

theorem droneWalked_step {tier k : Nat} {d : MemDev} {v : State} (h : d.walk + 1 < v.devicePages tier) :
    droneWalked tier k d v = .next (State.settle (v.modDev k fun d => { d with walk := d.walk + 1 })) := by
  have hwrap := Nat.not_le.2 h
  rw [droneWalked]
  simp only [if_neg hwrap]
  exact done_def _

theorem droneWalked_wrap {tier k : Nat} {d : MemDev} {v : State} (h : v.devicePages tier ≤ d.walk + 1) :
    droneWalked tier k d v =
      .next (State.settle (passDone tier d.walks (v.modDev k fun d => { d with walk := 0, walks := d.walks + 1 }))) := by
  rw [droneWalked]
  simp only [if_pos h]
  exact done_def _

/-- Settles O45: Drone's page by whether its walk wraps, a repair by the head of the queue. -/
theorem droneWalksAndRepairs : Obligations.DroneWalksAndRepairs := by
  unfold Obligations.DroneWalksAndRepairs
  refine ⟨fun tier device ups s => ?_, fun tier device ups s => ?_⟩
  · intro t k may
    refine ⟨fun h => ?_, fun h => ?_⟩
    · exact (exec_dronePage tier device ups s).trans (if_pos ((droneIdle_iff tier device t).2 h))
    · intro d page bad u v
      have hexec : exec (.dronePage tier device ups) s = droneWalked tier k d v := by
        rw [exec_dronePage, execDronePage]
        refine (if_neg fun hb => (droneIdle_iff tier device t).1 hb h).trans ?_
        -- The search through the page stays opaque: both sides do the same with what it finds.
        subst v u bad page d k t
        dsimp only
        generalize List.find? _ _ = o
        cases o with
        | none => rfl
        | some w => rfl
      exact ⟨fun hwalk => hexec.trans (droneWalked_step hwalk), fun hwrap => hexec.trans (droneWalked_wrap hwrap)⟩
  · intro t
    have hrepair {q : List Nat} (hq : (t.dev (devKey tier device)).queue = q) : exec (.pageRepair tier device ups) s =
        match (generalizing := false) q with
        | [] => .next t
        | page :: q => done (repairPage tier page (t.modDev (devKey tier device) fun d => { d with queue := q })) := by
      rw [exec_pageRepair, execPageRepair]
      rw [hq] <;> rfl
    exact ⟨fun h => hrepair h, fun page q h => (hrepair h).trans (done_def _)⟩

/-! ## The word code -/

theorem columnSum_xor (l : List Nat) (d e : Nat) : columnSum l (d ^^^ e) = columnSum l d ^^^ columnSum l e := by
  induction l generalizing d e with
  | nil => exact (Nat.xor_self 0).symm
  | cons h t ih =>
    have hbit : (if (d ^^^ e) % 2 = 1 then h else 0) = (if d % 2 = 1 then h else 0) ^^^ (if e % 2 = 1 then h else 0) := by
      by_cases hd : d % 2 = 1
      · by_cases he : e % 2 = 1
        · rw [if_neg fun h => Nat.xor_mod_two_eq_one.1 h (iff_of_true hd he), if_pos hd, if_pos he, Nat.xor_self]
        · rw [if_pos (Nat.xor_mod_two_eq_one.2 fun h => he (h.1 hd)), if_pos hd, if_neg he, Nat.xor_zero]
      · by_cases he : e % 2 = 1
        · rw [if_pos (Nat.xor_mod_two_eq_one.2 fun h => hd (h.2 he)), if_neg hd, if_pos he, Nat.zero_xor]
        · rw [if_neg fun h => Nat.xor_mod_two_eq_one.1 h (iff_of_false hd he), if_neg hd, if_neg he, Nat.xor_self]
    rw [columnSum, columnSum, columnSum, Nat.xor_div_two, ih, hbit]
    ac_rfl

theorem parity_xor (n d e : Nat) : parity n (d ^^^ e) = parity n d ^^^ parity n e := by
  induction n generalizing d e with
  | zero => exact (Nat.xor_self 0).symm
  | succ n ih =>
    have hbit : (d ^^^ e) % 2 = d % 2 ^^^ e % 2 := Nat.xor_mod_two_pow (n := 1)
    rw [parity, parity, parity, Nat.xor_div_two, ih, hbit]
    ac_rfl

theorem columnSum_lt (l : List Nat) (h : ∀ c ∈ l, c < 2 ^ 7) (d : Nat) : columnSum l d < 2 ^ 7 := by
  induction l generalizing d with
  | nil => exact Nat.two_pow_pos 7
  | cons c t ih =>
    refine Nat.xor_lt_two_pow ?_ (ih (fun x hx => h x (List.mem_cons_of_mem c hx)) _)
    split
    next => exact h c List.mem_cons_self
    next => exact Nat.two_pow_pos 7

/-- A check byte is its column sum with the parity bit above it. -/
theorem add_mul_128_xor {a b x y : Nat} (ha : a < 2 ^ 7) (hb : b < 2 ^ 7) :
    (a ^^^ b) + 128 * (x ^^^ y) = (a + 128 * x) ^^^ (b + 128 * y) := by
  have hab : a ^^^ b < 2 ^ 7 := Nat.xor_lt_two_pow ha hb
  have hmod : ((a + 128 * x) ^^^ (b + 128 * y)) % 2 ^ 7 = a ^^^ b := by
    rw [Nat.xor_mod_two_pow]
    congr 1 <;> omega
  have hdiv : ((a + 128 * x) ^^^ (b + 128 * y)) / 2 ^ 7 = x ^^^ y := by
    rw [Nat.xor_div_two_pow]
    congr 1 <;> omega
  omega

/-- The check byte is linear in the data (R298). -/
theorem checkByte_xor (d e : Nat) : checkByte (d ^^^ e) = checkByte d ^^^ checkByte e := by
  have hcols : ∀ c ∈ secdedCols, c < 2 ^ 7 := by decide
  rw [checkByte, checkByte, checkByte, ← add_mul_128_xor (columnSum_lt _ hcols d) (columnSum_lt _ hcols e), columnSum_xor,
    parity_xor, parity_xor]
  ac_rfl

/-- Where the check bytes differ when stored bit i of the 72 is flipped (R299). -/
def flipped (i : Nat) : Nat := if i < 64 then checkByte (2 ^ i) else 2 ^ (i - 64)

/-- Every flip shows in an odd number of check bits. -/
theorem parity_flipped : ∀ i, i < 72 → parity 8 (flipped i) = 1 := by decide +kernel

theorem eq_of_xor_eq_zero {a b : Nat} (h : a ^^^ b = 0) : a = b := by
  rw [← Nat.xor_zero a, ← Nat.xor_self b, ← Nat.xor_assoc, h, Nat.zero_xor]

/-- No two flips have one syndrome. -/
theorem syndrome_flipped_ne : ∀ i, i < 72 → ∀ j, j < i → flipped i % 128 ≠ flipped j % 128 := by decide +kernel

/-- A flip's syndrome tells its place. -/
theorem outcomeOf_flipped : ∀ i, i < 72 → outcomeOf (flipped i) = .corrected (if i < 64 then some i else none) := by decide +kernel

/-- An even difference with a syndrome delivers nothing. -/
theorem outcomeOf_even {d : Nat} (hs : d % 128 ≠ 0) (hp : parity 8 d = 0) : (outcomeOf d).ok = false := by
  rw [outcomeOf, hp, if_neg hs, if_neg (by decide)]
  split <;> rfl

theorem outcomeOf_two_flipped {i j : Nat} (hi : i < 72) (hj : j < i) : (outcomeOf (flipped i ^^^ flipped j)).ok = false := by
  refine outcomeOf_even ?_ ?_
  · intro h
    have hmod : (flipped i ^^^ flipped j) % 2 ^ 7 = 0 := h
    rw [Nat.xor_mod_two_pow] at hmod
    exact syndrome_flipped_ne i hi j hj (eq_of_xor_eq_zero hmod)
  · rw [parity_xor, parity_flipped i hi, parity_flipped j (Nat.lt_trans hj hi)]
    rfl

/-- Settles O46: the check byte's linearity, and the parity and the syndrome of a flip. -/
theorem wordCodeCorrectsOneBitAndFindsTwo : Obligations.WordCodeCorrectsOneBitAndFindsTwo := by
  unfold Obligations.WordCodeCorrectsOneBitAndFindsTwo
  exact ⟨fun d i _ _ => checkByte_xor d (2 ^ i), outcomeOf_flipped, fun i j => outcomeOf_two_flipped⟩

end Sys2Proof.Machine
end

section
/-! The obligations of Kryter links (R351 to R374). -/

namespace Sys2Proof.Machine

/-! ## A link's entry -/

theorem State.klink_modKlink_ne {s : State} {k : Nat} {f : KLink → KLink} (h : f (s.klink k) ≠ {}) :
    (s.modKlink k f).klink k = f (s.klink k) := cget_cput_ne h k s.kl.links

/-- A link that is not DISABLED is listed. -/
theorem KLink.listed {x : KLink} (h : x.state ≠ .disabled) : x ≠ {} := fun hx => h (congrArg KLink.state hx)

/-! ## Receiving -/

section receive

variable {k : Nat} {raw checks : List Byte} {s : State}

/-- A link that receives: TRAINING or UP. -/
theorem deaf_iff (hk : k < 7) : (decide (7 ≤ k) || (s.klink k).state == .disabled || (s.klink k).state == .down) = true ↔
    ((s.klink k).state = .disabled ∨ (s.klink k).state = .down) := by
  rw [decide_eq_false (Nat.not_le.2 hk), Bool.false_or, Bool.or_eq_true_iff, beq_iff_eq, beq_iff_eq]

theorem hears_of_training (hk : k < 7) (h : (s.klink k).state = .training) :
    ¬ (decide (7 ≤ k) || (s.klink k).state == .disabled || (s.klink k).state == .down) = true := by
  rw [deaf_iff hk, h]
  decide

theorem hears_of_up (hk : k < 7) (h : (s.klink k).state = .up) :
    ¬ (decide (7 ≤ k) || (s.klink k).state == .disabled || (s.klink k).state == .down) = true := by
  rw [deaf_iff hk, h]
  decide

/-- A flit that fails on a link that receives. -/
theorem exec_flitReceive_bad (hhears : ¬ (decide (7 ≤ k) || (s.klink k).state == .disabled || (s.klink k).state == .down) = true)
    (hbad : flitOf raw checks = none) : exec (.flitReceive k raw checks) s =
      .next (State.settle (s.modKlink k fun x => { x with crcErr := satInc x.crcErr, ackDirty := true })) := by
  rw [exec_flitReceive, execFlitReceive, if_neg hhears, hbad]
  exact done_def _

theorem exec_flitReceive_training {b : List Byte} (hk : k < 7) (hstate : (s.klink k).state = .training)
    (hgood : flitOf raw checks = some b) : exec (.flitReceive k raw checks) s =
      .next (State.settle (if field b 0 1 % 16 = flitInit then takeInit k (slice 6 246 b) s else s)) := by
  rw [exec_flitReceive, execFlitReceive, if_neg (hears_of_training hk hstate), hgood, hstate]
  refine (if_neg (by decide)).trans ?_
  split
  next => exact done_def _
  next => exact done_def _

theorem exec_flitReceive_up {b : List Byte} (hk : k < 7) (hstate : (s.klink k).state = .up)
    (hgood : flitOf raw checks = some b) : exec (.flitReceive k raw checks) s = .next (takeFlit k b s).settle := by
  rw [exec_flitReceive, execFlitReceive, if_neg (hears_of_up hk hstate), hgood, hstate]
  exact (if_pos rfl).trans (done_def _)

end receive

/-- Settles O47: by the link's state, the flit's type and its order. -/
theorem flitsAreCheckedAndTaken : Obligations.FlitsAreCheckedAndTaken := by
  unfold Obligations.FlitsAreCheckedAndTaken
  intro k raw checks s hk
  refine ⟨fun h => ?_, fun h hbad => ?_, fun b hstate hgood => ?_, fun b hstate hgood => ?_⟩
  · exact (exec_flitReceive k raw checks s).trans (if_pos ((deaf_iff hk).2 h))
  · exact exec_flitReceive_bad (h.elim (hears_of_training hk) (hears_of_up hk)) hbad
  · intro body peer
    have hexec := exec_flitReceive_training hk hstate hgood
    refine ⟨fun h => ?_, fun h hpass => ?_, fun h n hfail => ?_⟩
    · rw [hexec, if_neg h]
    · rw [hexec, if_pos h, takeInit, show initFails k (slice 6 246 b) s = none from hpass]
      rfl
    · rw [hexec, if_pos h, takeInit, show initFails k (slice 6 246 b) s = some n from hfail]
  · intro h u credit inOrder v
    have hexec : exec (.flitReceive k raw checks) s = .next (takeFlit k b s).settle := exec_flitReceive_up hk hstate hgood
    have hnot (t : Nat) (ht : h % 16 = t) (hne : t ≠ flitInit) :
        takeFlit k b s = if h % 16 = flitIdle then credit u else
          if BitVec.ofNat 12 (bitsOf h 8 12) ≠ (u.klink k).ack + 1 then u.modKlink k fun x => { x with ackDirty := true }
          else if h % 16 = flitData then takeData k (h.testBit 4) (slice 6 246 b) (v.modKlink k fun x => { x with retD := x.retD + 1 })
          else takeCtrl k (slice 6 246 b) (v.modKlink k fun x => { x with retC := x.retC + 1 }) :=
      if_neg (ne_of_eq_ne ht hne)
    refine ⟨fun ht => ?_, fun ht => ?_, fun ht horder => ?_, fun ht horder => ?_, fun ht horder => ?_⟩
    · rw [hexec, hnot _ ht (by decide), if_pos ht]
    · rw [hexec, show takeFlit k b s = s from if_pos ht]
    · have hidle : h % 16 ≠ flitIdle := ht.elim (ne_of_eq_ne · (by decide)) (ne_of_eq_ne · (by decide))
      have hinit : h % 16 ≠ flitInit := ht.elim (ne_of_eq_ne · (by decide)) (ne_of_eq_ne · (by decide))
      rw [hexec, hnot _ rfl hinit, if_neg hidle, if_pos horder]
    · rw [hexec, hnot _ ht (by decide), if_neg (ne_of_eq_ne ht (by decide)), if_neg (not_not_intro horder), if_pos ht]
    · rw [hexec, hnot _ ht (by decide), if_neg (ne_of_eq_ne ht (by decide)), if_neg (not_not_intro horder),
        if_neg (ne_of_eq_ne ht (by decide))]

/-! ## Sending -/

/-- A new DATA or CTRL flit of a link that stands as `x`. -/
def newFlit (k typ : Nat) (first : Bool) (body : List Byte) (x : KLink) (s : State) : State :=
  let d := min x.retD 1023
  let c := min x.retC 63
  let b := flitBytes typ first x.fseq x.ack d c body
  emitFlit k b (s.modKlink k fun x => { x with
    fseq := x.fseq + 1, retry := x.retry ++ [(x.fseq, b)], retD := x.retD - d, retC := x.retC - c
    credD := if typ = flitData then x.credD - 1 else x.credD, credC := if typ = flitCtrl then x.credC - 1 else x.credC
    dataLive := if typ = flitData then satInc x.dataLive else x.dataLive })

/-- What a new flit shows of the link, after an update that leaves it listed. -/
theorem sendNew_modKlink {k typ : Nat} {first : Bool} {body : List Byte} {s : State} {f : KLink → KLink}
    (h : f (s.klink k) ≠ {}) :
    sendNew k typ first body (s.modKlink k f) = newFlit k typ first body (f (s.klink k)) (s.modKlink k f) :=
  congrArg (fun x => newFlit k typ first body x (s.modKlink k f)) (State.klink_modKlink_ne h)

/-- The flit that a replay sends next. -/
def KLink.replay (x : KLink) : Option (BitVec 12 × List Byte) :=
  if x.resend = 0 then none else x.retry[x.retry.length - x.resend]?

theorem exec_flitSend_of_lt {k : Nat} {s t : State} (hk : k < 7) (h : sendFlit k s = t) : exec (.flitSend k) s = .next t.settle := by
  rw [exec_flitSend, execFlitSend, if_pos hk, h, done_def]

/-- When a CTRL flit goes. -/
theorem ctrlGoes_iff (x : KLink) : (decide (x.retry.length < 1024) && !x.ctrlQ.isEmpty && x.credC != 0) = true ↔
    (x.retry.length < 1024 ∧ x.ctrlQ ≠ [] ∧ x.credC ≠ 0) := by
  rw [Bool.and_eq_true_iff, Bool.and_eq_true_iff, decide_eq_true_iff, bne_iff_ne, Bool.not_eq_true', ← Bool.not_eq_true,
    List.isEmpty_iff, and_assoc]

theorem dataGoes_iff (x : KLink) : (decide (x.retry.length < 1024) && x.credD != 0) = true ↔
    (x.retry.length < 1024 ∧ x.credD ≠ 0) := by
  rw [Bool.and_eq_true_iff, decide_eq_true_iff, bne_iff_ne]

section send

variable {k : Nat} {s : State}

theorem sendFlit_silent (h : (s.klink k).state = .disabled ∨ (s.klink k).state = .down) : sendFlit k s = s := by
  rw [sendFlit]
  rcases h with h | h <;> rw [h]

theorem sendFlit_training (h : (s.klink k).state = .training) :
    sendFlit k s = emitFlit k (flitBytes flitInit false 0 0 0 0 s.initBody) s := by
  rw [sendFlit, h]

variable (hup : (s.klink k).state = .up)
include hup

theorem sendFlit_replay {q : BitVec 12} {b : List Byte} (h : (s.klink k).replay = some (q, b)) : sendFlit k s =
    emitFlit k (withAck b (s.klink k).ack) (s.modKlink k fun x => { x with
      resend := x.resend - 1, dataLive := if field b 0 1 % 16 = flitData then satInc x.dataLive else x.dataLive }) := by
  rw [KLink.replay] at h
  rw [sendFlit, hup]
  dsimp only
  rw [h]

variable (hnew : (s.klink k).replay = none)
include hnew

theorem sendFlit_new : sendFlit k s =
    if (decide ((s.klink k).retry.length < 1024) && !(s.klink k).ctrlQ.isEmpty && (s.klink k).credC != 0) = true then
      sendNew k flitCtrl false (placeRings 0 (s.klink k).ringLeft ((s.klink k).ctrlQ.take 30)).1.flatten
        (s.modKlink k fun x => { x with
          ctrlQ := x.ctrlQ.drop 30, ringLeft := (placeRings 0 (s.klink k).ringLeft ((s.klink k).ctrlQ.take 30)).2 })
    else match (s.klink k).sendQ with
      | b :: t =>
        if (decide ((s.klink k).retry.length < 1024) && (s.klink k).credD != 0) = true then
          sendNew k flitData ((b.head?.getD 0) != 0) (b.drop 1) (s.modKlink k fun x => { x with sendQ := t })
        else sendFlit.idle k s
      | [] => sendFlit.idle k s := by
  rw [KLink.replay] at hnew
  rw [sendFlit, hup]
  dsimp only
  rw [hnew] <;> rfl

theorem sendFlit_ctrl (hroom : (s.klink k).retry.length < 1024) (hq : (s.klink k).ctrlQ ≠ []) (hcred : (s.klink k).credC ≠ 0) :
    sendFlit k s = newFlit k flitCtrl false (placeRings 0 (s.klink k).ringLeft ((s.klink k).ctrlQ.take 30)).1.flatten
      (s.klink k) (s.modKlink k fun x => { x with
        ctrlQ := x.ctrlQ.drop 30, ringLeft := (placeRings 0 (s.klink k).ringLeft ((s.klink k).ctrlQ.take 30)).2 }) := by
  rw [sendFlit_new hup hnew, if_pos ((ctrlGoes_iff _).2 ⟨hroom, hq, hcred⟩)]
  exact sendNew_modKlink (KLink.listed (ne_of_eq_ne hup (by decide)))

theorem sendFlit_data {b : List Byte} {t : List (List Byte)} (hroom : (s.klink k).retry.length < 1024)
    (hctrl : (s.klink k).ctrlQ = [] ∨ (s.klink k).credC = 0) (hq : (s.klink k).sendQ = b :: t) (hcred : (s.klink k).credD ≠ 0) :
    sendFlit k s = newFlit k flitData ((b.head?.getD 0) != 0) (b.drop 1) (s.klink k)
      (s.modKlink k fun x => { x with sendQ := t }) := by
  rw [sendFlit_new hup hnew, if_neg fun h => ?_, hq]
  · refine (if_pos ((dataGoes_iff _).2 ⟨hroom, hcred⟩)).trans ?_
    exact sendNew_modKlink (KLink.listed (ne_of_eq_ne hup (by decide)))
  · obtain ⟨_, hne, hc⟩ := (ctrlGoes_iff _).1 h
    exact hctrl.elim hne hc

theorem sendFlit_idle (h : ¬ (s.klink k).retry.length < 1024 ∨ (((s.klink k).ctrlQ = [] ∨ (s.klink k).credC = 0) ∧
    ((s.klink k).sendQ = [] ∨ (s.klink k).credD = 0))) : sendFlit k s = sendFlit.idle k s := by
  rw [sendFlit_new hup hnew, if_neg fun hgo => ?_]
  · split
    next b t hq =>
      refine if_neg fun hgo => ?_
      obtain ⟨hroom, hcred⟩ := (dataGoes_iff _).1 hgo
      rcases h with h | ⟨_, h | h⟩
      · exact h hroom
      · exact List.cons_ne_nil b t (hq.symm.trans h)
      · exact hcred h
    next => rfl
  · obtain ⟨hroom, hq, hcred⟩ := (ctrlGoes_iff _).1 hgo
    exact h.elim (· hroom) fun h => h.1.elim hq hcred

end send

/-! ## Limits -/

section limits

variable {k : Nat} {s : State}

/-- A limit that acts on a link in one state, when more holds of it. -/
theorem limit_iff (hk : k < 7) (st : KlState) (b : Bool) :
    (decide (k < 7) && (s.klink k).state == st && b) = true ↔ ((s.klink k).state = st ∧ b = true) := by
  rw [decide_eq_true hk, Bool.true_and, Bool.and_eq_true_iff, beq_iff_eq]

theorem limit_state_iff (hk : k < 7) (st : KlState) : (decide (k < 7) && (s.klink k).state == st) = true ↔ (s.klink k).state = st := by
  rw [decide_eq_true hk, Bool.true_and, beq_iff_eq]

theorem noReplay_iff (hk : k < 7) : (decide (7 ≤ k) || (s.klink k).state != .up || (s.klink k).retry.isEmpty) = true ↔
    ((s.klink k).state ≠ .up ∨ (s.klink k).retry = []) := by
  rw [decide_eq_false (Nat.not_le.2 hk), Bool.false_or, Bool.or_eq_true_iff, bne_iff_ne, List.isEmpty_iff]

/-- A class with flits waiting and no credit. -/
theorem stuck_iff (q : List (List Byte)) (c : Nat) : (!q.isEmpty && c == 0) = true ↔ (q ≠ [] ∧ c = 0) := by
  rw [Bool.and_eq_true_iff, beq_iff_eq, Bool.not_eq_true', ← Bool.not_eq_true, List.isEmpty_iff]

theorem exec_creditTimeout_of {data : Bool} {q : List (List Byte)} {c : Nat} (hk : k < 7)
    (hstuck : (if data then !(s.klink k).sendQ.isEmpty && (s.klink k).credD == 0
      else !(s.klink k).ctrlQ.isEmpty && (s.klink k).credC == 0) = (!q.isEmpty && c == 0)) :
    ((s.klink k).state = .up → q ≠ [] → c = 0 → exec (.creditTimeout k data) s = .next (State.settle (leaveUp k 2 s))) ∧
    (((s.klink k).state ≠ .up ∨ q = [] ∨ c ≠ 0) → exec (.creditTimeout k data) s = .next s) := by
  rw [exec_creditTimeout, execCreditTimeout]
  rw [hstuck]
  refine ⟨fun hup hq hc => ?_, fun h => ?_⟩
  · rw [if_pos ((limit_iff hk .up _).2 ⟨hup, (stuck_iff q c).2 ⟨hq, hc⟩⟩), done_def]
  · refine if_neg fun hgo => ?_
    obtain ⟨hup, hstuck⟩ := (limit_iff hk .up _).1 hgo
    obtain ⟨hq, hc⟩ := (stuck_iff q c).1 hstuck
    exact h.elim (· hup) fun h => h.elim hq (· hc)

end limits

/-- Settles O48: what is sent by the link's state and queues, each limit by its guard. -/
theorem linksSendAndMeetTheirLimits : Obligations.LinksSendAndMeetTheirLimits := by
  unfold Obligations.LinksSendAndMeetTheirLimits
  refine ⟨fun k s hk => ?_, fun k s hk => ?_, fun k reason s hup => ?_⟩
  · intro x room d c sent
    refine ⟨fun h => exec_flitSend_of_lt hk (sendFlit_silent h), fun h => exec_flitSend_of_lt hk (sendFlit_training h),
      fun hup => ?_⟩
    intro replay
    refine ⟨fun q b h => exec_flitSend_of_lt hk (sendFlit_replay hup h),
      fun hnew hroom hq hcred => exec_flitSend_of_lt hk (sendFlit_ctrl hup hnew hroom hq hcred),
      fun b t hnew hroom hctrl hq hcred => exec_flitSend_of_lt hk (sendFlit_data hup hnew hroom hctrl hq hcred),
      fun hnew h => exec_flitSend_of_lt hk (sendFlit_idle hup hnew h)⟩
  · intro x
    obtain ⟨hstuckD, hfreeD⟩ := exec_creditTimeout_of (s := s) (data := true) hk rfl
    obtain ⟨hstuckC, hfreeC⟩ := exec_creditTimeout_of (s := s) (data := false) hk rfl
    refine ⟨fun hup hq => ?_, fun hup hr ho => ?_, fun hup hr ho => ?_, hstuckD, hstuckC, fun hup => ?_, fun h => ?_, fun h => ?_,
      fun h => ?_, fun h => ?_, hfreeD, hfreeC, fun h => ?_, fun h => ?_, fun h => ?_⟩
    · exact exec_done (if_pos ((limit_iff hk .up _).2 ⟨hup, List.isEmpty_iff.2 hq⟩)) rfl
    · have hgo : ¬ (decide (7 ≤ k) || (s.klink k).state != .up || (s.klink k).retry.isEmpty) = true := fun h =>
        ((noReplay_iff hk).1 h).elim (· hup) hr
      exact ((exec_replayTimeout k s).trans (if_neg hgo)).trans ((if_neg (Nat.not_le.2 ho)).trans (done_def _))
    · have hgo : ¬ (decide (7 ≤ k) || (s.klink k).state != .up || (s.klink k).retry.isEmpty) = true := fun h =>
        ((noReplay_iff hk).1 h).elim (· hup) hr
      exact ((exec_replayTimeout k s).trans (if_neg hgo)).trans ((if_pos ho).trans (done_def _))
    · exact exec_done (if_pos ((limit_state_iff hk .up).2 hup)) rfl
    · exact exec_done (if_pos ((limit_state_iff hk .training).2 h)) rfl
    · exact exec_done (if_pos ((limit_state_iff hk .down).2 h)) rfl
    · exact (exec_tileMessageSend k s).trans (if_neg fun hgo =>
        h.elim (· ((limit_iff hk .up _).1 hgo).1) (· (List.isEmpty_iff.1 ((limit_iff hk .up _).1 hgo).2)))
    · exact (exec_replayTimeout k s).trans (if_pos ((noReplay_iff hk).2 h))
    · exact (exec_laneLockLoss k s).trans (if_neg (mt (limit_state_iff hk .up).1 h))
    · exact (exec_trainingTimeout k s).trans (if_neg (mt (limit_state_iff hk .training).1 h))
    · exact (exec_trainingRetry k s).trans (if_neg (mt (limit_state_iff hk .down).1 h))
  · intro u v w
    exact if_neg (by rw [hup]; decide)

/-! ## Registers, holds and gaps -/

/-- What KL_LINK_PEER does not take (R359). -/
theorem badPeer_iff (mode pos n : Nat) (mask : List Nat) (openHere : Bool) :
    (decide (mode = 3) || openHere || mode == 2 && (mask.contains pos || mask.length != n)) = true ↔
      ¬ (mode ≠ 3 ∧ openHere = false ∧ (mode = 2 → pos ∉ mask ∧ mask.length = n)) := by
  rw [Bool.or_eq_true_iff, Bool.or_eq_true_iff, Bool.and_eq_true_iff, Bool.or_eq_true_iff, decide_eq_true_iff, beq_iff_eq,
    bne_iff_ne, List.contains_iff_mem, ← Bool.not_eq_true]
  simp only [Classical.not_and_iff_not_or_not, Classical.not_imp, Classical.not_not, ne_eq, or_assoc]

theorem writeLinkPeer_present {r : Nat} {v : W32} {s : State} {e : LinkEnt} (h : s.devLink? (s.sess r).sel.klLink.toNat = some e) :
    writeLinkPeer r v s =
      if (decide (v.toNat / 2 ^ 30 = 3) ||
          (s.img.plans.any fun p => s.img.planUses p (s.sess r).sel.klLink.toNat && s.planOpen p.plan) ||
          v.toNat / 2 ^ 30 == 2 && (((List.range 8).filter fun q => v.getLsbD q).contains s.kl.pos.toNat ||
            ((List.range 8).filter fun q => v.getLsbD q).length != max 1 e.mcast)) = true then klErr s
      else s.modKimg (s.sess r).sel.klLink.toNat fun k => { k with
        mode := BitVec.ofNat 2 (v.toNat / 2 ^ 30), mask := v.setWidth 8
        branches := if v.toNat / 2 ^ 30 = 2 ∧ e.mcast ≠ 0 then
            ((List.range 8).filter fun q => v.getLsbD q).map fun p => { pos := p, empty := e.buffers }
          else [{ pos := 8, empty := e.buffers }] } := by
  rw [writeLinkPeer]
  dsimp only
  rw [h]
  dsimp only
  simp only [Bool.and_eq_true, decide_eq_true_eq]

/-- A hold of a link of the image. -/
theorem exec_holdExpiry_present {link : Nat} {s : State} {e : LinkEnt} (he : s.img.link? link = some e) :
    exec (.holdExpiry link) s =
      if (!(s.kimg link).holding) = true then .next s
      else
        let slow := ((s.kimg link).branches.filter fun b => b.live && b.empty == 0).map (·.pos)
        let u := slow.foldl (fun s p => dropBranch e p s) s
        done (fillAll link (u.modKimg link fun k => { k with holding := false })) := by
  rw [exec_holdExpiry, execHoldExpiry, he] <;> rfl

/-- A GAP that waits for its branch and its Kryter link (R362). -/
theorem exec_gapSend_queued {link position k lap buffer : Nat} {s : State} {b : Branch} {t : List (Nat × Nat)}
    (hb : (s.kimg link).branches.find? (·.pos = position) = some b) (hq : b.gapQ = (lap, buffer) :: t)
    (hway : s.branchWay link b = some (.kryter k)) : exec (.gapSend link position) s =
      if (decide (b.empty = 0) || (s.klink k).state != .up) = true then .next s
      else done (queueSignals k [signalRecord 3 link (BitVec.ofNat 32 (lap * 65536 + buffer))] (s.modKimg link fun x => { x with
        gaps := satInc x.gaps
        branches := x.branches.map fun c => if c.pos = position then { c with gapQ := t, empty := c.empty - 1 } else c })) := by
  rw [exec_gapSend, execGapSend, hb]
  dsimp only
  rw [hq, hway]

theorem exec_gapSend_elsewhere {link position : Nat} {s : State} {b : Branch}
    (hb : (s.kimg link).branches.find? (·.pos = position) = some b)
    (h : b.gapQ = [] ∨ ∀ k, s.branchWay link b ≠ some (.kryter k)) : exec (.gapSend link position) s = .next s := by
  rw [exec_gapSend, execGapSend, hb]
  dsimp only
  split
  next k lap buffer t hq hway =>
    rcases h with h | h
    · exact absurd (hq.symm.trans h) (List.cons_ne_nil _ _)
    · exact absurd hway (h _)
  next => rfl

/-- Settles O49: each register by what it takes, a hold and a GAP by what waits. -/
theorem kryterRegistersHoldsAndGaps : Obligations.KryterRegistersHoldsAndGaps := by
  unfold Obligations.KryterRegistersHoldsAndGaps
  refine ⟨fun r v s hacts => ⟨?_, ?_, ?_⟩, fun link s => ⟨fun h => ?_, fun e he hhold => ?_⟩,
    fun link position s => ⟨fun h => ?_, fun b hb => ⟨exec_gapSend_elsewhere hb, fun lap buffer t k hq hway => ⟨?_, ?_⟩⟩⟩⟩
  · exact exec_byReader (exec_klCtrl r v s) hacts rfl
  · intro x
    exact ⟨fun hopen => exec_byReader (exec_klRingMember r v s) hacts (if_pos hopen),
      fun hopen => exec_byReader (exec_klRingMember r v s) hacts (if_neg (ne_of_eq_ne hopen (by decide)))⟩
  · intro l err
    refine ⟨fun h => ?_, fun e he => ?_⟩
    · refine exec_byReader (exec_klLinkPeer r v s) hacts ?_
      rw [writeLinkPeer]
      dsimp only
      rw [h] <;> rfl
    · intro mode mask may
      have hwrite := writeLinkPeer_present (v := v) he
      exact ⟨fun h => exec_byReader (exec_klLinkPeer r v s) hacts (hwrite.trans (if_pos ((badPeer_iff _ _ _ _ _).2 h))),
        fun h => exec_byReader (exec_klLinkPeer r v s) hacts
          (hwrite.trans (if_neg fun hbad => (badPeer_iff _ _ _ _ _).1 hbad h))⟩
  · rcases h with h | h
    · rw [exec_holdExpiry, execHoldExpiry, h]
    · rw [exec_holdExpiry, execHoldExpiry]
      split
      next => rfl
      next => rw [h]; rfl
  · refine (exec_holdExpiry_present he).trans ((if_neg ?_).trans (done_def _))
    rw [hhold]
    decide
  · rw [exec_gapSend, execGapSend, h]
  · intro h
    refine (exec_gapSend_queued hb hq hway).trans (if_pos ?_)
    rwa [Bool.or_eq_true_iff, decide_eq_true_iff, bne_iff_ne]
  · intro hempty hup
    refine (exec_gapSend_queued hb hq hway).trans ((if_neg ?_).trans (done_def _))
    rw [Bool.or_eq_true_iff, decide_eq_true_iff, bne_iff_ne]
    exact fun h => h.elim hempty (· hup)

end Sys2Proof.Machine
end

section
/-! The obligations of serial port commands and of the event recorder (R379 to R388, R412 to R424). -/

namespace Sys2Proof.Machine

/-! ## Serial port commands -/

section sap

variable {r n : Nat} {s : State} (hacts : s.actsAs .session r = true) (hn : n < 4)
include hacts hn

/-- A command of one of the four ports. -/
theorem exec_sapCommand {i : Instr} {f : State → State} {t : State}
    (e : exec i s = byReader .session r (fun s => if n < 4 then f s else s) s) (h : f s = t) : exec i s = .next t.settle :=
  exec_byReader e hacts ((if_pos hn).trans h)

/-- A command that a port takes under a condition, and refuses without it (R384). -/
theorem exec_sapCommand_iff {i : Instr} {f act : State → State} {b : Bool} {p : Prop}
    (e : exec i s = byReader .session r (fun s => if n < 4 then f s else s) s)
    (hf : f s = if b = true then act s else sapErr n s) (hb : b = true ↔ p) :
    (p → exec i s = .next (act s).settle) ∧
    (¬ p → exec i s = .next (State.settle (s.modSap n fun x => { x with cmdErr := true }))) :=
  ⟨fun h => exec_sapCommand hacts hn e (hf.trans (if_pos (hb.2 h))),
    fun h => exec_sapCommand hacts hn e (hf.trans (if_neg (mt hb.1 h)))⟩

end sap

/-- A port that a STOP finds in its run. -/
theorem inRun_iff (st : SapState) : (st == .runin || st == .running) = true ↔ (st = .runin ∨ st = .running) := by
  rw [Bool.or_eq_true_iff, beq_iff_eq, beq_iff_eq]

/-- Settles O50: each command by the condition that takes it, a mask by what waits. -/
theorem serialPortCommandsAndMasks : Obligations.SerialPortCommandsAndMasks := by
  unfold Obligations.SerialPortCommandsAndMasks
  refine ⟨fun r n s hacts hn => ?_, fun r n v lastTwo s hacts hn => ?_⟩
  · intro x refused inTime stops arm
    obtain ⟨hstart, hnoStart⟩ := exec_sapCommand_iff (act := fun s => s.modSap n (armSap x.pos false)) hacts hn
      (p := x.state = .stopped ∧ x.startable = true ∧ inTime) (exec_sapCmdStart r n s) rfl (by
        rw [Bool.and_eq_true_iff, Bool.and_eq_true_iff, Bool.and_eq_true_iff, beq_iff_eq, decide_eq_true_iff,
          decide_eq_true_iff, and_assoc, and_assoc])
    obtain ⟨hext, hnoExt⟩ := exec_sapCommand_iff (act := fun s => s.modSap n (armSap 0 true)) hacts hn
      (p := x.state = .stopped ∧ x.startable = true) (exec_startExt r n s) rfl (by rw [Bool.and_eq_true_iff, beq_iff_eq])
    obtain ⟨hstop, hnoStop⟩ := exec_sapCommand_iff (act := fun s => s.modSap n fun y => { y with p1 := some x.pos }) hacts hn
      (p := (x.state = .runin ∨ x.state = .running) ∧ stops) (exec_sapCmdStop r n s) rfl (by
        rw [Bool.and_eq_true_iff, Bool.and_eq_true_iff, inRun_iff, decide_eq_true_iff, decide_eq_true_iff, and_assoc])
    obtain ⟨hnow, hnoNow⟩ := exec_sapCommand_iff (act := fun s => s.modSap n fun y => { y with p1 := some x.next }) hacts hn
      (p := x.state = .runin ∨ x.state = .running) (exec_stopNow r n s) rfl (inRun_iff _)
    obtain ⟨hcancel, hnoCancel⟩ := exec_sapCommand_iff
      (act := fun s => s.modSap n fun y => { y with state := .stopped, ext := false }) hacts hn
      (p := x.state = .armed) (exec_sapCmdCancel r n s) rfl beq_iff_eq
    exact ⟨fun h1 h2 h3 => hstart ⟨h1, h2, h3⟩, hnoStart, fun h1 h2 => hext ⟨h1, h2⟩, hnoExt, fun h1 h2 => hstop ⟨h1, h2⟩, hnoStop,
      hnow, hnoNow, hcancel, hnoCancel⟩
  · intro x
    have hmask {last : Bool} {t : State} (h : writeMask n v last s = t) : exec (.sapMask r n v last) s = .next t.settle :=
      exec_sapCommand hacts hn (exec_sapMask r n v last s) h
    refine ⟨fun htxn hrun => hmask ?_, fun htxn hrun => hmask ?_, fun h => hmask ?_⟩
    · exact if_pos (Bool.and_eq_true_iff.2 ⟨htxn, hrun⟩)
    · refine (if_neg ?_).trans (if_pos ((Bool.true_and _).trans hrun))
      rw [show (s.sap n).txnMask = none from htxn]
      exact Bool.false_ne_true
    · rcases h with hrun | ⟨htxn, rfl⟩
      · refine (if_neg ?_).trans (if_neg ?_)
        · exact fun hb => absurd (hrun.symm.trans (Bool.and_eq_true_iff.1 hb).2) (by decide)
        · exact fun hb => absurd (hrun.symm.trans (Bool.and_eq_true_iff.1 hb).2) (by decide)
      · refine (if_neg ?_).trans (if_neg Bool.false_ne_true)
        rw [show (s.sap n).txnMask = none from htxn]
        exact Bool.false_ne_true

/-! ## The recorder's registers -/

/-- A session that acts is no SMBus port. -/
theorem State.lt_of_actsAs_session {r : Nat} {s : State} (h : s.actsAs .session r = true) : r < 8 := by
  refine Classical.byContradiction fun hr => ?_
  rw [State.actsAs, if_neg hr, Bool.and_eq_true_iff] at h
  exact Bool.false_ne_true h.2

/-- What a read of EVREC_DATA0 captures (R420, R423). -/
def captured (r : Nat) (s : State) : BitVec 256 :=
  let slot := (s.reader r).cursor
  let stored := cget erased s.bureau.ring slot.toNat
  if s.bureau.clearing.isSome then erased else
    match s.bureau.openRec with
    | some (o, _, _, n, _) => if o = slot then withRepeat stored n else stored
    | none => stored

theorem exec_evrecData0_captured {r : Nat} {s : State} {c : BitVec 256} (hacts : s.actsAs .always r = true)
    (h : captured r s = c) : exec (.evrecData0 r) s = .next (State.settle { s with
      readers := cput {} r { s.reader r with capture := c } s.readers }) := by
  rw [← h]
  exact exec_byReader (exec_evrecData0 r s) hacts rfl

section captured

variable {r : Nat} {s : State}

theorem captured_clearing (h : s.bureau.clearing.isSome = true) : captured r s = erased := if_pos h

theorem captured_closed (hclear : s.bureau.clearing = none) (h : s.bureau.openRec = none) :
    captured r s = cget erased s.bureau.ring (s.reader r).cursor.toNat := by
  rw [captured, hclear, h]
  rfl

theorem captured_open {o code n : W16} {p0 per : W32} (hclear : s.bureau.clearing = none)
    (h : s.bureau.openRec = some (o, code, p0, n, per)) : captured r s =
      if o = (s.reader r).cursor then withRepeat (cget erased s.bureau.ring (s.reader r).cursor.toNat) n
      else cget erased s.bureau.ring (s.reader r).cursor.toNat := by
  rw [captured, hclear, h]
  rfl

end captured

/-- What a CLEAR needs (R422). -/
theorem mayClear_iff {r : Nat} (hr : r < 8) (v : W32) (s : State) :
    (decide (v = 0x434C4541) && decide (r < 8) && (s.sess r).co && s.bureau.clearing.isNone) = true ↔
      (v = 0x434C4541 ∧ (s.sess r).co = true ∧ s.bureau.clearing = none) := by
  rw [Bool.and_eq_true_iff, Bool.and_eq_true_iff, Bool.and_eq_true_iff, decide_eq_true_iff, decide_eq_true hr,
    Option.isNone_iff_eq_none, and_iff_left (rfl : true = true), and_assoc]

/-- Settles O53: each register by its reader, CLEAR by what it needs. -/
theorem eventRecorderRegisters : Obligations.EventRecorderRegisters := by
  unfold Obligations.EventRecorderRegisters
  intro r v s
  refine ⟨fun hacts => ?_, ?_, fun hacts => ?_, fun hr hon => ?_⟩
  · intro slot stored shows
    refine ⟨fun h => exec_evrecData0_captured hacts (captured_clearing h),
      fun hclear hopen => exec_evrecData0_captured hacts (captured_closed hclear hopen),
      fun o code p0 n per hclear hopen => ⟨fun ho => ?_, fun ho => ?_⟩, ?_, ?_⟩
    · exact exec_evrecData0_captured hacts ((captured_open hclear hopen).trans (if_pos ho))
    · exact exec_evrecData0_captured hacts ((captured_open hclear hopen).trans (if_neg (show ¬ o = slot from ho)))
    · exact exec_byReader (exec_evrecData7 r s) hacts rfl
    · exact exec_byReader (exec_evrecCtrl r v s) hacts rfl
  · exact exec_done (exec_freezeExpiry r s) rfl
  · have hr := State.lt_of_actsAs_session hacts
    have hexec : exec (.evrecClear r v) s = byReader .session r (fun s => writeClear r v s) s := by
      refine (exec_evrecClear r v s).trans (if_neg ?_)
      rw [decide_eq_false (Nat.ne_of_lt hr), Bool.false_and]
      decide
    exact ⟨fun h => exec_byReader hexec hacts (if_neg (mt (mayClear_iff hr v s).1 h)),
      fun hv hco hclear => exec_byReader hexec hacts (if_pos ((mayClear_iff hr v s).2 ⟨hv, hco, hclear⟩))⟩
  · refine exec_done ((exec_evrecClear r v s).trans (if_pos ?_)) rfl
    rw [decide_eq_true hr, hon]
    rfl

/-! ## The recorder's queue and its flash -/

@[simp] theorem closeRec_queue (b : Bureau) : (closeRec b).queue = b.queue := by
  rw [closeRec]
  split <;> rfl

@[simp] theorem countRec_queue (b : Bureau) : (countRec b).queue = b.queue := by
  rw [countRec]
  split
  next => rfl
  next =>
    dsimp only
    split
    next => exact closeRec_queue _
    next => rfl

/-- An event that is no recurrence starts, waits or is lost. -/
theorem arrive_fresh (frozen : Bool) {b : Bureau} {e : Event} (h : recurs e b = false) : arrive frozen b e =
    if (mayStart frozen (closeRec b) && (closeRec b).eraseDue.isNone && (closeRec b).queue.isEmpty) = true then
      { closeRec b with programming := some e }
    else if (closeRec b).queue.length < 256 then { closeRec b with queue := (closeRec b).queue ++ [e] }
    else { closeRec b with lost := satInc (closeRec b).lost, lostFlag := true } :=
  if_neg (ne_of_eq_ne h (by decide))

/-- The queue keeps its bound (R417). -/
theorem arrive_queue_le (frozen : Bool) {b : Bureau} (e : Event) (h : b.queue.length ≤ 256) :
    (arrive frozen b e).queue.length ≤ 256 := by
  cases hrec : recurs e b with
  | true =>
    rw [arrive, if_pos hrec, countRec_queue]
    exact h
  | false =>
    rw [arrive_fresh frozen hrec]
    split
    next => exact Nat.le_trans (Nat.le_of_eq (congrArg List.length (closeRec_queue b))) h
    next =>
      split
      next hroom => exact Nat.le_trans (Nat.le_of_eq List.length_append) hroom
      next => exact Nat.le_trans (Nat.le_of_eq (congrArg List.length (closeRec_queue b))) h

/-- A full queue loses what arrives. -/
theorem arrive_full (frozen : Bool) {b : Bureau} {e : Event} (hfull : b.queue.length = 256) (h : recurs e b = false) :
    arrive frozen b e = { closeRec b with lost := satInc b.lost, lostFlag := true } := by
  have hlen : (closeRec b).queue.length = 256 := (congrArg List.length (closeRec_queue b)).trans hfull
  have hwaits : (closeRec b).queue.isEmpty = false := by
    rw [← Bool.not_eq_true, List.isEmpty_iff]
    exact fun h0 => absurd (hlen.symm.trans (congrArg List.length h0)) (by decide)
  have hlost : (closeRec b).lost = b.lost := by
    rw [closeRec]
    split <;> rfl
  rw [arrive_fresh frozen h, hwaits, Bool.and_false, hlen, hlost]
  exact (if_neg Bool.false_ne_true).trans (if_neg (by decide))

/-- Settles O54: the queue by the cases of an arrival, each end by what is in progress. -/
theorem eventsWaitAndTheFlashCompletes : Obligations.EventsWaitAndTheFlashCompletes := by
  unfold Obligations.EventsWaitAndTheFlashCompletes
  refine ⟨fun frozen b e h => ⟨arrive_queue_le frozen e h, arrive_full frozen⟩, fun s => ⟨fun h => ?_, fun e h => ?_, fun h => ?_,
    fun sec h => ?_, fun h => ?_, fun r h => ?_⟩, fun s => ⟨fun hon => ⟨?_, ?_⟩, fun hoff => ⟨?_, ?_⟩⟩⟩
  · exact (exec_slotProgramComplete s).trans (if_pos (Option.isNone_iff_eq_none.2 h))
  · have hbusy : ¬ s.bureau.programming.isNone = true := by
      rw [h]
      exact Bool.false_ne_true
    have hend : endProgram s.bureau = putRecord e { s.bureau with programming := none } := by
      rw [endProgram, h]
    refine ((exec_slotProgramComplete s).trans (if_neg hbusy)).trans ((done_def _).trans ?_)
    exact congrArg (fun b => Host.Outcome.next (State.settle (pumpAll { s with bureau := b }))) hend
  · rw [exec_sectorEraseComplete, execSectorEraseComplete, h]
  · rw [exec_sectorEraseComplete, execSectorEraseComplete, h]
    exact done_def _
  · rw [exec_clearEraseComplete, execClearEraseComplete, h]
  · intro e b
    rw [exec_clearEraseComplete, execClearEraseComplete, h]
    exact done_def _
  · exact ((exec_minuteTick s).trans (if_pos hon)).trans (done_def _)
  · exact ((exec_counterPersist s).trans (if_pos hon)).trans (done_def _)
  · exact (exec_minuteTick s).trans (if_neg (ne_of_eq_ne hoff (by decide)))
  · exact (exec_counterPersist s).trans (if_neg (ne_of_eq_ne hoff (by decide)))

end Sys2Proof.Machine
end

section
/-! The obligations of supply, rails, module resets and boot (R418, R425 to R434). -/

namespace Sys2Proof.Machine

/-! ## The supply -/

/-- The main rails are down: SHUTDOWN, with a cause that stands. -/
theorem not_powered_iff (s : State) : (!s.powered) = true ↔ (s.pwr.state = .shutdown ∧ s.pwr.down.isSome = true) := by
  rw [State.powered, Bool.not_or, Bool.and_eq_true_iff, Bool.not_eq_true', bne_eq_false_iff_eq, Option.not_isNone]

theorem powered_iff (s : State) : s.powered = true ↔ (s.pwr.state ≠ .shutdown ∨ s.pwr.down = none) := by
  rw [State.powered, Bool.or_eq_true_iff, bne_iff_ne, Option.isNone_iff_eq_none]

/-- The main rails may start (R425). -/
theorem notOff_iff (mv : Nat) (s : State) :
    (!s.pwr.standbyOn || s.powered || decide (0 < s.pwr.rails) || decide (mv < 47000)) = true ↔
      (¬ (s.pwr.standbyOn = true ∧ s.pwr.state = .shutdown ∧ s.pwr.down.isSome = true ∧ s.pwr.rails = 0) ∨ mv < 47000) := by
  have hon : (!s.pwr.standbyOn) = true ↔ ¬ s.pwr.standbyOn = true := by rw [Bool.not_eq_true', Bool.not_eq_true]
  have hdown : s.powered = true ↔ ¬ (s.pwr.state = .shutdown ∧ s.pwr.down.isSome = true) := by
    rw [← not_powered_iff, Bool.not_eq_true', Bool.not_eq_false]
  have hrails : 0 < s.pwr.rails ↔ ¬ s.pwr.rails = 0 := Nat.pos_iff_ne_zero
  rw [Bool.or_eq_true_iff, Bool.or_eq_true_iff, Bool.or_eq_true_iff, decide_eq_true_iff, decide_eq_true_iff, hon, hdown, hrails]
  simp only [Classical.not_and_iff_not_or_not, or_assoc]

theorem mayRise_iff (p : Pwr) : (p.down == some .vin || p.cleared) = true ↔ (p.down = some .vin ∨ p.cleared = true) := by
  rw [Bool.or_eq_true_iff, beq_iff_eq]

/-- A VIN within its range, or no rails up (R425). -/
theorem vinFine_iff (mv : Nat) (s : State) :
    (!s.pwr.standbyOn || !s.powered || (decide (45000 ≤ mv) && decide (mv ≤ 60000))) = true ↔
      (s.pwr.standbyOn = false ∨ s.powered = false ∨ (45000 ≤ mv ∧ mv ≤ 60000)) := by
  rw [Bool.or_eq_true_iff, Bool.or_eq_true_iff, Bool.and_eq_true_iff, decide_eq_true_iff, decide_eq_true_iff, Bool.not_eq_true',
    Bool.not_eq_true', or_assoc]

/-- A shutdown by VIN leaves the bar of an earlier cause (R428). -/
theorem shutdown_vin (code : W16) (p0 p1 p2 p3 : W32) (s : State) : shutdown .vin code p0 p1 p2 p3 s =
    fire 9 (recordNow code p0 p1 p2 p3 { s with pwr := { s.pwr with
      pwrGood := false, down := if s.pwr.down.isSome then s.pwr.down else some .vin
      cleared := s.pwr.down.isSome && s.pwr.cleared } }) := by
  rw [shutdown, show (s.pwr.down.isSome && DownCause.vin == DownCause.vin) = s.pwr.down.isSome from Bool.and_true _]
  rfl

/-- A shutdown by another cause stands until it is cleared (R428). -/
theorem shutdown_other {cause : DownCause} (h : (cause == .vin) = false) (code : W16) (p0 p1 p2 p3 : W32) (s : State) :
    shutdown cause code p0 p1 p2 p3 s = fire 9 (recordNow code p0 p1 p2 p3
      { s with pwr := { s.pwr with pwrGood := false, down := some cause, cleared := false } }) := by
  rw [shutdown, h, Bool.and_false]
  rfl

@[simp] theorem cutRecord_minutes (bits : BitVec 256) (b : Bureau) : (cutRecord bits b).minutes = b.minutes := by
  rw [cutRecord]
  split <;> rfl

@[simp] theorem cutRecord_pwrcyc (bits : BitVec 256) (b : Bureau) : (cutRecord bits b).pwrcyc = b.pwrcyc := by
  rw [cutRecord]
  split <;> rfl

@[simp] theorem cutRecord_keptMin (bits : BitVec 256) (b : Bureau) : (cutRecord bits b).keptMin = b.keptMin := by
  rw [cutRecord]
  split <;> rfl

/-- Settles O55: each event of the supply by its guard. -/
theorem supplyStartsAndStopsTheDomains : Obligations.SupplyStartsAndStopsTheDomains := by
  unfold Obligations.SupplyStartsAndStopsTheDomains
  intro mv s
  have hpresent : (s.pwr.standbyOn || decide (mv < 40000)) = true ↔ (s.pwr.standbyOn = true ∨ mv < 40000) := by
    rw [Bool.or_eq_true_iff, decide_eq_true_iff]
  have hgone : (!s.pwr.standbyOn || decide (40000 ≤ mv)) = true ↔ (s.pwr.standbyOn = false ∨ 40000 ≤ mv) := by
    rw [Bool.or_eq_true_iff, decide_eq_true_iff, Bool.not_eq_true']
  refine ⟨fun hoff hmv => ?_, fun h => ?_, ⟨?_, ?_⟩, fun hon hpow hmv => ?_, fun h => ?_, fun hon hmv => ?_, fun h => ?_⟩
  · have hgo := mt hpresent.1 (not_or.2 ⟨ne_of_eq_ne hoff (by decide), Nat.not_lt.2 hmv⟩)
    exact ((exec_vinPresent mv s).trans (if_neg hgo)).trans (done_def _)
  · exact (exec_vinPresent mv s).trans (if_pos (hpresent.2 h))
  · intro hoff hmv hcause
    have hgo : ¬ _ := fun h => ((notOff_iff mv s).1 h).elim (· hoff) (Nat.not_lt.2 hmv)
    exact ((exec_vinStable mv s).trans (if_neg hgo)).trans ((if_pos ((mayRise_iff _).2 hcause)).trans (done_def _))
  · intro h
    by_cases hgo : (!s.pwr.standbyOn || s.powered || decide (0 < s.pwr.rails) || decide (mv < 47000)) = true
    · exact (exec_vinStable mv s).trans (if_pos hgo)
    · obtain ⟨hoff, hmv⟩ := not_or.1 (mt (notOff_iff mv s).2 hgo)
      obtain ⟨hvin, hclear⟩ := (h.resolve_left hoff).resolve_left hmv
      have hbar : ¬ (s.pwr.down == some .vin || s.pwr.cleared) = true :=
        mt (mayRise_iff _).1 (not_or.2 ⟨hvin, ne_of_eq_ne hclear (by decide)⟩)
      exact ((exec_vinStable mv s).trans (if_neg hgo)).trans (if_neg hbar)
  · have hgo : ¬ _ := mt (vinFine_iff mv s).1 (not_or.2 ⟨ne_of_eq_ne hon (by decide),
      not_or.2 ⟨ne_of_eq_ne hpow (by decide), by omega⟩⟩)
    refine ((exec_vinFault mv s).trans (if_neg hgo)).trans ((done_def _).trans ?_)
    rw [shutdown_vin]
    rfl
  · exact (exec_vinFault mv s).trans (if_pos ((vinFine_iff mv s).2 h))
  · have hgo := mt hgone.1 (not_or.2 ⟨ne_of_eq_ne hon (by decide), Nat.not_le.2 hmv⟩)
    rw [exec_standbyDomainOff, execStandbyDomainOff, if_neg hgo]
    refine (done_def _).trans ?_
    rw [cutRecord_minutes, cutRecord_pwrcyc, cutRecord_keptMin]
    rfl
  · exact (exec_standbyDomainOff mv s).trans (if_pos (hgone.2 h))

/-! ## The rails -/

/-- Settles O56: each event of the rails by its guard. -/
theorem railsComeUpInOrderAndFail : Obligations.RailsComeUpInOrderAndFail := by
  unfold Obligations.RailsComeUpInOrderAndFail
  intro rail mv s
  refine ⟨?_, ?_, ?_, ?_⟩
  · intro next
    have hgo : (s.pwr.state == .shutdown && s.pwr.down.isNone && decide (rail = s.pwr.rails + 1) && decide (rail ≤ 6)) = true ↔
        next := by
      rw [Bool.and_eq_true_iff, Bool.and_eq_true_iff, Bool.and_eq_true_iff, beq_iff_eq, Option.isNone_iff_eq_none,
        decide_eq_true_iff, decide_eq_true_iff, and_assoc, and_assoc]
    exact ⟨fun h => exec_done ((exec_railRegulation rail s).trans (if_pos (hgo.2 h))) rfl,
      fun h => (exec_railRegulation rail s).trans (if_neg (mt hgo.1 h))⟩
  · intro all
    have hgo : (decide (s.pwr.rails = 6) && !s.pwr.pwrGood && s.pwr.down.isNone) = true ↔ all := by
      rw [Bool.and_eq_true_iff, Bool.and_eq_true_iff, Bool.not_eq_true', Option.isNone_iff_eq_none, decide_eq_true_iff, and_assoc]
    exact ⟨fun h => exec_done ((exec_pwrGoodRise s).trans (if_pos (hgo.2 h))) rfl,
      fun h => (exec_pwrGoodRise s).trans (if_neg (mt hgo.1 h))⟩
  · intro up
    have hgo : (s.powered && decide (1 ≤ rail) && decide (rail ≤ s.pwr.rails)) = true ↔ up := by
      rw [Bool.and_eq_true_iff, Bool.and_eq_true_iff, powered_iff, decide_eq_true_iff, decide_eq_true_iff, and_assoc]
    refine ⟨fun h => ⟨exec_done ((exec_railOutOfTolerance rail s).trans (if_pos (hgo.2 h))) rfl,
      exec_done ((exec_railFault rail mv s).trans (if_pos (hgo.2 h))) ?_⟩, fun h =>
      ⟨(exec_railOutOfTolerance rail s).trans (if_neg (mt hgo.1 h)), (exec_railFault rail mv s).trans (if_neg (mt hgo.1 h))⟩⟩
    exact shutdown_other rfl _ _ _ _ _ _
  · intro fall
    have hgo : (s.pwr.down.isSome && (s.pwr.state != .shutdown || decide (0 < s.pwr.rails))) = true ↔ fall := by
      rw [Bool.and_eq_true_iff, Bool.or_eq_true_iff, bne_iff_ne, decide_eq_true_iff]
    exact ⟨fun h => exec_done ((exec_railsOff s).trans (if_pos (hgo.2 h))) rfl,
      fun h => (exec_railsOff s).trans (if_neg (mt hgo.1 h))⟩

/-! ## Module resets -/

/-- What an asserted MOD_RST_N clears (R428, R437). -/
theorem clearDown_low (s : State) :
    clearDown { s with pwr := { s.pwr with rstLow := true } } =
      (if s.pwr.state ≠ .shutdown then { s with pwr := { s.pwr with rstLow := true } }
       else if s.pwr.down = some .rail then { s with pwr := { s.pwr with rstLow := true, cleared := true, railf := false } }
       else if s.pwr.down = some .thermal ∧ s.allCool = true then
         { s with pwr := { s.pwr with rstLow := true, cleared := true, railf := false, ttrip := false, thermTrip := false } }
       else { s with pwr := { s.pwr with rstLow := true } }) := by
  by_cases hstate : s.pwr.state = .shutdown
  · rw [if_neg (not_not_intro hstate)]
    have hgo : ¬ (s.pwr.state != .shutdown || !true) = true := by
      rw [hstate]
      decide
    refine (if_neg hgo).trans ?_
    cases hdown : s.pwr.down with
    | none => rfl
    | some cause =>
      cases cause with
      | rail => rfl
      | vin => rfl
      | thermal => exact (ite_of_iff (and_iff_right rfl).symm rfl rfl).trans (if_neg (by decide)).symm
  · rw [if_pos hstate]
    exact if_pos (Bool.or_eq_true_iff.2 (.inl (bne_iff_ne.2 hstate)))

@[simp] theorem findRing_ring (b : Bureau) : (findRing b).ring = b.ring := by
  rw [findRing]
  split
  next => rfl
  next => split <;> rfl

@[simp] theorem findRing_minutes (b : Bureau) : (findRing b).minutes = b.minutes := by
  rw [findRing]
  split
  next => rfl
  next => split <;> rfl

@[simp] theorem findRing_pwrcyc (b : Bureau) : (findRing b).pwrcyc = b.pwrcyc := by
  rw [findRing]
  split
  next => rfl
  next => split <;> rfl

@[simp] theorem findRing_queue (b : Bureau) : (findRing b).queue = b.queue := by
  rw [findRing]
  split
  next => rfl
  next => split <;> rfl

@[simp] theorem closeRec_minutes (b : Bureau) : (closeRec b).minutes = b.minutes := by
  rw [closeRec]
  split <;> rfl

@[simp] theorem closeRec_pwrcyc (b : Bureau) : (closeRec b).pwrcyc = b.pwrcyc := by
  rw [closeRec]
  split <;> rfl

theorem endProgram_minutes (b : Bureau) : (endProgram b).minutes = b.minutes := by
  rw [endProgram]
  split
  next => rfl
  next => exact closeRec_minutes _

theorem endProgram_pwrcyc (b : Bureau) : (endProgram b).pwrcyc = b.pwrcyc := by
  rw [endProgram]
  split
  next => rfl
  next => exact closeRec_pwrcyc _

/-- A lifecycle after a reset, of flash's own (R430). -/
theorem keptLifecycle (l : Lifecycle) :
    (if (l == .zeroised) = true then Lifecycle.provisioning else l) = if l = .zeroised then .provisioning else l :=
  ite_of_iff beq_iff_eq rfl rfl

/-- Settles O57: MOD_RST_N by the state it finds, RESET by its key, the end by what holds it, the kept state field by field. -/
theorem moduleResetBeginsAndEnds : Obligations.ModuleResetBeginsAndEnds := by
  unfold Obligations.ModuleResetBeginsAndEnds
  refine ⟨fun s => ?_, fun r v s hacts => ⟨fun h => ?_, fun h => ?_⟩, fun brd s => ?_, fun cause s => ?_⟩
  · intro low busy
    have hbusy : (s.pwr.inReset || s.pwr.state == .shutdown || s.pwr.down.isSome) = true ↔ busy := by
      rw [Bool.or_eq_true_iff, Bool.or_eq_true_iff, beq_iff_eq, or_assoc]
    have hassert {t : State} (hon : s.pwr.standbyOn = true)
        (h : (if (s.pwr.inReset || s.pwr.state == .shutdown || s.pwr.down.isSome) = true then done (clearDown low)
          else done (beginReset 2 low)) = done t) : exec .modRstNAssert s = .next t.settle := by
      rw [exec_modRstNAssert, execModRstNAssert, hon]
      exact h.trans (done_def _)
    refine ⟨fun hon h => hassert hon (if_neg (mt hbusy.1 h)), fun hon h => hassert hon (if_pos (hbusy.2 h)), fun hoff => ?_,
      clearDown_low s⟩
    rw [exec_modRstNAssert, execModRstNAssert, hoff]
    rfl
  · exact exec_byReader (exec_pwrReset r v s) hacts (if_pos h)
  · exact exec_byReader (exec_pwrReset r v s) hacts (if_neg (ne_of_eq_ne h (by decide)))
  · intro ended
    have hidle : (!s.pwr.inReset || decide (s.pwr.cause = 2)) = true ↔ (s.pwr.inReset = false ∨ s.pwr.cause = 2) := by
      rw [Bool.or_eq_true_iff, Bool.not_eq_true', decide_eq_true_iff]
    refine ⟨fun h => (exec_resetEnd brd s).trans (if_pos (hidle.2 h)), fun hreset hcause => ?_, fun hoff => ?_, fun hon => ?_⟩
    · have hgo := mt hidle.1 (not_or.2 ⟨ne_of_eq_ne hreset (by decide), hcause⟩)
      have hexec := (exec_resetEnd brd s).trans (if_neg hgo)
      exact ⟨fun hlow => exec_done (hexec.trans (if_neg (ne_of_eq_ne hlow (by decide)))) rfl,
        fun hlow => exec_done (hexec.trans (if_pos hlow)) rfl⟩
    · rw [exec_modRstNRelease, execModRstNRelease, hoff]
      rfl
    · intro due
      have hdue : (s.pwr.inReset && (decide (s.pwr.cause = 2) || s.pwr.resetDue)) = true ↔ due := by
        rw [Bool.and_eq_true_iff, Bool.or_eq_true_iff, decide_eq_true_iff]
      have hexec : ¬ (!s.pwr.standbyOn) = true := by
        rw [hon]
        decide
      have hexec := (exec_modRstNRelease brd s).trans (if_neg hexec)
      exact ⟨fun h => exec_done (hexec.trans (if_pos (hdue.2 h))) rfl,
        fun h => exec_done (hexec.trans (if_neg (mt hdue.1 h))) rfl⟩
  · intro t
    exact ⟨⟨rfl, rfl, rfl, rfl, rfl, rfl, rfl⟩, ⟨rfl, rfl, rfl, rfl, rfl, rfl, rfl, rfl, rfl, rfl⟩,
      ⟨rfl, keptLifecycle _, rfl, rfl, rfl, rfl, rfl, rfl, rfl, rfl, rfl⟩, findRing_ring _,
      (findRing_minutes _).trans (endProgram_minutes _), (findRing_pwrcyc _).trans (endProgram_pwrcyc _), findRing_queue _, rfl⟩

/-! ## Boot and power states -/

/-- Boot goes on (R432). -/
theorem notBooting_iff (s : State) :
    (s.pwr.state != .boot || s.pwr.inReset) = true ↔ (s.pwr.state ≠ .boot ∨ s.pwr.inReset = true) := by
  rw [Bool.or_eq_true_iff, bne_iff_ne]

/-- A boot stage ends while boot goes on, by its number. -/
theorem exec_bootStage {ms n : Nat} {s : State} (hboot : s.pwr.state = .boot) (hreset : s.pwr.inReset = false)
    (hstage : s.pwr.stage.toNat = n) : exec (.bootStageComplete ms) s = match (generalizing := false) n with
      | 0 => done (startKryter { s with pwr := { s.pwr with stage := 1 } })
      | 1 => if (s.sec.mode == .error) = true then .next s else done (bootSelftest s)
      | 2 => done { s with pwr := { s.pwr with stage := 3 } }
      | 3 => if (s.mem.fault || !s.mem.hbmTrained || !s.mem.ddrTrained) = true then .next s
        else done { s with pwr := { s.pwr with stage := 4 } }
      | 4 => if s.mem.ready = true then
          done { s with pwr := { s.pwr with stage := 5, state := .on, bootMs := BitVec.ofNat 16 (min ms 65535) } }
        else .next s
      | _ => .next s := by
  have hgo := mt (notBooting_iff s).1 (not_or.2 ⟨not_not_intro hboot, ne_of_eq_ne hreset (by decide)⟩)
  rw [exec_bootStageComplete, execBootStageComplete, if_neg hgo]
  dsimp only
  rw [hstage] <;> rfl

/-- Settles O58: boot by its stage, STANDBY and WAKE by the state they find. -/
theorem bootStagesAndPowerStates : Obligations.BootStagesAndPowerStates := by
  unfold Obligations.BootStagesAndPowerStates
  refine ⟨fun ms s => ⟨fun h => ?_, fun hboot hreset => ?_⟩, fun r s hacts => ⟨fun h => ?_, fun h => ?_, fun h => ?_, fun h => ?_⟩,
    fun s => ⟨fun h1 h2 => ?_, fun h => ?_⟩⟩
  · by_cases hgo : (s.pwr.state != .boot || s.pwr.inReset) = true
    · exact (exec_bootStageComplete ms s).trans (if_pos hgo)
    · obtain ⟨hboot, hreset⟩ := not_or.1 (mt (notBooting_iff s).2 hgo)
      obtain ⟨n, hn⟩ := Nat.exists_eq_add_of_le' ((h.resolve_left hboot).resolve_left hreset)
      exact exec_bootStage (Classical.not_not.1 hboot) (Bool.eq_false_iff.2 hreset) hn
  · have hexec {n : BitVec 3} (h : s.pwr.stage = n) := exec_bootStage (ms := ms) hboot hreset (congrArg BitVec.toNat h)
    have hmem : (s.mem.fault || !s.mem.hbmTrained || !s.mem.ddrTrained) = true ↔
        ¬ (s.mem.fault = false ∧ s.mem.hbmTrained = true ∧ s.mem.ddrTrained = true) := by
      cases s.mem.fault <;> cases s.mem.hbmTrained <;> cases s.mem.ddrTrained <;> decide
    refine ⟨fun h => ?_, fun h herr => ?_, fun h hgood => ?_, fun h => ?_, fun h => ⟨fun hmay => ?_, fun hmay => ?_⟩,
      fun h hready => ?_, fun h hready => ?_⟩
    · exact (hexec h).trans (done_def _)
    · exact (hexec h).trans (if_pos (beq_iff_eq.2 herr))
    · exact ((hexec h).trans (if_neg (mt beq_iff_eq.1 hgood))).trans (done_def _)
    · exact (hexec h).trans (done_def _)
    · exact (hexec h).trans (if_pos (hmem.2 hmay))
    · exact ((hexec h).trans (if_neg fun hb => hmem.1 hb hmay)).trans (done_def _)
    · exact (hexec h).trans (if_neg (ne_of_eq_ne hready (by decide)))
    · exact ((hexec h).trans (if_pos hready)).trans (done_def _)
  · exact exec_byReader (exec_standby r s) hacts (if_pos h)
  · exact exec_byReader (exec_standby r s) hacts (if_neg (ne_of_eq_ne h (by decide)))
  · exact exec_byReader (exec_wake r s) hacts (if_pos (beq_iff_eq.2 h))
  · exact exec_byReader (exec_wake r s) hacts (if_neg (mt beq_iff_eq.1 h))
  · exact exec_done ((exec_wakeComplete s).trans (if_pos (Bool.and_eq_true_iff.2 ⟨beq_iff_eq.2 h1, h2⟩))) rfl
  · refine (exec_wakeComplete s).trans (if_neg fun hgo => ?_)
    obtain ⟨hstate, hwaking⟩ := Bool.and_eq_true_iff.1 hgo
    exact h.elim (· (beq_iff_eq.1 hstate)) fun h => absurd (hwaking.symm.trans h) (by decide)

end Sys2Proof.Machine
end

section
/-! The obligations of sensors, telemetry, the SMBus port and the test port (R393, R435 to R442). -/

namespace Sys2Proof.Machine

/-! ## Sensors -/

/-- A sensor without limits is none (R435). -/
theorem sampleSensor_absent {i : Nat} {t : W16} {s : State} (h : s.sensor i = false) : sampleSensor s (i, t) = s := by
  rw [sampleSensor]
  dsimp only
  rw [h]
  split <;> rfl

/-- A sample stands, with its peak (R435). -/
def sampled (i : Nat) (t : W16) (s : State) : State :=
  let peak := match cget none s.pwr.peaks i with
    | some p => if p.toInt < t.toInt then t else p
    | none => t
  { s with pwr := { s.pwr with temps := cput none i (some t) s.pwr.temps, peaks := cput none i (some peak) s.pwr.peaks } }

/-- What a sample does at the warning limit `w` of its sensor (R436). -/
def warnedAt (w : Int) (i : Nat) (t : W16) (s : State) : State :=
  if 16 * w ≤ t.toInt && !s.pwr.warned.contains i then
    fire 9 (record 0x0A04 (BitVec.ofNat 32 i) (t.setWidth 32) (BitVec.ofInt 32 (16 * w)) (lo32 s.tl.pos)
      { s with pwr := { s.pwr with twarn := true, warned := i :: s.pwr.warned } })
  else if t.toInt ≤ 16 * (w - 5) then { s with pwr := { s.pwr with warned := s.pwr.warned.filter (· != i) } } else s

/-- What a sample does at the trip limit `l` of its sensor (R437). -/
def trippedAt (l : Int) (i : Nat) (t : W16) (s : State) : State :=
  if 16 * l ≤ t.toInt && !s.pwr.ttrip then
    shutdown .thermal 0x0A05 (BitVec.ofNat 32 i) (t.setWidth 32) (BitVec.ofInt 32 (16 * l)) (lo32 s.tl.pos)
      { s with pwr := { s.pwr with ttrip := true, thermTrip := true } }
  else s

/-- A die sensor's sample: its limits are 95 and 105 (R435). -/
theorem sampleSensor_die {i : Nat} (hi : i < 5) (t : W16) (s : State) :
    sampleSensor s (i, t) = trippedAt 105 i t (warnedAt 95 i t (sampled i t s)) := by
  have hlimits : sensorLimits i = some (95, some 105) := if_pos hi
  have hsensor : s.sensor i = true := by
    rw [State.sensor, if_neg (by simp; omega), decide_eq_true (by omega)]
  rw [sampleSensor]
  dsimp only
  rw [hlimits, hsensor] <;> rfl

theorem warnedAt_ttrip (w : Int) (i : Nat) (t : W16) (s : State) : (warnedAt w i t s).pwr.ttrip = s.pwr.ttrip := by
  rw [warnedAt]
  split
  next => rfl
  next => split <;> rfl

theorem warnedAt_tl (w : Int) (i : Nat) (t : W16) (s : State) : (warnedAt w i t s).tl = s.tl := by
  rw [warnedAt]
  split
  next => rfl
  next => split <;> rfl

/-- Settles O59: a sample by its two limits, telemetry by the standby domain. -/
theorem sensorsAndTelemetryAreKept : Obligations.SensorsAndTelemetryAreKept := by
  unfold Obligations.SensorsAndTelemetryAreKept
  refine ⟨fun temps s => ⟨fun hon => ?_, fun hoff => ?_⟩, fun i t s => ⟨sampleSensor_absent, fun hi => ?_⟩,
    fun mv ma mw mj s => ⟨fun hon => ?_, fun hoff => ?_⟩, fun r s hacts => ?_⟩
  · rw [exec_thermalSample, execThermalSample, hon]
    exact done_def _
  · rw [exec_thermalSample, execThermalSample, hoff]
    rfl
  · intro peak u w
    have hwarn : (decide (16 * 95 ≤ t.toInt) && !s.pwr.warned.contains i) = true ↔ (16 * 95 ≤ t.toInt ∧ i ∉ s.pwr.warned) := by
      rw [Bool.and_eq_true_iff, decide_eq_true_iff, Bool.not_eq_true', ← Bool.not_eq_true, List.contains_iff_mem]
    have hw : warnedAt 95 i t (sampled i t s) = w := ite_of_iff hwarn rfl rfl
    have htrip : (decide (16 * 105 ≤ t.toInt) && !w.pwr.ttrip) = true ↔ (16 * 105 ≤ t.toInt ∧ s.pwr.ttrip = false) := by
      rw [← hw, warnedAt_ttrip, Bool.and_eq_true_iff, decide_eq_true_iff, Bool.not_eq_true']
      rfl
    rw [sampleSensor_die hi, hw]
    refine ite_of_iff htrip ?_ rfl
    have htl : w.tl = s.tl := (congrArg State.tl hw.symm).trans (warnedAt_tl 95 i t _)
    rw [shutdown_other rfl, htl]
    rfl
  · rw [exec_telemetryUpdate, execTelemetryUpdate, hon]
    exact done_def _
  · rw [exec_telemetryUpdate, execTelemetryUpdate, hoff]
    rfl
  · exact exec_byReader (exec_pwrEnergyLo r s) hacts rfl

/-! ## The SMBus port -/

section smbus

variable {s : State}

/-- A register that the SMBus port reads within its subset, and outside it (R441). -/
theorem smbReads_one : smbReads 1 s = (leBytes 4 (smbRead s).1.toNat, (smbRead s).2) :=
  congrArg (·, (smbRead s).2) (List.append_nil _)

theorem smbReads_succ (n : Nat) : smbReads (n + 1) s =
    ((smbReads 1 s).1 ++ (smbReads n (smbReads 1 s).2).1, (smbReads n (smbReads 1 s).2).2) := by
  rw [smbReads_one]
  rfl

variable (hon : s.pwr.standbyOn = true)
include hon

theorem smbWrite_taken {data : List Byte} (f : W32 → State → State) (hlen : data.length = 4) :
    smbWrite data true f s = .next (f (BitVec.ofNat 32 (leNat data)) s).settle := by
  rw [smbWrite, hon, Bool.not_true, if_neg Bool.false_ne_true, if_neg Bool.false_ne_true, if_neg (not_not_intro hlen), done_def]

theorem smbWrite_misfit {data : List Byte} (f : W32 → State → State) (hlen : data.length ≠ 4) :
    smbWrite data true f s = .next (State.settle { s with outbox := s.outbox ++ [.smbusNack] }) := by
  rw [smbWrite, hon, Bool.not_true, if_neg Bool.false_ne_true, if_neg Bool.false_ne_true, if_pos hlen, done_def]
  rfl

theorem smbWrite_badPec (data : List Byte) (f : W32 → State → State) : smbWrite data false f s =
    .next (State.settle { s with pwr := { s.pwr with pecErr := true }, outbox := s.outbox ++ [.smbusNack] }) := by
  rw [smbWrite, hon, Bool.not_true, if_neg Bool.false_ne_true, Bool.not_false, if_pos rfl, done_def]
  rfl

theorem smbReply_on (n : Nat) : smbReply n s =
    .next (State.settle { (smbReads n s).2 with outbox := (smbReads n s).2.outbox ++ [.smbus (smbReads n s).1] }) := by
  rw [smbReply, hon, Bool.not_true, if_neg Bool.false_ne_true]
  exact done_def _

end smbus

section off

variable {s : State} (hoff : s.pwr.standbyOn = false)
include hoff

theorem smbWrite_off (data : List Byte) (pecOk : Bool) (f : W32 → State → State) : smbWrite data pecOk f s = .next s := by
  rw [smbWrite, hoff]
  rfl

theorem smbReply_off (n : Nat) : smbReply n s = .next s := by
  rw [smbReply, hoff]
  rfl

end off

/-- INT_PENDING and EVREC_CLEAR stand outside the port's subset (R441). -/
theorem ne_of_smbReach {off k : Nat} {s : State} (h : s.smbReach (reachOf off) = true) (hk : reachOf k = .session) : off ≠ k := by
  rintro rfl
  rw [hk] at h
  exact Bool.false_ne_true h

/-- What a WRITE of 4 good bytes does (R440). -/
theorem exec_write_taken {data : List Byte} {raced : W32} {s : State} (hon : s.pwr.standbyOn = true) (hlen : data.length = 4) :
    exec (.write ⟨data, raced⟩ true) s = .next (State.settle
      (if s.smbReach (reachOf s.smbOff.toNat) = true then
        resetAfter (writeRaced 8 s.smbOff.toNat (BitVec.ofNat 32 (leNat data)) raced { s with smbOff := s.smbOff + 4 })
      else smbDenied s.smbOff.toNat { s with smbOff := s.smbOff + 4 })) :=
  (exec_write _ _ _).trans (smbWrite_taken hon _ hlen)

/-- Settles O60: each transaction by its PEC, its length and its register. -/
theorem smbusAndTestPort : Obligations.SmbusAndTestPort := by
  unfold Obligations.SmbusAndTestPort
  refine ⟨fun data raced s hon => ?_, fun data pecOk raced s => ⟨rfl, fun hoff => ⟨?_, ?_, ?_, ?_, ?_⟩⟩,
    fun ir s => ⟨fun h => ?_, fun hir hlife => ?_⟩⟩
  · intro off u v
    refine ⟨fun hlen => ⟨(exec_setOffset _ _ _).trans (smbWrite_taken hon _ hlen), fun hreach => ?_, fun hreach hoff => ?_, fun hoff => ?_⟩,
      fun hlen => ⟨(exec_setOffset _ _ _).trans (smbWrite_misfit hon _ hlen),
        (exec_write _ _ _).trans (smbWrite_misfit hon _ hlen)⟩,
      ⟨(exec_setOffset _ _ _).trans (smbWrite_badPec hon _ _), (exec_write _ _ _).trans (smbWrite_badPec hon _ _)⟩, fun hreach => ?_, fun hreach => ?_, fun n => smbReads_succ n,
      (exec_read s).trans (smbReply_on hon 1), (exec_read8 s).trans (smbReply_on hon 8), ?_⟩
    · rw [exec_write_taken hon hlen, if_pos hreach, writeRaced_of_ne _ _ _ _ (ne_of_smbReach hreach rfl)]
      rfl
    · rw [exec_write_taken hon hlen, if_neg (ne_of_eq_ne hreach (by decide)), smbDenied, if_neg hoff]
      rfl
    · have hreach : ¬ s.smbReach (reachOf s.smbOff.toNat) = true := fun h => ne_of_smbReach h rfl hoff
      rw [exec_write_taken hon hlen, if_neg hreach, smbDenied, if_pos hoff]
      rfl
    · rw [smbReads_one, smbRead]
      dsimp only
      rw [if_pos (show ({ s with smbOff := s.smbOff + 4 } : State).smbReach (reachOf s.smbOff.toNat) = true from hreach)]
    · rw [smbReads_one, smbRead]
      dsimp only
      rw [if_neg (show ¬ ({ s with smbOff := s.smbOff + 4 } : State).smbReach (reachOf s.smbOff.toNat) = true from
        ne_of_eq_ne hreach (by decide))]
      exact Prod.ext (show leBytes 4 (0 : W32).toNat = [0, 0, 0, 0] by decide) rfl
    · rw [exec_alertResponse, execAlertResponse, if_pos hon]
      exact done_def _
  · exact (exec_setOffset data pecOk s).trans (smbWrite_off hoff _ _ _)
  · exact (exec_write ⟨data, raced⟩ pecOk s).trans (smbWrite_off hoff _ _ _)
  · exact (exec_read s).trans (smbReply_off hoff 1)
  · exact (exec_read8 s).trans (smbReply_off hoff 8)
  · exact (exec_alertResponse s).trans (if_neg (ne_of_eq_ne hoff (by decide)))
  · refine (exec_boundaryScanAccess ir s).trans (if_pos ?_)
    rwa [Bool.or_eq_true_iff, decide_eq_true_iff, beq_iff_eq]
  · refine (exec_boundaryScanAccess ir s).trans (if_neg ?_)
    rw [Bool.or_eq_true_iff, decide_eq_true_iff, beq_iff_eq]
    exact fun h => h.elim (Nat.not_lt.2 hir) hlife

end Sys2Proof.Machine
end
